-- ==== Sys2Proof/Word.lean ====
section
/-! DEFINITION. Word types of the BX7 (R187) and the sparse canonical store that holds memory and tables. -/

namespace Sys2Proof

/-- A 32-bit register value (R187). -/
abbrev Word := BitVec 32

/-- A 64-bit value: a register pair, a virtual address, a tick. -/
abbrev DWord := BitVec 64

/-- One bit per lane of a squad (R137). -/
abbrev Mask := BitVec 16

abbrev Byte := BitVec 8

/-- A sparse table: entries in strictly rising key order, none equal to what an unlisted key reads as. -/
abbrev Store (α : Type) := List (Nat × α)

namespace Store
variable {α : Type}

/-- The entry at `k`, or the default `d` when none is listed. -/
def get (d : α) : Store α → Nat → α
  | [], _ => d
  | (k', x) :: m, k => if k' = k then x else get d m k

/-- Insert at the place that keeps keys rising, replacing an entry of the same key. -/
def insertRaw : Store α → Nat → α → Store α
  | [], k, x => [(k, x)]
  | (k', y) :: m, k, x =>
    if k < k' then (k, x) :: (k', y) :: m
    else if k' = k then (k, x) :: m
    else (k', y) :: insertRaw m k x

/-- Remove the entry of `k`. -/
def erase (m : Store α) (k : Nat) : Store α := m.filter (fun e => decide (e.1 ≠ k))

/-- Write `x` at `k`; writing the default removes the entry, so that equal tables are equal data. -/
def set [DecidableEq α] (d : α) (m : Store α) (k : Nat) (x : α) : Store α :=
  if x = d then erase m k else insertRaw m k x

/-- Keys rise strictly, starting above `lo` when `lo` is given. -/
def rising : Option Nat → Store α → Bool
  | _, [] => true
  | lo, (k, _) :: m => (match lo with | none => true | some b => decide (b < k)) && rising (some k) m

/-- The canonical form: keys strictly rising and no entry equal to the default. -/
def wf [DecidableEq α] (d : α) (m : Store α) : Bool :=
  rising none m && m.all (fun e => decide (e.2 ≠ d))

end Store

/-- The bits [hi:lo] of `x` as a natural number (the `bits` helper of R176). -/
def bitsOf (x hi lo : Nat) : Nat := x / 2 ^ lo % 2 ^ (hi + 1 - lo)

/-- Lanes 0 to 15. -/
def lanes16 : List Nat := [0, 1, 2, 3, 4, 5, 6, 7, 8, 9, 10, 11, 12, 13, 14, 15]

/-- The lanes of `m` in ascending order. -/
def lanesOf (m : Mask) : List Nat := lanes16.filter (fun l => m.getLsbD l)

/-- The mask of the lanes for which `f` holds. -/
def maskOf (f : Nat → Bool) : Mask :=
  lanes16.foldl (fun (a : Mask) l => if f l then a ||| BitVec.ofNat 16 (2 ^ l) else a) 0

end Sys2Proof
end

