-- ==== Sys2Proof/Config.lean ====
section
/-! DEFINITION. What the spec leaves open: free values (opaque, with no body) and implementation constants. -/

namespace Sys2Proof.Config

/-- A read of a pending register (R146): given the pending result, the part's instruction count and the register and
lane, whether the value after the pending write is read (log 3). -/
opaque pendBit : Nat → Nat → Nat → Bool

/-- Whether a short write over a pending register keeps its own value when the long result lands (R146, log 3). -/
opaque clobberBit : Nat → Nat → Bool

/-- The element code of a small constant that its MX element format does not hold exactly, which R171 leaves unstated:
format code and constant (log 16). -/
opaque mxConst : Nat → Nat → Byte

/-- A byte read from a data unit that was written under another key (R390, log 8): free-value counter and SPA. -/
opaque otherKeyByte : Nat → Nat → Byte

/-- Which of the values it may have a fetched byte takes, when a store has changed it (R186, log 14): cycle and core and
VA. -/
opaque staleFetch : Nat → Nat → Nat

/-- Whether a destination byte of a damaged chunk is written (R277, log 15). -/
opaque damagedWrite : Nat → Nat → Bool

/-- The key material in a wrapped key, given the number of the transport key pair and the 72 bytes, and none when the
wrapping does not authenticate (R392, log 10). -/
opaque unwrapKey : Nat → List Byte → Option Nat

/-- The Ed448ph check of a firmware image: PUBKEY, SIG and the signed bytes (R395, log 10). -/
opaque imageSigned : List Byte → List Byte → List Byte → Bool

/-- The fused root key hash, device secret and minimum SVN (R395, R396, log 10). -/
opaque rootHash : List Byte
opaque deviceSecret : List Byte
opaque fusedSvn : Nat

/-- The Ed448 signature of an attestation report under the alias key of a seed (R397, log 10). -/
opaque signReport : List Byte → List Byte → Nat

/-- The alias certificate: alias key seed, FWMEAS and SVN (R396, R397, log 10). -/
opaque aliasCert : List Byte → List Byte → Nat → List Byte

/-- The X448 public key of a transport key pair (R397, log 10). -/
opaque transportPublic : Nat → Nat

/-- The root table, control window base and size in 64 KiB units that firmware gives a partition (R366, R384, log 23). -/
opaque newRoot : Nat → DWord
opaque windowBase : Nat → DWord
opaque windowUnits : Nat → Nat

/-- A number drawn at random by the secure firmware (R395, R382, log 10). -/
opaque drawn : Nat → DWord

/-- The hash of a destination address and port that selects an Ethernet port (R371, log 21). -/
opaque portHash : BitVec 128 → BitVec 16 → Nat

/-- Timing fields of a sampled record (R401, log 11). -/
opaque sampleField : Nat → Nat → Nat

/-- Whether a read, or a visit of the scrub, meets an error that is corrected: event and 32-byte sector or block (R85, R86,
log 9). -/
opaque softErr : Nat → Nat → Bool

/-- The 32-byte sector the scrub visits in a cycle (R421, log 9). -/
opaque scrubAt : Nat → Nat

/-- The package at the other end of a hub's fabric port (R370, log 25). -/
opaque linkPeer : Nat → Nat → Nat

/-- The average power and the hottest temperature a unit's sensors give: interval and unit (R422, log 4). -/
opaque powerMeas : Nat → Nat → Nat
opaque tempMeas : Nat → Nat → Nat

/-- Whether a core or buffer that is lost still held a posted request, by its number (R355, log 20). -/
opaque heldRequest : Nat → Bool

/-- One less than the entries a home's order log holds, and the pages the increments of a partition's replay storage hold (R413,
R414, log 36). -/
opaque logEntries : Nat
opaque replayPages : Nat

end Sys2Proof.Config
end

