-- ==== Sys2Proof/Syntax.lean ====
section
/-! DEFINITION. The instructions of the Meuno set (R164 to R175) and the events of the device, one constructor of
`Instr` for each row of spec/opcode_table.json. -/

namespace Sys2Proof

/-- Integer width of an ITYPE (R173). -/
inductive Width where | w32 | w8 | w16 | w64
  deriving DecidableEq, Repr

/-- ITYPE: width, and signed or not (R173). -/
structure IType where
  w : Width
  sg : Bool
  deriving DecidableEq, Repr

/-- ORDER of a memory access (R173, R112). -/
inductive Order where | plain | rlx | acq | rel | ar | sc
  deriving DecidableEq, Repr

/-- SCOPE of a strong access (R173, R113). -/
inductive Scope where | sq | tm | st | pk | sy
  deriving DecidableEq, Repr

/-- ROUND (R173, R193). -/
inductive Rnd where | rne | rtz | rdn | rup
  deriving DecidableEq, Repr

/-- Format codes of R250. -/
inductive Fmt where | f32 | f16 | bf16 | e5m2 | e4m3 | e3m2 | e2m3 | e2m1
  deriving DecidableEq, Repr

/-- Special registers (R308). -/
inductive SReg where
  | laneid | sqid | teamid | teamx | teamy | teamz | launchid | stackid | partid | amask | gang
  | ticklo | tickhi | fpstat | fpctl | tcause | tpc | tlm | tva | sfqhead | sfqcount | mstat
  deriving DecidableEq, Repr

/-- An operand field by kind (R169, R170). -/
inductive Opnd where
  | v (n : Fin 32)      -- kind 000
  | s (n : Fin 16)      -- kind 001
  | p (n : Fin 8)       -- kind 010
  | acc (n : Fin 32)    -- kind 011
  | x (r : SReg)        -- kind 100
  | i (sx : Bool)       -- kind 101, index 0 or 1
  | k (n : Fin 128)     -- kind 110
  deriving DecidableEq, Repr

/-- Guard, hints and live-set index, common to every word (R165, R167, R168). -/
structure Hdr where
  gn : Bool
  gp : Fin 8
  sw : Bool
  yh : Bool
  lsi : Fin 64
  deriving DecidableEq, Repr

/-- Form F2 (R204): D, A and the immediate C. -/
structure F2 where
  d : Opnd
  a : Opnd
  c : Word
  deriving DecidableEq, Repr

/-- Form F3 (R204): D, A, B and the immediate C. -/
structure F3 where
  d : Opnd
  a : Opnd
  b : Opnd
  c : Word
  deriving DecidableEq, Repr

/-- Form F4 (R204): D, A, B and C in operand form. -/
structure F4 where
  d : Opnd
  a : Opnd
  b : Opnd
  cc : Opnd
  deriving DecidableEq, Repr

/-- ITYPE and SAT of class 0x0 (R205). -/
structure IMod where
  t : IType
  sat : Bool
  deriving DecidableEq, Repr

/-- ROUND and SAT of the floating-point classes (R239). -/
structure FMod where
  rnd : Rnd
  sat : Bool
  deriving DecidableEq, Repr

/-- COND of `cmp` (R230). -/
inductive Cond where | eq | ne | lt | le | gt | ge
  deriving DecidableEq, Repr

/-- BOP, the predicate combination of the compares (R230). -/
inductive BOp where | none | and | or | xor
  deriving DecidableEq, Repr

/-- FCOND of `fcmp` (R231): an ordered relation, `.num`, `.nan`, or a relation that NaN satisfies. -/
inductive FCond where
  | ord (c : Cond)
  | num
  | nan
  | uno (c : Cond)
  deriving DecidableEq, Repr

/-- MODE of `vote` (R233). -/
inductive VoteMode where | some | each | agree | mask | count | first
  deriving DecidableEq, Repr

/-- MODE of `shfl` (R235). -/
inductive ShflMode where | from | back | fwd | mirr | rot
  deriving DecidableEq, Repr

/-- OP of `prefix` and `reduce` (R237). -/
inductive RedOp where | add | min | max | and | or | xor | fadd
  deriving DecidableEq, Repr

/-- Access layout of classes 0x7 and 0x8 (R257). -/
structure Acc where
  t : IType
  ord : Order
  scope : Scope
  deriving DecidableEq, Repr

/-- AOP of the atomics (R265). -/
inductive AOp where
  | add | min | max | and | or | xor | exch | incw | decw | fadd | fmin | fmax
  deriving DecidableEq, Repr

/-- Atomic layout (R265): operation, order, scope, and AT (width 64 or 32, signed or not). -/
structure AMod where
  op : AOp
  ord : Order
  scope : Scope
  w64 : Bool
  sg : Bool
  deriving DecidableEq, Repr

/-- PAT: sparsity pattern of a region (R281, R78). -/
inductive Pat where | dense | s24 | s14
  deriving DecidableEq, Repr

/-- SHAPE of a matrix product (R285). -/
inductive Shape where | m16 | m32 | m48 | m64 | m96 | m128 | auto
  deriving DecidableEq, Repr

/-- AMODE of a matrix product (R285). -/
inductive AMode where | pl | cv | ga
  deriving DecidableEq, Repr

/-- MOD and field C of a matrix product (R285), less PAT, FULL and SREG. -/
structure MMod where
  shape : Shape
  amode : AMode
  region : Fin 64
  colt : Fin 16
  creg : Fin 16
  deriving DecidableEq, Repr

/-- USE of a tensor record (R280, R281). -/
inductive Use where | cp | cpg | fill | row | conv
  deriving DecidableEq, Repr

/-- CB, ROW0, ROWS and RSTRIDE of a drain (R291). -/
structure DMod where
  cb : Fin 8
  row0 : Byte
  rows : Byte
  rstride : BitVec 16
  deriving DecidableEq, Repr

/-- A remote memory datagram (R372): source and destination address and port, Ethernet port, DSCP, CE mark, payload. -/
structure Dgram where
  addr : BitVec 128
  uport : BitVec 16
  toAddr : BitVec 128
  toPort : BitVec 16
  port : Nat
  dscp : BitVec 6
  ce : Bool
  payload : List Byte
  deriving DecidableEq, Repr

/-- The sending and the receiving unit of a link (R72). -/
structure Ends where
  src : Nat
  dst : Nat
  deriving DecidableEq, Repr

/-- One constructor per row of spec/opcode_table.json: first the instructions in the order of the opcode map (R175),
then the events (spec/95_what_each_step_holds.md): those the machine performs of its own accord, then the others.  An
event's arguments name the unit, part or message it befalls, or hold the input that arrives. -/
inductive Instr where
  -- class 0x0 (R206 to R213)
  | nop (h : Hdr)
  | add (h : Hdr) (m : IMod) (o : F3)
  | sub (h : Hdr) (m : IMod) (o : F3)
  | addc (h : Hdr) (o : F4)
  | subb (h : Hdr) (o : F4)
  | mul (h : Hdr) (m : IMod) (o : F3)
  | mulh (h : Hdr) (m : IMod) (o : F3)
  | mad (h : Hdr) (m : IMod) (o : F4)
  | madw (h : Hdr) (sg : Bool) (o : F4)
  | div (h : Hdr) (m : IMod) (o : F3)
  | rem (h : Hdr) (m : IMod) (o : F3)
  | neg (h : Hdr) (m : IMod) (o : F2)
  | abs (h : Hdr) (m : IMod) (o : F2)
  | min (h : Hdr) (m : IMod) (o : F3)
  | max (h : Hdr) (m : IMod) (o : F3)
  | sad (h : Hdr) (m : IMod) (o : F4)
  | lea (h : Hdr) (shift : Fin 8) (sx : Bool) (o : F3)
  | add64 (h : Hdr) (m : IMod) (o : F3)
  | sub64 (h : Hdr) (m : IMod) (o : F3)
  | mov (h : Hdr) (w64 : Bool) (o : F2)
  | movi (h : Hdr) (o : F3)
  | movw (h : Hdr) (hi : Bool) (o : F2)
  | sel (h : Hdr) (w64 : Bool) (o : F4)
  | iclamp (h : Hdr) (m : IMod) (o : F4)
  | dot4 (h : Hdr) (sa sb sat : Bool) (o : F4)
  | dot2 (h : Hdr) (sa sb sat : Bool) (o : F4)
  -- class 0x1 (R214 to R218)
  | andB (h : Hdr) (w64 : Bool) (o : F3)
  | orB (h : Hdr) (w64 : Bool) (o : F3)
  | xorB (h : Hdr) (w64 : Bool) (o : F3)
  | notB (h : Hdr) (w64 : Bool) (o : F2)
  | andn (h : Hdr) (w64 : Bool) (o : F3)
  | orn (h : Hdr) (w64 : Bool) (o : F3)
  | bfn3 (h : Hdr) (fn : Byte) (o : F4)
  | shl (h : Hdr) (o : F3)
  | shr (h : Hdr) (o : F3)
  | sar (h : Hdr) (o : F3)
  | rotl (h : Hdr) (o : F3)
  | rotr (h : Hdr) (o : F3)
  | shl64 (h : Hdr) (o : F3)
  | shr64 (h : Hdr) (o : F3)
  | sar64 (h : Hdr) (o : F3)
  | clz (h : Hdr) (w64 : Bool) (o : F2)
  | ctz (h : Hdr) (w64 : Bool) (o : F2)
  | popc (h : Hdr) (w64 : Bool) (o : F2)
  | brev (h : Hdr) (w64 : Bool) (o : F2)
  | bfx (h : Hdr) (sg : Bool) (o : F3)
  | bfi (h : Hdr) (o : F4)
  | bsel (h : Hdr) (w64 : Bool) (o : F4)
  -- class 0x2 (R230 to R238)
  | cmp (h : Hdr) (t : IType) (cond : Cond) (pc : Fin 8) (bop : BOp) (o : F3)
  | cmp64 (h : Hdr) (sg : Bool) (cond : Cond) (pc : Fin 8) (bop : BOp) (o : F3)
  | fcmp (h : Hdr) (cond : FCond) (pc : Fin 8) (bop : BOp) (o : F3)
  | pand (h : Hdr) (na nb : Bool) (o : F3)
  | por (h : Hdr) (na nb : Bool) (o : F3)
  | pxor (h : Hdr) (na nb : Bool) (o : F3)
  | pnot (h : Hdr) (o : F2)
  | pmov (h : Hdr) (o : F2)
  | vote (h : Hdr) (mode : VoteMode) (na : Bool) (o : F2)
  | shfl (h : Hdr) (mode : ShflMode) (grp : Fin 4) (w64 : Bool) (o : F3)
  | vtos (h : Hdr) (w64 : Bool) (o : F3)
  | stov (h : Hdr) (w64 : Bool) (o : F3)
  | amask (h : Hdr) (d : Opnd)
  | prefixScan (h : Hdr) (op : RedOp) (t : IType) (excl : Bool) (rnd : Rnd) (o : F2)
  | reduce (h : Hdr) (op : RedOp) (t : IType) (rnd : Rnd) (o : F2)
  | matchV (h : Hdr) (w64 : Bool) (o : F2)
  -- class 0x3 (R219 to R228)
  | br (h : Hdr) (neg : Bool) (p : Fin 8) (off : Word)
  | brd (h : Hdr) (neg : Bool) (p : Fin 8) (hud : Fin 16) (off : Word)
  | jmp (h : Hdr) (off : Word)
  | jmpi (h : Hdr) (a : Opnd) (c : Word)
  | call (h : Hdr) (slide : Fin 4) (off : Word)
  | calli (h : Hdr) (slide : Fin 4) (a : Opnd) (c : Word)
  | ret (h : Hdr)
  | hjoin (h : Hdr) (hud : Fin 16)
  | exit (h : Hdr)
  | loop (h : Hdr) (n : Fin 16) (off : Word)
  | wgrow (h : Hdr) (amt : Fin 4)
  | wshrink (h : Hdr) (amt : Fin 4)
  -- class 0x4 (R239 to R246)
  | fadd (h : Hdr) (m : FMod) (o : F3)
  | fsub (h : Hdr) (m : FMod) (o : F3)
  | fmul (h : Hdr) (m : FMod) (o : F3)
  | ffma (h : Hdr) (m : FMod) (o : F4)
  | fmin (h : Hdr) (o : F3)
  | fmax (h : Hdr) (o : F3)
  | fabs (h : Hdr) (o : F2)
  | fneg (h : Hdr) (o : F2)
  | fdiv (h : Hdr) (m : FMod) (o : F3)
  | fsqrt (h : Hdr) (m : FMod) (o : F2)
  | frcp (h : Hdr) (m : FMod) (o : F2)
  | frsq (h : Hdr) (m : FMod) (o : F2)
  | fexp2 (h : Hdr) (m : FMod) (o : F2)
  | flog2 (h : Hdr) (m : FMod) (o : F2)
  | frnd (h : Hdr) (rnd : Rnd) (o : F2)
  | fclass (h : Hdr) (o : F2)
  | fcopysign (h : Hdr) (o : F3)
  | fscale (h : Hdr) (m : FMod) (o : F3)
  -- class 0x5 (R247 to R249)
  | f16add (h : Hdr) (m : FMod) (o : F3)
  | f16mul (h : Hdr) (m : FMod) (o : F3)
  | f16fma (h : Hdr) (m : FMod) (o : F4)
  | f16min (h : Hdr) (o : F3)
  | f16max (h : Hdr) (o : F3)
  | b16add (h : Hdr) (m : FMod) (o : F3)
  | b16mul (h : Hdr) (m : FMod) (o : F3)
  | b16fma (h : Hdr) (m : FMod) (o : F4)
  | fdot2 (h : Hdr) (m : FMod) (o : F4)
  | bdot2 (h : Hdr) (m : FMod) (o : F4)
  | fcmp2 (h : Hdr) (cond : FCond) (bf : Bool) (o : F3)
  | qdot4 (h : Hdr) (m : FMod) (fa fb : Bool) (o : F4)
  | b16min (h : Hdr) (o : F3)
  | b16max (h : Hdr) (o : F3)
  -- class 0x6 (R250 to R255)
  | cvt (h : Hdr) (m : FMod) (src dst : Fmt) (o : F3)
  | i2f (h : Hdr) (m : FMod) (t : IType) (dst : Fmt) (o : F2)
  | f2i (h : Hdr) (rnd : Rnd) (t : IType) (src : Fmt) (o : F2)
  | pk (h : Hdr) (m : FMod) (raw : Bool) (dst : Fmt) (pos : Fin 4) (o : F3)
  | upk (h : Hdr) (src : Fmt) (elem : Fin 8) (raw : Bool) (o : F2)
  | mxq (h : Hdr) (fmt : Fmt) (d a sc : Opnd)
  | mxd (h : Hdr) (rnd : Rnd) (fmt : Fmt) (o : F3)
  -- class 0x7 (R256 to R272)
  | ld (h : Hdr) (m : Acc) (d a : Opnd) (disp : Word)
  | st (h : Hdr) (m : Acc) (a b : Opnd) (disp : Word)
  | stp (h : Hdr) (w : Width) (a b : Opnd) (disp : Word)
  | atm (h : Hdr) (m : AMod) (d a b : Opnd) (disp : Word)
  | atp (h : Hdr) (m : AMod) (a b : Opnd) (disp : Word)
  | cas (h : Hdr) (m : Acc) (d a b : Opnd) (disp : Word)
  | fence (h : Hdr) (ord : Order) (scope : Scope) (cp mx : Bool)
  | drain (h : Hdr)
  | pass (h : Hdr) (a : Option Opnd) (disp : Word)
  | rrd (h : Hdr) (t : IType) (d a : Opnd) (disp : Word)
  | rwr (h : Hdr) (w : Width) (a b : Opnd) (disp : Word)
  -- class 0x8 (R256 to R274)
  | lds (h : Hdr) (m : Acc) (d a : Opnd) (disp : Word)
  | sts (h : Hdr) (m : Acc) (a b : Opnd) (disp : Word)
  | ats (h : Hdr) (m : AMod) (d a b : Opnd) (disp : Word)
  | bar (h : Hdr) (id : Fin 8) (mx : Bool)
  | bara (h : Hdr) (id : Fin 8) (mx : Bool)
  | barw (h : Hdr) (id : Fin 8)
  | sgo (h : Hdr) (ring : Fin 8) (mx : Bool) (a : Opnd)
  | swt (h : Hdr) (ring : Fin 8) (a b : Opnd)
  -- class 0x9 (R281 to R296)
  | gang (h : Hdr) (a : Opnd) (c : Word)
  | mstat (h : Hdr) (ty : Fmt) (pat : Pat) (a b : Opnd) (region : Fin 64)
  | mfree (h : Hdr) (region : Fin 64)
  | mmx (h : Hdr) (m : MMod) (d a b : Opnd)
  | mmxs (h : Hdr) (m : MMod) (s14 : Bool) (d a b : Opnd)
  | mmxd (h : Hdr) (m : MMod) (full : Bool) (sreg : Fin 16) (d a b : Opnd)
  | mzero (h : Hdr) (d : Opnd)
  | mdrn (h : Hdr) (bf : Bool) (m : DMod) (d a : Opnd)
  | mdrq (h : Hdr) (fmt : Fmt) (m : DMod) (d a b : Opnd)
  | mdrx (h : Hdr) (m : DMod) (d a b : Opnd)
  | mslotInv (h : Hdr) (a : Opnd)
  | mslotNint (h : Hdr) (a b : Opnd)
  | mwait (h : Hdr)
  -- class 0xA (R281, R297 to R305)
  | cpG2s (h : Hdr) (q : Fin 4) (d a b : Opnd)
  | cpS2g (h : Hdr) (q : Fin 4) (d a b : Opnd)
  | cpg (h : Hdr) (q : Fin 4) (d a b cc : Opnd)
  | cpw (h : Hdr) (a b : Opnd) (disp : Word)
  | cpy (h : Hdr) (a b : Opnd) (off : Word)
  | qfence (h : Hdr) (qset : BitVec 6)
  | qwait (h : Hdr) (qset : BitVec 6)
  | trec (h : Hdr) (use : Use) (d a : Opnd)
  | lnch (h : Hdr) (a : Opnd)
  -- class 0xB (R306 to R319)
  | srd (h : Hdr) (w64 : Bool) (d : Opnd) (r : SReg) (e : Option Opnd)
  | swr (h : Hdr) (w64 : Bool) (r : SReg) (a : Opnd) (e : Option Opnd) (c : Word)
  | trap (h : Hdr) (n : BitVec 16)
  | eret (h : Hdr)
  | sqkill (h : Hdr)
  | tmkill (h : Hdr)
  | relax (h : Hdr) (n : BitVec 12)
  | sleep (h : Hdr) (a : Opnd) (c : Word)
  | brkpt (h : Hdr) (n : BitVec 16)
  | smark (h : Hdr) (n : BitVec 16)
  | icinv (h : Hdr) (reach : Fin 4)
  | twait (h : Hdr) (a : Opnd) (c : Word)
  -- EVENTS THE MACHINE PERFORMS OF ITS OWN ACCORD
  -- events of a core and of translation
  | resultLand (pid k : Nat)
  | relaxExpire (pid : Nat)
  | yieldExpire (pid : Nat)
  | translationProbe (k : Nat)
  | pageWalkStep (k : Nat)
  | adUpdate (k : Nat)
  | walkAheadTranslate (tk q : Nat)
  | shootdownComplete (u : Nat)
  | xfqRecordWrite (u : Nat)
  -- events of context passing
  | depart (pid : Nat)
  | departureBufferGrant (pid : Nat)
  | frameInject (pid : Nat)
  | c0LimiterRefill (u core part : Nat)
  | flush (k : Nat)
  | postedRequest (k : Nat)
  | ackTimer (pid u : Nat)
  | acknowledgement (k : Nat)
  | frameArrival (pid : Nat)
  | frameDispatch (u : Nat)
  | frameUnpark (u : Nat)
  | frameFetch (pid : Nat)
  | frameFetchData (pid : Nat)
  | growthRequest (pid : Nat)
  -- events of squads and barrier units
  | squadCreate (u rec : Nat)
  | squadStart (pid : Nat)
  | joinRequest (k : Nat)
  | joinReply (pid : Nat)
  | huddleFinalMask (pid : Nat)
  | exitNotice (k : Nat)
  | barrierArrival (k : Nat)
  | stageGo (k : Nat)
  | stageWait (k : Nat)
  | partWake (pid : Nat)
  | latchArrival (pid : Nat)
  -- events of the engines
  | commandAppend (k : Nat)
  | copyBegin (tk q : Nat)
  | chunkComplete (tk q c : Nat)
  | regionFillBegin (tk : Nat)
  | regionFillEnd (tk : Nat)
  | regionFree (tk : Nat)
  | productBegin (tk : Nat)
  | deltaInvocation (tk : Nat)
  | tileZero (tk : Nat)
  | slotInvalidate (tk : Nat)
  | slotNintWrite (tk : Nat)
  | drainBegin (tk : Nat)
  | joinEntry (tk q : Nat)
  | entryCompletion (tk q : Nat)
  | cpyHoldRelease (pid : Nat)
  | rscmdComplete (u : Nat)
  -- events of faults, loss and pre-emption
  | faultRecordArrival (k : Nat)
  | faultNotice (k : Nat)
  | storeFaultDeferred (pid : Nat)
  | deferralNotice (k : Nat)
  | killDelivery (k : Nat)
  | teamRestart (tk : Nat)
  | restartableClear (pid : Nat)
  | freeze (tk : Nat)
  | freezeTimeout (tk : Nat)
  | sleepWake (pid : Nat)
  | twaitWake (pid : Nat)
  -- events of launches
  | waitEventPoll (part : Nat)
  | launchAdmit (lk : Nat)
  | teamPlace (lk k u : Nat)
  | launchComplete (lk : Nat)
  -- events of remote memory, time and links
  | remoteSend (rid : Nat)
  | remoteRetransmit (rid : Nat)
  | remoteTimeout (rid : Nat)
  -- events of the host link and the firmware
  | d2hPost (fn : Nat)
  | faultresp (fn unit park : Nat) (deny : Bool)
  | teardown (part : Nat)
  | tickMatchFire (u : Nat)
  | sampleCopy (u : Nat)
  | checkpoint (part : Nat)
  | replayDiverged (part : Nat)
  | rerun (part : Nat)
  -- EVENTS THE OUTSIDE WORLD SCHEDULES, AND EVENTS WITHOUT ARGUMENTS
  -- events of a core and of translation
  | instructionFetch (pid : Nat)
  | shootdownPage (u part size : Nat)
  | shootdownAll (u part : Nat)
  | sdcmdInvalid (u : Nat) (cmd : Word)
  | xfqptrHeadWrite (u head : Nat)
  | xfrespRetry (u park : Nat)
  | xfrespDeny (u park : Nat)
  -- events of context passing
  | flowStop (link : Ends) (part cls : Nat)
  | flowGo (link : Ends) (part cls : Nat)
  -- events of the engines
  | macScrub (u mac blk : Nat)
  | rscmdOne (u slot : Nat)
  | rscmdPart (u part : Nat)
  | rscmdKey (u part key : Nat)
  | rscmdAll (u : Nat)
  | rscmdInvalid (u kind : Nat)
  -- events of faults, loss and pre-emption
  | contextLoss (bu : Bool) (k : Nat)
  | resume (img u : Nat)
  -- events of launches
  | doorbell (part q : Nat) (tail : Word) (host : Bool)
  | stpost (u rec : Nat)
  -- events of remote memory, time and links
  | remoteReply (hub : Nat) (g : Dgram)
  | remoteRequestReceive (hub : Nat) (g : Dgram)
  | rateIncrease (hub : Nat) (addr : BitVec 128) (lat : Bool)
  | ptpSync (offset : Int)
  | linkDown (u port : Nat)
  | domainForm (pkgs : List Nat)
  -- events of the host link and the firmware
  | mailboxSend (fn : Nat)
  | windowWrite (vf off : Nat) (data : List Byte)
  | windowRead (vf off n : Nat)
  | firmwareImageWrite (wr : Bool) (off n : Nat) (data : List Byte)
  | faultServiceTimeout
  | create
  | attest (part : Nat) (nonce : List Byte)
  | keyload (part slot : Nat) (wrapped : List Byte)
  | revoke (part slot : Nat)
  | profring (part : Nat) (va : DWord) (cap : Nat)
  | replay (part mode t : Nat)
  | hold (part : Nat) (entries : List DWord)
  | power (u pcap gmin : Nat)
  | breakset (part n : Nat) (launch pc : Word) (en : Bool)
  | tickset (part : Nat) (tick : DWord) (launch : Word) (en : Bool)
  | stopctlArm (tick : DWord)
  | stopctlStopnow
  | stopctlRelease
  | stopctlSteprel (v : Bool)
  | stoplist (part start : Nat)
  | dbgStep (part : Nat) (launch : Word) (team : BitVec 48) (sq lane : Nat)
  | dbgContinue (part : Nat) (launch : Word) (one : Option (BitVec 48 × Nat × Nat))
  | packageStop
  | scandataWrite (v : Bool)
  | replayRun (part k : Nat)
  | capture (part : Nat)
  | kcmdLoad (u ctrl part slot : Nat)
  | kcmdRevoke (u ctrl part slot : Nat)
  | kcmdInvalid (u ctrl part op : Nat)
  | powerOn
  | pf0Reset
  | fwctlGo
  | powerUpdate (u pmeas temp : Nat)
  | errlostRead
  | smplostRead (u : Nat)
  | bridgeAccess (spa width : Nat) (wr : Bool) (data : DWord)
  | registerWrite (wr : Bool) (u off width : Nat) (data : DWord)
  | tick
  | dramScrub (spa : Nat) (corrected : Bool)
  | linkRetransmission (u port : Nat)
  | bootStepEnd (ok : Bool) (code : Nat)
  deriving DecidableEq, Repr

end Sys2Proof
end

