-- ==== Sys2Proof/Machine/Flags.lean ====
section
/-! DEFINITION. Number formats and arithmetic rules (R187 to R203): integer widths, saturation and division, exact
floating-point values, rounding, flags, conversions, and the quantisation of a block (R92). -/

namespace Sys2Proof.Machine

/-! ### Integers -/

def bitsW : Width → Nat
  | .w8 => 8
  | .w16 => 16
  | .w32 => 32
  | .w64 => 64

/-- `num(v, n, sg)` (R205). -/
def num (v n : Nat) (sg : Bool) : Int :=
  let x := v % 2 ^ n
  if sg && decide (2 ^ (n - 1) ≤ x) then (x : Int) - 2 ^ n else x

def intMin (n : Nat) (sg : Bool) : Int := if sg then -(2 ^ (n - 1)) else 0
def intMax (n : Nat) (sg : Bool) : Int := if sg then 2 ^ (n - 1) - 1 else 2 ^ n - 1

/-- `sat(x, type)` of an integer type (R197). -/
def satInt (n : Nat) (sg : Bool) (x : Int) : Int := max (intMin n sg) (min (intMax n sg) x)

/-- The bits of a result of width n, wrapped or clamped, extended to 32 bits under R187, or the 64-bit pair. -/
def intResult (t : IType) (sat : Bool) (x : Int) : Nat :=
  let n := bitsW t.w
  let y := if sat then satInt n t.sg x else x
  let r := num (y % 2 ^ n).toNat n t.sg
  (r % 2 ^ (if n = 64 then 64 else 32)).toNat

/-- Quotient of R188. -/
def divQ (n : Nat) (sg : Bool) (a b : Int) : Int :=
  if b = 0 then (if sg then -1 else 2 ^ n - 1)
  else if sg && decide (a = -(2 ^ (n - 1))) && decide (b = -1) then a
  else a.tdiv b

/-- Remainder of R188. -/
def divR (n : Nat) (sg : Bool) (a b : Int) : Int :=
  if b = 0 then a
  else if sg && decide (a = -(2 ^ (n - 1))) && decide (b = -1) then 0
  else a.tmod b

/-- Two's complement of 32 bits as an integer (`sext`). -/
def sext32 (x : Nat) : Int := num x 32 true

/-! ### Floating-point formats (R189) -/

def ebits : Fmt → Nat
  | .f32 => 8 | .f16 => 5 | .bf16 => 8 | .e5m2 => 5 | .e4m3 => 4 | .e3m2 => 3 | .e2m3 => 2 | .e2m1 => 2
def fbits : Fmt → Nat
  | .f32 => 23 | .f16 => 10 | .bf16 => 7 | .e5m2 => 2 | .e4m3 => 3 | .e3m2 => 2 | .e2m3 => 3 | .e2m1 => 1
def fmtBits (f : Fmt) : Nat := 1 + ebits f + fbits f
def bias (f : Fmt) : Nat := 2 ^ (ebits f - 1) - 1
def hasInf : Fmt → Bool
  | .f32 => true | .f16 => true | .bf16 => true | .e5m2 => true | _ => false
def hasNan : Fmt → Bool
  | .e4m3 => true | f => hasInf f
/-- log₂ of the smallest subnormal. -/
def minExp (f : Fmt) : Int := 1 - (bias f : Int) - fbits f
/-- Encoding of the largest finite value, less its sign. -/
def maxCode (f : Fmt) : Nat :=
  if hasInf f then (2 ^ ebits f - 1) * 2 ^ fbits f - 1
  else if hasNan f then 2 ^ (ebits f + fbits f) - 2
  else 2 ^ (ebits f + fbits f) - 1
def infCode (f : Fmt) : Nat := (2 ^ ebits f - 1) * 2 ^ fbits f
/-- The canonical quiet NaN (R196). -/
def canonNan (f : Fmt) : Nat := if hasInf f then infCode f + 2 ^ (fbits f - 1) else 2 ^ (ebits f + fbits f) - 1
def signBit (f : Fmt) (neg : Bool) : Nat := if neg then 2 ^ (ebits f + fbits f) else 0

/-- An exact value: a NaN (signalling or not), an infinity, or (−1)^neg × m × 2^e. -/
inductive FV where
  | nan (sig : Bool)
  | inf (neg : Bool)
  | fin (neg : Bool) (m : Nat) (e : Int)
  deriving DecidableEq, Repr

/-- `fval(c, fmt)` (R190). -/
def fval (f : Fmt) (c : Nat) : FV :=
  let s := c / 2 ^ (ebits f + fbits f) % 2 == 1
  let e := c / 2 ^ fbits f % 2 ^ ebits f
  let x := c % 2 ^ fbits f
  if hasInf f && e == 2 ^ ebits f - 1 then
    if x = 0 then .inf s else .nan (decide (x < 2 ^ (fbits f - 1)))
  else if f == .e4m3 && e == 15 && x == 7 then .nan false
  else if e = 0 then .fin s x (minExp f)
  else .fin s (2 ^ fbits f + x) ((e : Int) - bias f - fbits f)

def FV.isNan : FV → Bool | .nan _ => true | _ => false
def FV.isSnan : FV → Bool | .nan s => s | _ => false
def FV.isInf : FV → Bool | .inf _ => true | _ => false
def FV.isZero : FV → Bool | .fin _ m _ => m == 0 | _ => false
def FV.isNeg : FV → Bool | .nan _ => false | .inf s => s | .fin s _ _ => s

/-- FPSTAT flags (R198). -/
abbrev Fl := BitVec 16
def flNV : Fl := 1
def flDZ : Fl := 2
def flOF : Fl := 4
def flUF : Fl := 8
def flNX : Fl := 16
def flSAT : Fl := 32

/-- Bits of a natural number: 0 for 0. -/
def nlen (m : Nat) : Nat := if m = 0 then 0 else Nat.log2 m + 1

/-- m × 2^k for an integer k, dropping bits below 1. -/
def shiftI (m : Nat) (k : Int) : Nat := if 0 ≤ k then m * 2 ^ k.toNat else m / 2 ^ (-k).toNat

/-- Whether the discarded part (`rem` of `2^sh`, with an infinitesimal more when `st`) rounds the kept magnitude up. -/
def roundUp (mode : Rnd) (neg : Bool) (kept rem sh : Nat) (st : Bool) : Bool :=
  if rem = 0 && !st then false else
  match mode with
  | .rtz => false
  | .rdn => neg
  | .rup => !neg
  | .rne =>
    let half := 2 ^ sh
    if 2 * rem > half then true
    else if 2 * rem = half then st || kept % 2 == 1
    else false

/-- Magnitude m × 2^e (plus an infinitesimal when `st`) rounded to a multiple of 2^q: the multiple, and whether it
differs (R193). -/
def roundAt (mode : Rnd) (neg : Bool) (m : Nat) (e q : Int) (st : Bool) : Nat × Bool :=
  if q ≤ e then (m * 2 ^ (e - q).toNat, st)
  else
    let sh := (q - e).toNat
    let kept := m / 2 ^ sh
    let rem := m % 2 ^ sh
    (if roundUp mode neg kept rem sh st then kept + 1 else kept, rem != 0 || st)

/-- A rounded magnitude k × 2^q, whether it is inexact, and whether it is tiny (R193, R195). -/
structure Rounded where
  k : Nat
  q : Int
  nx : Bool
  tiny : Bool
  deriving DecidableEq, Repr

/-- `rnd(x, fmt, mode)`, not bounded above (R193). -/
def rnd (f : Fmt) (mode : Rnd) (neg : Bool) (m : Nat) (e : Int) (st : Bool) : Rounded :=
  let top : Int := e + (nlen m : Int) - 1
  let qn := top - fbits f
  let q := max qn (minExp f)
  let r := roundAt mode neg m e q st
  let u := roundAt mode neg m e qn st
  { k := r.1, q := q, nx := r.2, tiny := m != 0 && decide ((u.1 : Int) < shiftI 1 (1 - (bias f : Int) - qn)) }

/-- Encoding of a magnitude k × 2^q that does not exceed the largest finite value. -/
def encMag (f : Fmt) (k : Nat) (q : Int) : Nat :=
  let l := nlen k
  let top : Int := q + (l : Int) - 1
  if k = 0 then 0
  else if top < 1 - (bias f : Int) then shiftI k (q - minExp f)
  else
    let frac := shiftI k (q - (top - fbits f))
    (top + bias f).toNat * 2 ^ fbits f + (frac - 2 ^ fbits f)

/-- Magnitude of an encoding without its sign, as k × 2^q compared with the largest finite value. -/
def exceeds (f : Fmt) (k : Nat) (q : Int) : Bool :=
  match fval f (maxCode f) with
  | .fin _ m e => if q ≤ e then decide (k > m * 2 ^ (e - q).toNat) else decide (k * 2 ^ (q - e).toNat > m)
  | _ => false

/-- The code written for a magnitude above the largest finite value, without `sat` (R193's table).  That E4M3's NaN keeps the sign in
the RDN and RUP columns too is the model's choice (log 38). -/
def overflowCode (f : Fmt) (mode : Rnd) (neg : Bool) : Nat :=
  let big := if hasInf f then infCode f else canonNan f
  let mag := match mode with
    | .rne => big
    | .rtz => maxCode f
    | .rdn => if neg then big else maxCode f
    | .rup => if neg then maxCode f else big
  signBit f neg + mag

/-- A finite exact result rounded, saturated, encoded and flagged (R193, R195, R197, R198). -/
def finish (f : Fmt) (mode : Rnd) (sat : Bool) (neg : Bool) (m : Nat) (e : Int) (st : Bool) : Nat × Fl :=
  if m = 0 && !st then (signBit f neg, 0) else
  let r := rnd f mode neg m e st
  if exceeds f r.k r.q then
    if sat || !hasNan f then (signBit f neg + maxCode f, flSAT ||| flNX)
    else (overflowCode f mode neg, flOF ||| flNX)
  else
    (signBit f neg + encMag f r.k r.q,
      (if r.nx then flNX else 0) ||| (if r.tiny && r.nx then flUF else 0))

/-- An exact infinity as a result: `sat` clamps it (R197). -/
def infResult (f : Fmt) (sat neg : Bool) : Nat × Fl :=
  if sat || !hasNan f then (signBit f neg + maxCode f, flSAT ||| flNX)
  else if hasInf f then (signBit f neg + infCode f, 0)
  else (signBit f neg + canonNan f, 0)

/-- A signed integer times 2^e. -/
structure Dy where
  m : Int
  e : Int
  deriving DecidableEq, Repr

def Dy.add (a b : Dy) : Dy :=
  let e := min a.e b.e
  ⟨a.m * 2 ^ (a.e - e).toNat + b.m * 2 ^ (b.e - e).toNat, e⟩
def Dy.mul (a b : Dy) : Dy := ⟨a.m * b.m, a.e + b.e⟩
def FV.dy : FV → Dy
  | .fin s m e => ⟨if s then -(m : Int) else m, e⟩
  | _ => ⟨0, 0⟩

/-- Sum of finite terms: sign under R194 when the sum is zero. -/
def sumSign (mode : Rnd) (ts : List FV) (total : Int) : Bool :=
  if total < 0 then true
  else if total > 0 then false
  else if ts.all FV.isNeg then true
  else if ts.all (fun t => !t.isNeg) then false
  else mode == .rdn

/-- The sum of exact terms with one rounding (R239, R248): any NaN or infinities of opposite sign, which raise NV beside a
NaN too, then infinities, then the finite sum.  `nv` is what the terms' own formation raised. -/
def fsum (f : Fmt) (mode : Rnd) (sat : Bool) (ts : List FV) (nv : Fl) : Nat × Fl :=
  let opposite := ts.any (fun t => t == .inf true) && ts.any (fun t => t == .inf false)
  if ts.any FV.isNan || opposite then (canonNan f, nv ||| (if ts.any FV.isSnan || opposite then flNV else 0))
  else if ts.any FV.isInf then
    let r := infResult f sat (ts.any (fun t => t == .inf true))
    (r.1, nv ||| r.2)
  else
    let d := ts.foldl (fun (a : Dy) t => a.add t.dy) ⟨0, 0⟩
    let r := finish f mode sat (sumSign mode ts d.m) d.m.natAbs d.e false
    (r.1, nv ||| r.2)

/-- An exact product and the NV it raises: 0 × ∞ (R239). -/
def fprod (a b : FV) : FV × Fl :=
  let sn := if a.isSnan || b.isSnan then flNV else 0
  match a, b with
  | .nan _, _ => (.nan false, sn)
  | _, .nan _ => (.nan false, sn)
  | .inf s, .inf t => (.inf (s != t), 0)
  | .inf s, .fin t m _ => if m = 0 then (.nan false, flNV) else (.inf (s != t), 0)
  | .fin s m _, .inf t => if m = 0 then (.nan false, flNV) else (.inf (s != t), 0)
  | .fin s m e, .fin t n g => (.fin (s != t) (m * n) (e + g), 0)

def fneg' : FV → FV
  | .nan s => .nan s
  | .inf s => .inf (!s)
  | .fin s m e => .fin (!s) m e

def fAdd (f : Fmt) (m : FMod) (a b : Nat) : Nat × Fl := fsum f m.rnd m.sat [fval f a, fval f b] 0
def fSub (f : Fmt) (m : FMod) (a b : Nat) : Nat × Fl := fsum f m.rnd m.sat [fval f a, fneg' (fval f b)] 0
def fMul (f : Fmt) (m : FMod) (a b : Nat) : Nat × Fl :=
  let p := fprod (fval f a) (fval f b)
  fsum f m.rnd m.sat [p.1] p.2
def fFma (f : Fmt) (m : FMod) (a b c : Nat) : Nat × Fl :=
  let p := fprod (fval f a) (fval f b)
  fsum f m.rnd m.sat [p.1, fval f c] p.2

/-- a / b: 64 quotient bits below the dividend and a sticky bit (R239). -/
def divMag (m1 : Nat) (e1 : Int) (m2 : Nat) (e2 : Int) : Nat × Int × Bool :=
  (m1 * 2 ^ 64 / m2, e1 - e2 - 64, m1 * 2 ^ 64 % m2 != 0)

def fDiv (f : Fmt) (m : FMod) (a b : Nat) : Nat × Fl :=
  match fval f a, fval f b with
  | .nan s, y => (canonNan f, if s || y.isSnan then flNV else 0)
  | .inf _, .nan s => (canonNan f, if s then flNV else 0)
  | .fin _ _ _, .nan s => (canonNan f, if s then flNV else 0)
  | .inf _, .inf _ => (canonNan f, flNV)
  | .inf s, .fin t _ _ => infResult f m.sat (s != t)
  | .fin s _ _, .inf t => (signBit f (s != t), 0)
  | .fin s m1 e1, .fin t m2 e2 =>
    if m2 = 0 then
      if m1 = 0 then (canonNan f, flNV)
      else
        let r := infResult f m.sat (s != t)
        (r.1, r.2 ||| flDZ)
    else if m1 = 0 then (signBit f (s != t), 0)
    else
      let q := divMag m1 e1 m2 e2
      finish f m.rnd m.sat (s != t) q.1 q.2.1 q.2.2

/-- Integer square root by bits from 2^k down. -/
def isqrtBits : Nat → Nat → Nat → Nat
  | 0, _, r => r
  | k + 1, x, r =>
    let t := r + 2 ^ k
    isqrtBits k x (if t * t ≤ x then t else r)

def isqrt (x : Nat) : Nat := isqrtBits (nlen x / 2 + 1) x 0

/-- √(m × 2^e): 64 more bits and a sticky bit. -/
def sqrtMag (m : Nat) (e : Int) : Nat × Int × Bool :=
  let m2 := if e % 2 = 0 then m else 2 * m
  let e2 := if e % 2 = 0 then e else e - 1
  let x := m2 * 2 ^ 128
  let r := isqrt x
  (r, e2 / 2 - 64, r * r != x)

def fSqrt (f : Fmt) (m : FMod) (a : Nat) : Nat × Fl :=
  match fval f a with
  | .nan s => (canonNan f, if s then flNV else 0)
  | .inf true => (canonNan f, flNV)
  | .inf false => infResult f m.sat false
  | .fin s x e =>
    if x = 0 then (signBit f s, 0)
    else if s then (canonNan f, flNV)
    else
      let r := sqrtMag x e
      finish f m.rnd m.sat false r.1 r.2.1 r.2.2

/-- Order of two values that are not NaN, −0 and +0 equal. -/
def fvLt (a b : FV) : Bool :=
  match a, b with
  | .inf s, .inf t => s && !t
  | .inf s, _ => s
  | _, .inf t => !t
  | x, y => decide ((x.dy.add (fneg' y).dy).m < 0)
def fvEq (a b : FV) : Bool := !fvLt a b && !fvLt b a

/-- `fmin` and `fmax` (R240): `mx` selects the larger. -/
def fMinMax (f : Fmt) (mx : Bool) (a b : Nat) : Nat × Fl :=
  let x := fval f a
  let y := fval f b
  let fl := if x.isSnan || y.isSnan then flNV else 0
  if x.isNan && y.isNan then (canonNan f, fl)
  else if x.isNan then (b, fl)
  else if y.isNan then (a, fl)
  else
    let less := fvLt x y || (fvEq x y && x.isNeg && !y.isNeg)
    (if less != mx then a else b, fl)

/-- A relation of COND on ordered values. -/
def condInt (c : Cond) (a b : Int) : Bool :=
  match c with
  | .eq => decide (a = b)
  | .ne => decide (a ≠ b)
  | .lt => decide (a < b)
  | .le => decide (a ≤ b)
  | .gt => decide (a > b)
  | .ge => decide (a ≥ b)

def condFv (c : Cond) (a b : FV) : Bool :=
  match c with
  | .eq => fvEq a b
  | .ne => !fvEq a b
  | .lt => fvLt a b
  | .le => !fvLt b a
  | .gt => fvLt b a
  | .ge => !fvLt a b

/-- FCOND and the flag of `fcmp` (R231). -/
def fCond (f : Fmt) (c : FCond) (a b : Nat) : Bool × Fl :=
  let x := fval f a
  let y := fval f b
  let un := x.isNan || y.isNan
  (match c with
    | .ord c => !un && condFv c x y
    | .num => !un
    | .nan => un
    | .uno c => un || condFv c x y,
   if x.isSnan || y.isSnan then flNV else 0)

/-- `frnd` (R240). -/
def fRnd (mode : Rnd) (a : Nat) : Nat × Fl :=
  match fval .f32 a with
  | .nan s => (canonNan .f32, if s then flNV else 0)
  | .inf _ => (a, 0)
  | .fin s m e =>
    let r := roundAt mode s m e 0 false
    if 0 ≤ e then (a, 0) else ((finish .f32 mode false s r.1 0 false).1, 0)

/-- `fclass` (R240). -/
def fClass (a : Nat) : Nat :=
  match fval .f32 a with
  | .nan true => 1
  | .nan false => 2
  | .inf true => 4
  | .inf false => 512
  | .fin s m _ =>
    if m = 0 then (if s then 32 else 64)
    else if m < 2 ^ 23 then (if s then 16 else 128)
    else (if s then 8 else 256)

/-- `fscale` (R240). -/
def fScale (m : FMod) (a : Nat) (b : Int) : Nat × Fl :=
  match fval .f32 a with
  | .nan s => (canonNan .f32, if s then flNV else 0)
  | .inf s => infResult .f32 m.sat s
  | .fin s x e =>
    if x = 0 then (a, 0)
    else
      -- beyond ±1000 the result is the same as at ±1000: zero or above every finite value
      finish .f32 m.rnd m.sat s x (e + max (-1000) (min 1000 b)) false

/-! ### Conversions (R200 to R203) -/

/-- A value converted to a format (R200).  Of the flags of an infinity that `.sat` clamps in a format without NaN, the model takes R200's
NV, and not R197's SAT and NX (log 38). -/
def convert (dst : Fmt) (mode : Rnd) (sat : Bool) (v : FV) : Nat × Fl :=
  match v with
  | .nan s => if hasNan dst then (canonNan dst, if s then flNV else 0) else (0, flNV)
  | .inf s =>
    if hasNan dst then infResult dst sat s else (signBit dst s + maxCode dst, flNV)
  | .fin s m e => finish dst mode sat s m e false

/-- Float to integer (R201): the bits of width n. -/
def toInt (n : Nat) (sg : Bool) (mode : Rnd) (v : FV) : Int × Fl :=
  match v with
  | .nan _ => (0, flNV)
  | .inf s => (if s then intMin n sg else intMax n sg, flNV)
  | .fin s m e =>
    let r := roundAt mode s m e 0 false
    let x : Int := if s then -(r.1 : Int) else r.1
    if intMin n sg ≤ x ∧ x ≤ intMax n sg then (x, if r.2 then flNX else 0) else (satInt n sg x, flNV)

/-- Integer to float (R202). -/
def ofInt (dst : Fmt) (mode : Rnd) (sat : Bool) (x : Int) : Nat × Fl :=
  finish dst mode sat (decide (x < 0)) x.natAbs 0 false

/-- Bits an element of a format takes in a packed register: 6-bit elements take a byte (R192). -/
def elemBits : Fmt → Nat
  | .f32 => 32 | .f16 => 16 | .bf16 => 16 | .e2m1 => 4 | _ => 8

/-- Element i of a packed register (R192). -/
def getElem (f : Fmt) (x i : Nat) : Nat := x / 2 ^ (elemBits f * i) % 2 ^ fmtBits f

/-- Register x with element i replaced; the unused bits of a 6-bit element become zero. -/
def putElem (f : Fmt) (x i c : Nat) : Nat :=
  let w := elemBits f
  x - (x / 2 ^ (w * i) % 2 ^ w) * 2 ^ (w * i) + (c % 2 ^ fmtBits f) * 2 ^ (w * i)

/-! ### Blocks (R92) -/

/-- emax of an MX element type (R92). -/
def emaxOf : Fmt → Int
  | .e4m3 => 8 | .e5m2 => 15 | .e2m3 => 2 | .e3m2 => 4 | .e2m1 => 2 | _ => 0

/-- ⌊log₂⌋ of a non-zero magnitude. -/
def flog (m : Nat) (e : Int) : Int := e + (nlen m : Int) - 1

def magLt (a b : FV) : Bool :=
  match a, b with
  | .fin _ m e, .fin _ n g => decide ((Dy.add ⟨m, e⟩ ⟨-(n : Int), g⟩).m < 0)
  | _, _ => false

/-- Scale, codes and flags of a block (R92, R203). -/
def quantBlock (ty : Fmt) (xs : List FV) : Nat × List Nat × Fl :=
  if xs.any (fun x => x.isNan || x.isInf) then (0xFF, xs.map (fun _ => 0), flNV)
  else
    let amax := xs.foldl (fun a x => if magLt a x then x else a) (.fin false 0 0)
    match amax with
    | .fin _ m e =>
      if m = 0 then (0, xs.map (fun _ => 0), 0)
      else
        let ex := max (-127) (min 127 (flog m e - emaxOf ty))
        let cs := xs.map (fun x => match x with
          | .fin s m e => finish ty .rne true s m (e - ex) false
          | _ => (0, 0))
        ((ex + 127).toNat, cs.map Prod.fst, cs.foldl (fun a c => a ||| c.2) 0)
    | _ => (0, xs.map (fun _ => 0), 0)

/-- An element with its block scale (R191). -/
def scaled (ty : Fmt) (c x : Nat) : FV :=
  if x = 0xFF then .nan false
  else match fval ty c with
    | .fin s m e => .fin s m (e + (x : Int) - 127)
    | v => v

end Sys2Proof.Machine
end

