-- ==== Sys2Proof/WellFormed.lean ====
section
/-! DEFINITION. Which instructions are encodable: operand kinds, reserved combinations and code limits that R169 to
R174 and each instruction's own rule make ILLEGAL_ENCODING, less the checks against the window size (R169, R226, R228),
which the machine makes when the instruction issues. -/

namespace Sys2Proof

namespace Opnd
def isV : Opnd → Bool | .v _ => true | _ => false
def isS : Opnd → Bool | .s _ => true | _ => false
def isP : Opnd → Bool | .p _ => true | _ => false
def isAcc : Opnd → Bool | .acc _ => true | _ => false
def isK : Opnd → Bool | .k _ => true | _ => false
def isI : Opnd → Bool | .i _ => true | _ => false
def vs (o : Opnd) : Bool := o.isV || o.isS
def sk (o : Opnd) : Bool := o.isS || o.isK
def ski (o : Opnd) : Bool := o.isS || o.isK || o.isI
def vsk (o : Opnd) : Bool := o.isV || o.isS || o.isK
def vski (o : Opnd) : Bool := o.isV || o.isS || o.isK || o.isI

/-- A 64-bit operand names the even register of a pair (R169); a 32-bit operand of kind 101 has index 0 (R170). -/
def sized (w64 : Bool) : Opnd → Bool
  | .v n => !w64 || n.val % 2 == 0
  | .s n => !w64 || n.val % 2 == 0
  | .i sx => w64 || !sx
  | _ => true
end Opnd

/-- LSI is zero on every opcode that is not a pass point (R168); the guard `!p0` is illegal (R167). -/
def Hdr.wf (pass : Bool) (h : Hdr) : Bool := (pass || h.lsi.val == 0) && !(h.gn && h.gp.val == 0)

/-- C[31:0] is zero when no operand of kind 101 reads it (R170). -/
def cUsed (os : List Opnd) (c : Word) : Bool := c == 0 || os.any Opnd.isI

/-- The uniform form of R172 and R229: an s destination takes only s, small-constant and C sources. -/
def uniOk (d : Opnd) (srcs : List Opnd) : Bool := d.isV || (d.isS && srcs.all Opnd.ski)

def Width.is64 : Width → Bool | .w64 => true | _ => false

def F2.wf (wd wa : Bool) (o : F2) : Bool :=
  o.a.vski && uniOk o.d [o.a] && o.d.sized wd && o.a.sized wa && cUsed [o.a] o.c

def F3.wf (wd wa wb : Bool) (o : F3) : Bool :=
  o.a.vski && o.b.vski && uniOk o.d [o.a, o.b] && o.d.sized wd && o.a.sized wa && o.b.sized wb && cUsed [o.a, o.b] o.c

def F4.wf (w64 : Bool) (o : F4) : Bool :=
  o.a.vsk && o.b.vsk && o.cc.vsk && uniOk o.d [o.a, o.b, o.cc] && o.d.sized w64 && o.a.sized w64 && o.b.sized w64 &&
    o.cc.sized w64

/-- Integer widths 8, 16, 32 (R206). -/
def IMod.narrow (m : IMod) : Bool := !m.t.w.is64

/-- Elements per register of a format (R250). -/
def Fmt.count : Fmt → Nat
  | .f32 => 1 | .f16 => 2 | .bf16 => 2 | .e5m2 => 4 | .e4m3 => 4 | .e3m2 => 4 | .e2m3 => 4 | .e2m1 => 8

/-- The MX element formats: codes 011 and above (R250). -/
def Fmt.isMx : Fmt → Bool | .f32 => false | .f16 => false | .bf16 => false | _ => true

def Fmt.isWide : Fmt → Bool | .f32 => true | .f16 => true | .bf16 => true | _ => false

/-- An address operand of class 0x7: a v pair or an s pair (R256). -/
def addrOk (a : Opnd) : Bool := a.vs && a.sized true

/-- With ORDER plain, SCOPE is reserved and zero (R173). -/
def ordScope (o : Order) (s : Scope) : Bool := o != .plain || s == .sq

/-- Orders of R112. -/
def Order.forLd : Order → Bool | .plain => true | .rlx => true | .acq => true | .sc => true | _ => false
def Order.forSt : Order → Bool | .plain => true | .rlx => true | .rel => true | .sc => true | _ => false
def Order.forAtm : Order → Bool | .plain => false | _ => true
def Order.forFence : Order → Bool | .plain => false | .rlx => false | _ => true

/-- The AT codes an AOP accepts (R265). -/
def AMod.atOk (m : AMod) : Bool :=
  match m.op with
  | .min => true
  | .max => true
  | .fadd => !m.w64 && !m.sg
  | .fmin => !m.w64 && !m.sg
  | .fmax => !m.w64 && !m.sg
  | _ => !m.sg

/-- Gather needs a vector of indices, the other modes a uniform row; CREG is reserved without `.auto` (R285). -/
def MMod.wf (m : MMod) (d a b : Opnd) : Bool :=
  d.isAcc && a.sk && (match m.amode with | .ga => b.isV | _ => b.sk) && (m.shape == .auto || m.creg.val == 0)

/-- Registers with elements, and their counts (R308). -/
def SReg.elems : SReg → Nat | .tva => 16 | .mstat => 8 | _ => 0

def elemOk (r : SReg) : Option Opnd → Bool
  | none => r.elems == 0
  | some (.k n) => decide (n.val < r.elems)
  | some (.s _) => r.elems != 0
  | _ => false

/-- ROUND, signedness and width of `prefix` and `reduce` (R237). -/
def redOk (op : RedOp) (t : IType) (rnd : Rnd) : Bool :=
  (t.w == .w32 || t.w == .w64) &&
    (match op with
     | .fadd => t.w == .w32 && !t.sg
     | .min => rnd == .rne
     | .max => rnd == .rne
     | _ => rnd == .rne && !t.sg)

/-- PC is reserved when BOP is 00 (R230). -/
def bopOk (pc : Fin 8) (bop : BOp) : Bool := bop != .none || pc.val == 0

/-- POS limits of `pk` (R253). -/
def pkPos (dst : Fmt) (pos : Fin 4) : Bool := decide (2 * pos.val + 1 < dst.count)

namespace Instr

/-- Whether the words of `i` are an instruction: everything R174's encoding step checks but the window size and the
reserved bits, which the decoder checks by encoding again. -/
def wf : Instr → Bool
  | .nop h => h.wf false
  | .add h m o => h.wf false && m.narrow && o.wf false false false
  | .sub h m o => h.wf false && m.narrow && o.wf false false false
  | .addc h o => h.wf false && o.d.isV && o.a.vsk && o.b.vsk && o.cc.isP
  | .subb h o => h.wf false && o.d.isV && o.a.vsk && o.b.vsk && o.cc.isP
  | .mul h m o => h.wf false && m.narrow && o.wf false false false
  | .mulh h m o => h.wf false && m.t.w == .w32 && !m.sat && o.wf false false false
  | .mad h m o => h.wf false && m.narrow && o.wf false
  | .madw h _ o =>
    h.wf false && o.a.vsk && o.b.vsk && o.cc.vs && uniOk o.d [o.a, o.b, o.cc] && o.d.sized true && o.cc.sized true
  | .div h m o => h.wf false && !m.sat && o.wf m.t.w.is64 m.t.w.is64 m.t.w.is64
  | .rem h m o => h.wf false && !m.sat && o.wf m.t.w.is64 m.t.w.is64 m.t.w.is64
  | .neg h m o => h.wf false && m.narrow && o.wf false false
  | .abs h m o => h.wf false && m.narrow && m.t.sg && o.wf false false
  | .min h m o => h.wf false && m.narrow && !m.sat && o.wf false false false
  | .max h m o => h.wf false && m.narrow && !m.sat && o.wf false false false
  | .sad h m o => h.wf false && m.narrow && o.wf false
  | .lea h _ _ o => h.wf false && o.wf true true false
  | .add64 h m o => h.wf false && m.t.w.is64 && o.wf true true true
  | .sub64 h m o => h.wf false && m.t.w.is64 && o.wf true true true
  | .mov h w o => h.wf false && o.wf w w
  | .movi h o => h.wf false && o.d.isV && o.wf false false false
  | .movw h _ o => h.wf false && o.wf false false
  | .sel h w o =>
    h.wf false && o.d.isV && o.a.vsk && o.b.vsk && o.cc.isP && o.d.sized w && o.a.sized w && o.b.sized w
  | .iclamp h m o => h.wf false && m.narrow && !m.sat && o.wf false
  | .dot4 h _ _ _ o => h.wf false && o.wf false
  | .dot2 h _ _ _ o => h.wf false && o.wf false
  | .andB h w o => h.wf false && o.wf w w w
  | .orB h w o => h.wf false && o.wf w w w
  | .xorB h w o => h.wf false && o.wf w w w
  | .notB h w o => h.wf false && o.wf w w
  | .andn h w o => h.wf false && o.wf w w w
  | .orn h w o => h.wf false && o.wf w w w
  | .bfn3 h _ o => h.wf false && o.wf false
  | .shl h o => h.wf false && o.wf false false false
  | .shr h o => h.wf false && o.wf false false false
  | .sar h o => h.wf false && o.wf false false false
  | .rotl h o => h.wf false && o.wf false false false
  | .rotr h o => h.wf false && o.wf false false false
  | .shl64 h o => h.wf false && o.wf true true false
  | .shr64 h o => h.wf false && o.wf true true false
  | .sar64 h o => h.wf false && o.wf true true false
  | .clz h w o => h.wf false && o.wf false w
  | .ctz h w o => h.wf false && o.wf false w
  | .popc h w o => h.wf false && o.wf false w
  | .brev h w o => h.wf false && o.wf w w
  | .bfx h _ o => h.wf false && o.wf false false false
  | .bfi h o => h.wf false && o.wf false
  | .bsel h w o => h.wf false && o.wf w
  | .cmp h t _ pc bop o =>
    h.wf false && !t.w.is64 && bopOk pc bop && o.d.isP && o.a.vski && o.b.vski && o.a.sized false && o.b.sized false &&
      cUsed [o.a, o.b] o.c
  | .cmp64 h _ _ pc bop o =>
    h.wf false && bopOk pc bop && o.d.isP && o.a.vski && o.b.vski && o.a.sized true && o.b.sized true && cUsed [o.a, o.b] o.c
  | .fcmp h _ pc bop o =>
    h.wf false && bopOk pc bop && o.d.isP && o.a.vski && o.b.vski && o.a.sized false && o.b.sized false &&
      cUsed [o.a, o.b] o.c
  | .pand h _ _ o => h.wf false && o.d.isP && o.a.isP && o.b.isP && o.c == 0
  | .por h _ _ o => h.wf false && o.d.isP && o.a.isP && o.b.isP && o.c == 0
  | .pxor h _ _ o => h.wf false && o.d.isP && o.a.isP && o.b.isP && o.c == 0
  | .pnot h o => h.wf false && o.d.isP && o.a.isP && o.c == 0
  | .pmov h o =>
    h.wf false && (o.d.isP || o.d.isS) && (o.a.isP || o.a.ski) && o.a.sized false && cUsed [o.a] o.c
  | .vote h mode _ o =>
    h.wf false && o.a.isP && o.c == 0 &&
      (match mode with
       | .some => o.d.isP || o.d.isS
       | .each => o.d.isP || o.d.isS
       | .agree => o.d.isP || o.d.isS
       | _ => o.d.isS || o.d.isV)
  | .shfl h _ _ w o =>
    h.wf false && o.d.isV && o.a.isV && o.b.vski && o.d.sized w && o.a.sized w && o.b.sized false && cUsed [o.b] o.c
  | .vtos h w o =>
    h.wf false && o.d.isS && o.a.isV && o.b.ski && o.d.sized w && o.a.sized w && o.b.sized false && cUsed [o.b] o.c
  | .stov h w o =>
    h.wf false && o.d.isV && o.a.ski && o.b.ski && o.d.sized w && o.a.sized w && o.b.sized false && cUsed [o.a, o.b] o.c
  | .amask h d => h.wf false && d.isS
  | .prefixScan h op t _ rnd o =>
    h.wf false && redOk op t rnd && o.d.isV && o.a.isV && o.d.sized t.w.is64 && o.a.sized t.w.is64 && o.c == 0
  | .reduce h op t rnd o =>
    h.wf false && redOk op t rnd && o.d.vs && o.a.isV && o.d.sized t.w.is64 && o.a.sized t.w.is64 && o.c == 0
  | .matchV h w o => h.wf false && o.d.isV && o.a.isV && o.a.sized w && o.c == 0
  | .br h _ _ _ => h.wf false
  | .brd h _ _ _ _ => h.wf false
  | .jmp h _ => h.wf false
  | .jmpi h a c => h.wf false && a.vski && a.sized false && cUsed [a] c
  | .call h _ _ => h.wf false
  | .calli h _ a c => h.wf false && a.vski && a.sized false && cUsed [a] c
  | .ret h => h.wf false
  | .hjoin h _ => h.wf true
  | .exit h => h.wf false
  | .loop h _ _ => h.wf false
  | .wgrow h amt => h.wf false && amt.val != 0
  | .wshrink h amt => h.wf false && amt.val != 0
  | .fadd h _ o => h.wf false && o.wf false false false
  | .fsub h _ o => h.wf false && o.wf false false false
  | .fmul h _ o => h.wf false && o.wf false false false
  | .ffma h _ o => h.wf false && o.wf false
  | .fmin h o => h.wf false && o.wf false false false
  | .fmax h o => h.wf false && o.wf false false false
  | .fabs h o => h.wf false && o.wf false false
  | .fneg h o => h.wf false && o.wf false false
  | .fdiv h _ o => h.wf false && o.wf false false false
  | .fsqrt h _ o => h.wf false && o.wf false false
  | .frcp h _ o => h.wf false && o.wf false false
  | .frsq h _ o => h.wf false && o.wf false false
  | .fexp2 h _ o => h.wf false && o.wf false false
  | .flog2 h _ o => h.wf false && o.wf false false
  | .frnd h _ o => h.wf false && o.wf false false
  | .fclass h o => h.wf false && o.wf false false
  | .fcopysign h o => h.wf false && o.wf false false false
  | .fscale h _ o => h.wf false && o.wf false false false
  | .f16add h _ o => h.wf false && o.wf false false false
  | .f16mul h _ o => h.wf false && o.wf false false false
  | .f16fma h _ o => h.wf false && o.wf false
  | .f16min h o => h.wf false && o.wf false false false
  | .f16max h o => h.wf false && o.wf false false false
  | .b16add h _ o => h.wf false && o.wf false false false
  | .b16mul h _ o => h.wf false && o.wf false false false
  | .b16fma h _ o => h.wf false && o.wf false
  | .fdot2 h _ o => h.wf false && o.wf false
  | .bdot2 h _ o => h.wf false && o.wf false
  | .fcmp2 h _ _ o => h.wf false && o.wf false false false
  | .qdot4 h _ _ _ o => h.wf false && o.wf false && !o.a.isK && !o.b.isK
  | .b16min h o => h.wf false && o.wf false false false
  | .b16max h o => h.wf false && o.wf false false false
  | .cvt h _ src dst o =>
    h.wf false && src != dst && o.a.vski && uniOk o.d [o.a] && o.a.sized false && cUsed [o.a] o.c &&
      (match o.b with
       | .k n => decide (n.val % 8 < src.count) && decide (n.val / 8 < dst.count)
       | _ => false)
  | .i2f h _ t dst o => h.wf false && dst.isWide && o.wf false t.w.is64
  | .f2i h _ t src o => h.wf false && src.isWide && o.wf t.w.is64 false
  | .pk h m raw dst pos o =>
    h.wf false && dst != .f32 && pkPos dst pos && (!raw || (m.rnd == .rne && !m.sat)) && o.wf false false false
  | .upk h src elem _ o => h.wf false && src != .f32 && decide (elem.val < src.count) && o.wf false false
  | .mxq h fmt d a sc => h.wf false && fmt.isMx && d.isV && a.isV && a.sized true && sc.isS
  | .mxd h _ fmt o =>
    h.wf false && fmt.isMx && o.d.isV && o.d.sized true && o.a.isV && o.b.vski && o.b.sized false && cUsed [o.b] o.c
  | .ld h m d a _ =>
    h.wf true && m.ord.forLd && ordScope m.ord m.scope && addrOk a && (d.isV || (d.isS && a.isS)) && d.sized m.t.w.is64
  | .st h m a b _ =>
    h.wf true && m.ord.forSt && ordScope m.ord m.scope && !m.t.sg && addrOk a && b.vsk && b.sized m.t.w.is64
  | .stp h w a b _ => h.wf false && addrOk a && b.vsk && b.sized w.is64
  | .atm h m d a b _ =>
    h.wf true && m.ord.forAtm && m.atOk && d.isV && addrOk a && b.vsk && d.sized m.w64 && b.sized m.w64
  | .atp h m a b _ => h.wf false && m.ord == .rlx && m.scope == .sy && m.atOk && addrOk a && b.vsk && b.sized m.w64
  | .cas h m d a b _ =>
    h.wf true && m.ord.forAtm && (m.t.w == .w32 || m.t.w == .w64) && !m.t.sg && d.isV && addrOk a && b.vsk &&
      d.sized m.t.w.is64 && b.sized m.t.w.is64
  | .fence h ord _ _ _ => h.wf false && ord.forFence
  | .drain h => h.wf false
  | .pass h a disp => h.wf true && (match a with | none => disp == 0 | some o => addrOk o)
  | .rrd h t d a _ => h.wf false && d.isV && addrOk a && d.sized t.w.is64
  | .rwr h w a b _ => h.wf false && addrOk a && b.vsk && b.sized w.is64
  | .lds h m d a _ =>
    h.wf true && m.ord.forLd && ordScope m.ord m.scope && a.vs && (d.isV || (d.isS && a.isS)) && d.sized m.t.w.is64
  | .sts h m a b _ =>
    h.wf true && m.ord.forSt && ordScope m.ord m.scope && !m.t.sg && a.vs && b.vsk && b.sized m.t.w.is64
  | .ats h m d a b _ =>
    h.wf true && m.ord.forAtm && m.atOk && d.isV && a.vs && b.vsk && d.sized m.w64 && b.sized m.w64
  | .bar h _ _ => h.wf false
  | .bara h _ _ => h.wf false
  | .barw h _ => h.wf false
  | .sgo h _ _ a => h.wf false && a.sk
  | .swt h _ a b => h.wf false && a.sk && b.sk
  | .gang h a c => h.wf false && a.ski && a.sized false && cUsed [a] c
  | .mstat h ty _ a b _ => h.wf false && ty.isMx && a.sk && b.sk
  | .mfree h _ => h.wf false
  | .mmx h m d a b => h.wf true && m.wf d a b
  | .mmxs h m _ d a b => h.wf true && m.wf d a b
  | .mmxd h m _ _ d a b => h.wf true && m.wf d a b
  | .mzero h d => h.wf false && d.isAcc
  | .mdrn h _ m d a => h.wf false && d.sk && a.isAcc && m.rows.toNat != 0 && decide (m.row0.toNat + m.rows.toNat ≤ 128)
  | .mdrq h fmt m d a b =>
    h.wf false && fmt.isMx && d.sk && a.isAcc && b.sk && m.rows.toNat != 0 && decide (m.row0.toNat + m.rows.toNat ≤ 128)
  | .mdrx h m d a b => h.wf true && d.sk && a.isAcc && b.isV && m.rows == 0
  | .mslotInv h a => h.wf false && a.sk
  | .mslotNint h a b => h.wf false && a.sk && b.sk
  | .mwait h => h.wf false
  | .cpG2s h _ d a b => h.wf false && d.sk && a.sk && b.sk
  | .cpS2g h _ d a b => h.wf false && d.sk && a.sk && b.sk
  | .cpg h _ d a b cc => h.wf false && d.sk && a.sk && b.sk && cc.sk
  | .cpw h a b _ => h.wf false && a.sk && b.sk
  | .cpy h a b _ => h.wf false && a.sk && b.sk
  | .qfence h q => h.wf false && q != 0
  | .qwait h q => h.wf false && q != 0
  | .trec h _ d a => h.wf false && d.vs && a.sk
  | .lnch h a => h.wf false && a.sk
  | .srd h w d r e =>
    h.wf false && d.vs && d.sized w && (w == (r == .tva) || (w && r == .ticklo)) && elemOk r e &&
      !(d.isS && r == .laneid)
  | .swr h w r a e c =>
    h.wf false && !w && a.ski && a.sized false && cUsed [a] c && elemOk r e &&
      (match r, e with
       | .fpstat, _ => true
       | .fpctl, _ => true
       | .tpc, _ => true
       | .tlm, _ => true
       | .mstat, some (.k n) => n.val == 1
       | .mstat, _ => true
       | _, _ => false)
  | .trap h _ => h.wf false
  | .eret h => h.wf false
  | .sqkill h => h.wf false
  | .tmkill h => h.wf false
  | .relax h _ => h.wf false
  | .sleep h a c => h.wf false && a.ski && a.sized false && cUsed [a] c
  | .brkpt h _ => h.wf false
  | .smark h _ => h.wf false
  | .icinv h _ => h.wf false
  | .twait h a c => h.wf false && a.ski && a.sized true && cUsed [a] c
  | _ => true

/-- Whether the row is an instruction, which has words; the events have none (spec/95_what_each_step_holds.md). -/
def hasWord : Instr → Bool
  | .instructionFetch _ | .resultLand _ _ | .relaxExpire _ | .yieldExpire _ | .translationProbe _ | .pageWalkStep _
  | .adUpdate _ | .walkAheadTranslate _ _ | .shootdownPage _ _ _ | .shootdownAll _ _ | .sdcmdInvalid _ _
  | .shootdownComplete _ | .xfqRecordWrite _ | .xfqptrHeadWrite _ _ | .xfrespRetry _ _ | .xfrespDeny _ _ | .depart _
  | .departureBufferGrant _ | .frameInject _ | .c0LimiterRefill _ _ _ | .flush _ | .postedRequest _ | .ackTimer _ _
  | .acknowledgement _ | .flowStop _ _ _ | .flowGo _ _ _ | .frameArrival _ | .frameDispatch _ | .frameUnpark _
  | .frameFetch _ | .frameFetchData _ | .growthRequest _ | .squadCreate _ _ | .squadStart _ | .joinRequest _
  | .joinReply _ | .huddleFinalMask _ | .exitNotice _ | .barrierArrival _ | .stageGo _ | .stageWait _ | .partWake _
  | .latchArrival _ | .commandAppend _ | .copyBegin _ _ | .chunkComplete _ _ _ | .regionFillBegin _ | .regionFillEnd _
  | .regionFree _ | .productBegin _ | .deltaInvocation _ | .tileZero _ | .slotInvalidate _ | .slotNintWrite _
  | .drainBegin _ | .joinEntry _ _ | .entryCompletion _ _ | .cpyHoldRelease _ | .macScrub _ _ _ | .rscmdOne _ _
  | .rscmdPart _ _ | .rscmdKey _ _ _ | .rscmdAll _ | .rscmdInvalid _ _ | .rscmdComplete _ | .faultRecordArrival _
  | .faultNotice _ | .deferralNotice _ | .storeFaultDeferred _ | .killDelivery _ | .contextLoss _ _ | .teamRestart _
  | .restartableClear _ | .freeze _ | .freezeTimeout _ | .resume _ _ | .sleepWake _ | .twaitWake _ | .doorbell _ _ _ _
  | .waitEventPoll _ | .launchAdmit _ | .teamPlace _ _ _ | .stpost _ _ | .launchComplete _ | .remoteSend _
  | .remoteRetransmit _ | .remoteTimeout _ | .remoteReply _ _ | .remoteRequestReceive _ _ | .rateIncrease _ _ _
  | .ptpSync _ | .linkDown _ _ | .domainForm _ | .mailboxSend _ | .d2hPost _ | .faultresp _ _ _ _
  | .faultServiceTimeout | .windowWrite _ _ _ | .windowRead _ _ _ | .firmwareImageWrite _ _ _ _ | .create | .teardown _
  | .attest _ _ | .keyload _ _ _ | .revoke _ _ | .profring _ _ _ | .replay _ _ _ | .hold _ _ | .power _ _ _
  | .breakset _ _ _ _ _ | .tickset _ _ _ _ | .stopctlArm _ | .stopctlStopnow | .stopctlRelease | .stopctlSteprel _
  | .stoplist _ _ | .dbgStep _ _ _ _ _ | .dbgContinue _ _ _ | .packageStop | .scandataWrite _ | .tickMatchFire _
  | .sampleCopy _ | .checkpoint _ | .replayRun _ _ | .replayDiverged _ | .capture _ | .rerun _ | .kcmdLoad _ _ _ _
  | .kcmdRevoke _ _ _ _ | .kcmdInvalid _ _ _ _ | .powerOn | .pf0Reset | .fwctlGo | .powerUpdate _ _ _ | .errlostRead
  | .smplostRead _ | .bridgeAccess _ _ _ _ | .registerWrite _ _ _ _ _ | .tick | .dramScrub _ _ | .linkRetransmission _ _
  | .bootStepEnd _ _ => false
  | _ => true

end Instr
end Sys2Proof
end

