-- ==== Sys2Proof/Decode.lean ====
section
/-! DEFINITION. The instruction word (R164, R165): field codes, the decoder with the encoding fates of R174, and the
encoder, both written from the encoding tables of the instruction chapters. -/

namespace Sys2Proof

/-- The fields of the word, and field C split into CM and C[31:0] (R165, R170). -/
structure Raw where
  op : Nat
  gn : Nat
  gp : Nat
  sw : Nat
  yh : Nat
  lsi : Nat
  md : Nat
  d : Nat
  a : Nat
  b : Nat
  cm : Nat
  c : Nat
  deriving DecidableEq, Repr

/-- The 96 bits of the fields, bit 95 the top of CLASS (R165). -/
def Raw.pack (r : Raw) : Nat :=
  r.op * 2 ^ 86 + r.gn * 2 ^ 85 + r.gp * 2 ^ 82 + r.sw * 2 ^ 81 + r.yh * 2 ^ 80 + r.lsi * 2 ^ 74 + r.md * 2 ^ 64 +
    r.d * 2 ^ 54 + r.a * 2 ^ 44 + r.b * 2 ^ 34 + r.cm * 2 ^ 32 + r.c

/-- The fields of a 96-bit word (R165). -/
def unpack (w : Nat) : Raw where
  op := bitsOf w 95 86
  gn := bitsOf w 85 85
  gp := bitsOf w 84 82
  sw := bitsOf w 81 81
  yh := bitsOf w 80 80
  lsi := bitsOf w 79 74
  md := bitsOf w 73 64
  d := bitsOf w 63 54
  a := bitsOf w 53 44
  b := bitsOf w 43 34
  cm := bitsOf w 33 32
  c := bitsOf w 31 0

/-- A Bool as a bit. -/
def bit (b : Bool) : Nat := if b then 1 else 0

/-- Bit `n` of `x`. -/
def tb (x n : Nat) : Bool := x / 2 ^ n % 2 == 1

/-- Place in a numbered list, for the code tables. -/
def codeOf {α : Type} [DecidableEq α] (x : α) : List α → Nat
  | [] => 0
  | y :: ys => if x = y then 0 else codeOf x ys + 1

/-- The codes of Width: ITYPE[1:0] (R173). -/
def widths : List Width := [.w32, .w8, .w16, .w64]
def orders : List Order := [.plain, .rlx, .acq, .rel, .ar, .sc]
def scopes : List Scope := [.sq, .tm, .st, .pk, .sy]
def rnds : List Rnd := [.rne, .rtz, .rdn, .rup]
def fmts : List Fmt := [.f32, .f16, .bf16, .e5m2, .e4m3, .e3m2, .e2m3, .e2m1]
def conds : List Cond := [.eq, .ne, .lt, .le, .gt, .ge]
def bops : List BOp := [.none, .and, .or, .xor]
def fconds : List FCond :=
  [.ord .eq, .ord .ne, .ord .lt, .ord .le, .ord .gt, .ord .ge, .num, .nan, .uno .eq, .uno .ne, .uno .lt, .uno .le,
    .uno .gt, .uno .ge]
def voteModes : List VoteMode := [.some, .each, .agree, .mask, .count, .first]
def shflModes : List ShflMode := [.from, .back, .fwd, .mirr, .rot]
def redOps : List RedOp := [.add, .min, .max, .and, .or, .xor, .fadd]
def aops : List AOp := [.add, .min, .max, .and, .or, .xor, .exch, .incw, .decw, .fadd, .fmin, .fmax]
def pats : List Pat := [.dense, .s24, .s14]
def shapes : List Shape := [.m16, .m32, .m48, .m64, .m96, .m128, .auto]
def amodes : List AMode := [.pl, .cv, .ga]
def uses : List Use := [.cp, .cpg, .fill, .row, .conv]
/-- The special registers by index (R308). -/
def sregs : List SReg :=
  [.laneid, .sqid, .teamid, .teamx, .teamy, .teamz, .launchid, .stackid, .partid, .amask, .gang, .ticklo, .tickhi,
    .fpstat, .fpctl, .tcause, .tpc, .tlm, .tva, .sfqhead, .sfqcount, .mstat]

/-- The 10-bit operand field: kind and index (R169). -/
def Opnd.enc : Opnd → Nat
  | .v n => n.val
  | .s n => 128 + n.val
  | .p n => 256 + n.val
  | .acc n => 384 + n.val
  | .x r => 512 + codeOf r sregs
  | .i sx => 640 + bit sx
  | .k n => 768 + n.val

/-- A Fin when the index is in range. -/
def finOf (n x : Nat) : Option (Fin n) := if h : x < n then some ⟨x, h⟩ else none

/-- The operand a field names; none where R169 makes every use of the field illegal. -/
def Opnd.dec (x : Nat) : Option Opnd :=
  match x / 128 with
  | 0 => (finOf 32 (x % 128)).map .v
  | 1 => (finOf 16 (x % 128)).map .s
  | 2 => (finOf 8 (x % 128)).map .p
  | 3 => (finOf 32 (x % 128)).map .acc
  | 4 => sregs[x % 128]?.map .x
  | 5 => (match x % 128 with | 0 => some (.i false) | 1 => some (.i true) | _ => none)
  | 6 => (finOf 128 (x % 128)).map .k
  | _ => none

def IType.enc (t : IType) : Nat := codeOf t.w widths + 4 * bit t.sg
def IType.dec (x : Nat) : Option IType := do let w ← widths[x % 4]?; some ⟨w, tb x 2⟩

/-- Raw fields of an instruction of opcode `op`. -/
def Hdr.raw (h : Hdr) (op : Nat) (md : Nat := 0) (d : Nat := 0) (a : Nat := 0) (b : Nat := 0) (c : Nat := 0)
    (cm : Nat := 0) : Raw :=
  ⟨op, bit h.gn, h.gp.val, bit h.sw, bit h.yh, h.lsi.val, md, d, a, b, cm, c⟩

/-- Guard, hints and LSI of the fields. -/
def Raw.hdr (r : Raw) : Hdr :=
  ⟨r.gn == 1, Fin.ofNat 8 r.gp, r.sw == 1, r.yh == 1, Fin.ofNat 64 r.lsi⟩

def F2.raw (o : F2) (h : Hdr) (op : Nat) (md : Nat := 0) (cm : Nat := 0) : Raw :=
  h.raw op md o.d.enc o.a.enc 0 o.c.toNat cm
def F3.raw (o : F3) (h : Hdr) (op : Nat) (md : Nat := 0) (cm : Nat := 0) : Raw :=
  h.raw op md o.d.enc o.a.enc o.b.enc o.c.toNat cm
def F4.raw (o : F4) (h : Hdr) (op : Nat) (md : Nat := 0) : Raw :=
  h.raw op md o.d.enc o.a.enc o.b.enc o.cc.enc

def Raw.word (r : Raw) : Word := BitVec.ofNat 32 r.c
def Raw.f2 (r : Raw) : Option F2 := do
  let d ← Opnd.dec r.d
  let a ← Opnd.dec r.a
  some ⟨d, a, r.word⟩
def Raw.f3 (r : Raw) : Option F3 := do
  let d ← Opnd.dec r.d
  let a ← Opnd.dec r.a
  let b ← Opnd.dec r.b
  some ⟨d, a, b, r.word⟩
def Raw.f4 (r : Raw) : Option F4 := do
  let d ← Opnd.dec r.d
  let a ← Opnd.dec r.a
  let b ← Opnd.dec r.b
  let c ← Opnd.dec r.c
  some ⟨d, a, b, c⟩

/-- ITYPE and SAT (R205). -/
def IMod.enc (m : IMod) : Nat := m.t.enc + 8 * bit m.sat
def Raw.imod (r : Raw) : Option IMod := do let t ← IType.dec (r.md % 8); some ⟨t, tb r.md 3⟩
/-- ITYPE 000 or 011: width 32 or 64 without a sign (R210, R214). -/
def encB (w64 : Bool) : Nat := if w64 then 3 else 0
/-- ITYPE `.n32` or `.s32`. -/
def encS (sg : Bool) : Nat := if sg then 4 else 0
/-- ROUND and SAT (R239). -/
def FMod.enc (m : FMod) : Nat := codeOf m.rnd rnds + 4 * bit m.sat
def Raw.fmod (r : Raw) : Option FMod := do let x ← rnds[r.md % 4]?; some ⟨x, tb r.md 2⟩
/-- The access layout (R257). -/
def Acc.enc (m : Acc) : Nat := m.t.enc + 8 * codeOf m.ord orders + 64 * codeOf m.scope scopes
def Raw.acc (r : Raw) : Option Acc := do
  let t ← IType.dec (r.md % 8)
  let o ← orders[r.md / 8 % 8]?
  let s ← scopes[r.md / 64 % 8]?
  some ⟨t, o, s⟩
/-- The atomic layout (R265). -/
def AMod.enc (m : AMod) : Nat := codeOf m.op aops + 16 * codeOf m.ord orders + 128 * codeOf m.scope scopes
def AMod.at' (m : AMod) : Nat := 2 * bit m.w64 + bit m.sg
def Raw.amod (r : Raw) : Option AMod := do
  let p ← aops[r.md % 16]?
  let o ← orders[r.md / 16 % 8]?
  let s ← scopes[r.md / 128 % 8]?
  some ⟨p, o, s, tb r.cm 1, tb r.cm 0⟩
/-- MOD and field C of the matrix products (R285). -/
def MMod.encM (m : MMod) : Nat := codeOf m.shape shapes + 8 * codeOf m.amode amodes
def MMod.encC (m : MMod) : Nat := m.region.val + 64 * m.colt.val + 1024 * m.creg.val
def Raw.mmod (r : Raw) : Option MMod := do
  let s ← shapes[r.md % 8]?
  let a ← amodes[r.md / 8 % 4]?
  some ⟨s, a, Fin.ofNat 64 r.c, Fin.ofNat 16 (r.c / 64), Fin.ofNat 16 (r.c / 1024)⟩
/-- CB of MOD and field C of the drains (R291). -/
def DMod.encC (m : DMod) : Nat := m.row0.toNat + 256 * m.rows.toNat + 65536 * m.rstride.toNat
def Raw.dmod (r : Raw) : DMod :=
  ⟨Fin.ofNat 8 (r.md / 8), BitVec.ofNat 8 r.c, BitVec.ofNat 8 (r.c / 256), BitVec.ofNat 16 (r.c / 65536)⟩
/-- The element operand of `srd` and `swr` (R309). -/
def encElem : Option Opnd → Nat
  | none => 0
  | some o => o.enc
def decElem (x : SReg) (b : Nat) : Option (Option Opnd) := if x.elems = 0 then some none else (Opnd.dec b).map some

namespace Instr

/-- The fields of each instruction; the events, which have no words, give zero fields. -/
def raw : Instr → Raw
  | .nop h => h.raw 0x000
  | .add h m o => o.raw h 0x001 m.enc
  | .sub h m o => o.raw h 0x002 m.enc
  | .addc h o => o.raw h 0x003
  | .subb h o => o.raw h 0x004
  | .mul h m o => o.raw h 0x005 m.enc
  | .mulh h m o => o.raw h 0x006 m.enc
  | .mad h m o => o.raw h 0x007 m.enc
  | .madw h sg o => o.raw h 0x008 (encS sg)
  | .div h m o => o.raw h 0x009 m.enc
  | .rem h m o => o.raw h 0x00A m.enc
  | .neg h m o => o.raw h 0x00B m.enc
  | .abs h m o => o.raw h 0x00C m.enc
  | .min h m o => o.raw h 0x00D m.enc
  | .max h m o => o.raw h 0x00E m.enc
  | .sad h m o => o.raw h 0x00F m.enc
  | .lea h sh sx o => o.raw h 0x010 (sh.val + 8 * bit sx)
  | .add64 h m o => o.raw h 0x011 m.enc
  | .sub64 h m o => o.raw h 0x012 m.enc
  | .mov h w o => o.raw h 0x013 (encB w)
  | .movi h o => o.raw h 0x014
  | .movw h hi o => o.raw h 0x015 (bit hi)
  | .sel h w o => o.raw h 0x016 (encB w)
  | .iclamp h m o => o.raw h 0x017 m.enc
  | .dot4 h sa sb sat o => o.raw h 0x018 (bit sa + 2 * bit sb + 8 * bit sat)
  | .dot2 h sa sb sat o => o.raw h 0x019 (bit sa + 2 * bit sb + 8 * bit sat)
  | .andB h w o => o.raw h 0x040 (encB w)
  | .orB h w o => o.raw h 0x041 (encB w)
  | .xorB h w o => o.raw h 0x042 (encB w)
  | .notB h w o => o.raw h 0x043 (encB w)
  | .andn h w o => o.raw h 0x044 (encB w)
  | .orn h w o => o.raw h 0x045 (encB w)
  | .bfn3 h fn o => o.raw h 0x046 fn.toNat
  | .shl h o => o.raw h 0x047
  | .shr h o => o.raw h 0x048
  | .sar h o => o.raw h 0x049
  | .rotl h o => o.raw h 0x04A
  | .rotr h o => o.raw h 0x04B
  | .shl64 h o => o.raw h 0x04C
  | .shr64 h o => o.raw h 0x04D
  | .sar64 h o => o.raw h 0x04E
  | .clz h w o => o.raw h 0x04F (encB w)
  | .ctz h w o => o.raw h 0x050 (encB w)
  | .popc h w o => o.raw h 0x051 (encB w)
  | .brev h w o => o.raw h 0x052 (encB w)
  | .bfx h sg o => o.raw h 0x053 (encS sg)
  | .bfi h o => o.raw h 0x054
  | .bsel h w o => o.raw h 0x055 (encB w)
  | .cmp h t c pc bop o => o.raw h 0x080 (t.enc + 8 * codeOf c conds + 64 * pc.val) (codeOf bop bops)
  | .cmp64 h sg c pc bop o => o.raw h 0x081 (3 + 4 * bit sg + 8 * codeOf c conds + 64 * pc.val) (codeOf bop bops)
  | .fcmp h c pc bop o => o.raw h 0x082 (codeOf c fconds + 16 * pc.val) (codeOf bop bops)
  | .pand h na nb o => o.raw h 0x083 (bit na + 2 * bit nb)
  | .por h na nb o => o.raw h 0x084 (bit na + 2 * bit nb)
  | .pxor h na nb o => o.raw h 0x085 (bit na + 2 * bit nb)
  | .pnot h o => o.raw h 0x086
  | .pmov h o => o.raw h 0x087
  | .vote h m na o => o.raw h 0x088 (codeOf m voteModes + 8 * bit na)
  | .shfl h m g w o => o.raw h 0x089 (codeOf m shflModes + 8 * g.val + 32 * bit w)
  | .vtos h w o => o.raw h 0x08A (bit w)
  | .stov h w o => o.raw h 0x08B (bit w)
  | .amask h d => h.raw 0x08C 0 d.enc
  | .prefixScan h p t ex x o => o.raw h 0x08D (codeOf p redOps + 8 * t.enc + 64 * bit ex + 128 * codeOf x rnds)
  | .reduce h p t x o => o.raw h 0x08E (codeOf p redOps + 8 * t.enc + 128 * codeOf x rnds)
  | .matchV h w o => o.raw h 0x08F (bit w)
  | .br h n p off => h.raw 0x0C0 (bit n) 0 (256 + p.val) 0 off.toNat
  | .brd h n p hud off => h.raw 0x0C1 (bit n + 16 * hud.val) 0 (256 + p.val) 0 off.toNat
  | .jmp h off => h.raw 0x0C2 0 0 0 0 off.toNat
  | .jmpi h a c => h.raw 0x0C3 0 0 a.enc 0 c.toNat
  | .call h sl off => h.raw 0x0C4 sl.val 0 0 0 off.toNat
  | .calli h sl a c => h.raw 0x0C5 sl.val 0 a.enc 0 c.toNat
  | .ret h => h.raw 0x0C6
  | .hjoin h hud => h.raw 0x0C7 hud.val
  | .exit h => h.raw 0x0C8
  | .loop h n off => h.raw 0x0C9 0 0 (128 + n.val) 0 off.toNat
  | .wgrow h amt => h.raw 0x0CA amt.val
  | .wshrink h amt => h.raw 0x0CB amt.val
  | .fadd h m o => o.raw h 0x100 m.enc
  | .fsub h m o => o.raw h 0x101 m.enc
  | .fmul h m o => o.raw h 0x102 m.enc
  | .ffma h m o => o.raw h 0x103 m.enc
  | .fmin h o => o.raw h 0x104
  | .fmax h o => o.raw h 0x105
  | .fabs h o => o.raw h 0x106
  | .fneg h o => o.raw h 0x107
  | .fdiv h m o => o.raw h 0x108 m.enc
  | .fsqrt h m o => o.raw h 0x109 m.enc
  | .frcp h m o => o.raw h 0x10A m.enc
  | .frsq h m o => o.raw h 0x10B m.enc
  | .fexp2 h m o => o.raw h 0x10C m.enc
  | .flog2 h m o => o.raw h 0x10D m.enc
  | .frnd h x o => o.raw h 0x10E (codeOf x rnds)
  | .fclass h o => o.raw h 0x10F
  | .fcopysign h o => o.raw h 0x110
  | .fscale h m o => o.raw h 0x111 m.enc
  | .f16add h m o => o.raw h 0x140 m.enc
  | .f16mul h m o => o.raw h 0x141 m.enc
  | .f16fma h m o => o.raw h 0x142 m.enc
  | .f16min h o => o.raw h 0x143
  | .f16max h o => o.raw h 0x144
  | .b16add h m o => o.raw h 0x145 m.enc
  | .b16mul h m o => o.raw h 0x146 m.enc
  | .b16fma h m o => o.raw h 0x147 m.enc
  | .fdot2 h m o => o.raw h 0x148 m.enc
  | .bdot2 h m o => o.raw h 0x149 m.enc
  | .fcmp2 h c bf o => o.raw h 0x14A (codeOf c fconds + 16 * bit bf)
  | .qdot4 h m fa fb o => o.raw h 0x14B (m.enc + 8 * bit fa + 16 * bit fb)
  | .b16min h o => o.raw h 0x14C
  | .b16max h o => o.raw h 0x14D
  | .cvt h m src dst o => o.raw h 0x180 (m.enc + 8 * codeOf src fmts + 64 * codeOf dst fmts)
  | .i2f h m t dst o => o.raw h 0x181 (codeOf m.rnd rnds + 4 * t.enc + 32 * codeOf dst fmts + 128 * bit m.sat)
  | .f2i h x t src o => o.raw h 0x182 (codeOf x rnds + 4 * t.enc + 32 * codeOf src fmts)
  | .pk h m rw dst pos o => o.raw h 0x183 (m.enc + 8 * bit rw + 32 * codeOf dst fmts + 256 * pos.val)
  | .upk h src e rw o => o.raw h 0x184 (codeOf src fmts + 8 * e.val + 64 * bit rw)
  | .mxq h f d a sc => h.raw 0x185 (codeOf f fmts) d.enc a.enc 0 sc.enc
  | .mxd h x f o => o.raw h 0x186 (codeOf x rnds + 4 * codeOf f fmts)
  | .ld h m d a disp => h.raw 0x1C0 m.enc d.enc a.enc 0 disp.toNat
  | .st h m a b disp => h.raw 0x1C1 m.enc 0 a.enc b.enc disp.toNat
  | .stp h w a b disp => h.raw 0x1C2 (codeOf w widths) 0 a.enc b.enc disp.toNat
  | .atm h m d a b disp => h.raw 0x1C3 m.enc d.enc a.enc b.enc disp.toNat m.at'
  | .atp h m a b disp => h.raw 0x1C4 m.enc 0 a.enc b.enc disp.toNat m.at'
  | .cas h m d a b disp => h.raw 0x1C5 m.enc d.enc a.enc b.enc disp.toNat
  | .fence h o s cp mx => h.raw 0x1C6 (codeOf o orders + 8 * codeOf s scopes + 64 * bit cp + 128 * bit mx)
  | .drain h => h.raw 0x1C7
  | .pass h a disp => (match a with
      | none => h.raw 0x1C8 1 0 0 0 disp.toNat
      | some a => h.raw 0x1C8 0 0 a.enc 0 disp.toNat)
  | .rrd h t d a disp => h.raw 0x1C9 t.enc d.enc a.enc 0 disp.toNat
  | .rwr h w a b disp => h.raw 0x1CA (codeOf w widths) 0 a.enc b.enc disp.toNat
  | .lds h m d a disp => h.raw 0x200 m.enc d.enc a.enc 0 disp.toNat
  | .sts h m a b disp => h.raw 0x201 m.enc 0 a.enc b.enc disp.toNat
  | .ats h m d a b disp => h.raw 0x202 m.enc d.enc a.enc b.enc disp.toNat m.at'
  | .bar h id mx => h.raw 0x203 (id.val + 8 * bit mx)
  | .bara h id mx => h.raw 0x204 (id.val + 8 * bit mx)
  | .barw h id => h.raw 0x205 id.val
  | .sgo h g mx a => h.raw 0x206 (g.val + 8 * bit mx) 0 a.enc
  | .swt h g a b => h.raw 0x207 g.val 0 a.enc b.enc
  | .gang h a c => h.raw 0x240 0 0 a.enc 0 c.toNat
  | .mstat h ty pt a b rg => h.raw 0x241 (codeOf ty fmts + 8 * codeOf pt pats) 0 a.enc b.enc rg.val
  | .mfree h rg => h.raw 0x242 0 0 0 0 rg.val
  | .mmx h m d a b => h.raw 0x243 m.encM d.enc a.enc b.enc m.encC
  | .mmxs h m s14 d a b => h.raw 0x244 (m.encM + 32 * bit s14) d.enc a.enc b.enc m.encC
  | .mmxd h m full sr d a b => h.raw 0x245 (m.encM + 64 * bit full) d.enc a.enc b.enc (m.encC + 16384 * sr.val)
  | .mzero h d => h.raw 0x246 0 d.enc
  | .mdrn h bf m d a => h.raw 0x247 ((if bf then 2 else 0) + 8 * m.cb.val) d.enc a.enc 0 m.encC
  | .mdrq h f m d a b => h.raw 0x248 (codeOf f fmts + 8 * m.cb.val) d.enc a.enc b.enc m.encC
  | .mdrx h m d a b => h.raw 0x249 (8 * m.cb.val) d.enc a.enc b.enc m.encC
  | .mslotInv h a => h.raw 0x24A 0 0 a.enc
  | .mslotNint h a b => h.raw 0x24A 1 0 a.enc b.enc
  | .mwait h => h.raw 0x24B
  | .cpG2s h q d a b => h.raw 0x280 q.val d.enc a.enc b.enc
  | .cpS2g h q d a b => h.raw 0x280 (q.val + 4) d.enc a.enc b.enc
  | .cpg h q d a b cc => h.raw 0x281 q.val d.enc a.enc b.enc cc.enc
  | .cpw h a b disp => h.raw 0x282 0 0 a.enc b.enc disp.toNat
  | .cpy h a b off => h.raw 0x283 0 0 a.enc b.enc off.toNat
  | .qfence h q => h.raw 0x284 q.toNat
  | .qwait h q => h.raw 0x285 q.toNat
  | .trec h u d a => h.raw 0x286 (codeOf u uses) d.enc a.enc
  | .lnch h a => h.raw 0x287 0 0 a.enc
  | .srd h w d r e => h.raw 0x2C0 (bit w) d.enc (Opnd.x r).enc (encElem e)
  | .swr h w r a e c => h.raw 0x2C1 (bit w) (Opnd.x r).enc a.enc (encElem e) c.toNat
  | .trap h n => h.raw 0x2C2 0 0 0 0 n.toNat
  | .eret h => h.raw 0x2C3
  | .sqkill h => h.raw 0x2C4
  | .tmkill h => h.raw 0x2C5
  | .relax h n => h.raw 0x2C6 0 0 0 0 n.toNat
  | .sleep h a c => h.raw 0x2C7 0 0 a.enc 0 c.toNat
  | .brkpt h n => h.raw 0x2C8 0 0 0 0 n.toNat
  | .smark h n => h.raw 0x2C9 0 0 0 0 n.toNat
  | .icinv h r => h.raw 0x2CA r.val
  | .twait h a c => h.raw 0x2CB 0 0 a.enc 0 c.toNat
  | _ => ⟨0, 0, 0, 0, 0, 0, 0, 0, 0, 0, 0, 0⟩

end Instr

/-- The 96-bit word of an instruction. -/
def encode (i : Instr) : BitVec 96 := BitVec.ofNat 96 i.raw.pack

namespace Raw

/-- Class 0x0 (R206 to R213). -/
def cls0 (r : Raw) : Option Instr :=
  match r.op % 64 with
  | 0 => some (.nop r.hdr)
  | 1 => do let m ← r.imod; let o ← r.f3; some (.add r.hdr m o)
  | 2 => do let m ← r.imod; let o ← r.f3; some (.sub r.hdr m o)
  | 3 => do let o ← r.f4; some (.addc r.hdr o)
  | 4 => do let o ← r.f4; some (.subb r.hdr o)
  | 5 => do let m ← r.imod; let o ← r.f3; some (.mul r.hdr m o)
  | 6 => do let m ← r.imod; let o ← r.f3; some (.mulh r.hdr m o)
  | 7 => do let m ← r.imod; let o ← r.f4; some (.mad r.hdr m o)
  | 8 => do let o ← r.f4; some (.madw r.hdr (tb r.md 2) o)
  | 9 => do let m ← r.imod; let o ← r.f3; some (.div r.hdr m o)
  | 10 => do let m ← r.imod; let o ← r.f3; some (.rem r.hdr m o)
  | 11 => do let m ← r.imod; let o ← r.f2; some (.neg r.hdr m o)
  | 12 => do let m ← r.imod; let o ← r.f2; some (.abs r.hdr m o)
  | 13 => do let m ← r.imod; let o ← r.f3; some (.min r.hdr m o)
  | 14 => do let m ← r.imod; let o ← r.f3; some (.max r.hdr m o)
  | 15 => do let m ← r.imod; let o ← r.f4; some (.sad r.hdr m o)
  | 16 => do let o ← r.f3; some (.lea r.hdr (Fin.ofNat 8 r.md) (tb r.md 3) o)
  | 17 => do let m ← r.imod; let o ← r.f3; some (.add64 r.hdr m o)
  | 18 => do let m ← r.imod; let o ← r.f3; some (.sub64 r.hdr m o)
  | 19 => do let o ← r.f2; some (.mov r.hdr (tb r.md 0) o)
  | 20 => do let o ← r.f3; some (.movi r.hdr o)
  | 21 => do let o ← r.f2; some (.movw r.hdr (tb r.md 0) o)
  | 22 => do let o ← r.f4; some (.sel r.hdr (tb r.md 0) o)
  | 23 => do let m ← r.imod; let o ← r.f4; some (.iclamp r.hdr m o)
  | 24 => do let o ← r.f4; some (.dot4 r.hdr (tb r.md 0) (tb r.md 1) (tb r.md 3) o)
  | 25 => do let o ← r.f4; some (.dot2 r.hdr (tb r.md 0) (tb r.md 1) (tb r.md 3) o)
  | _ => none

/-- Class 0x1 (R214 to R218). -/
def cls1 (r : Raw) : Option Instr :=
  match r.op % 64 with
  | 0 => do let o ← r.f3; some (.andB r.hdr (tb r.md 0) o)
  | 1 => do let o ← r.f3; some (.orB r.hdr (tb r.md 0) o)
  | 2 => do let o ← r.f3; some (.xorB r.hdr (tb r.md 0) o)
  | 3 => do let o ← r.f2; some (.notB r.hdr (tb r.md 0) o)
  | 4 => do let o ← r.f3; some (.andn r.hdr (tb r.md 0) o)
  | 5 => do let o ← r.f3; some (.orn r.hdr (tb r.md 0) o)
  | 6 => do let o ← r.f4; some (.bfn3 r.hdr (BitVec.ofNat 8 r.md) o)
  | 7 => do let o ← r.f3; some (.shl r.hdr o)
  | 8 => do let o ← r.f3; some (.shr r.hdr o)
  | 9 => do let o ← r.f3; some (.sar r.hdr o)
  | 10 => do let o ← r.f3; some (.rotl r.hdr o)
  | 11 => do let o ← r.f3; some (.rotr r.hdr o)
  | 12 => do let o ← r.f3; some (.shl64 r.hdr o)
  | 13 => do let o ← r.f3; some (.shr64 r.hdr o)
  | 14 => do let o ← r.f3; some (.sar64 r.hdr o)
  | 15 => do let o ← r.f2; some (.clz r.hdr (tb r.md 0) o)
  | 16 => do let o ← r.f2; some (.ctz r.hdr (tb r.md 0) o)
  | 17 => do let o ← r.f2; some (.popc r.hdr (tb r.md 0) o)
  | 18 => do let o ← r.f2; some (.brev r.hdr (tb r.md 0) o)
  | 19 => do let o ← r.f3; some (.bfx r.hdr (tb r.md 2) o)
  | 20 => do let o ← r.f4; some (.bfi r.hdr o)
  | 21 => do let o ← r.f4; some (.bsel r.hdr (tb r.md 0) o)
  | _ => none

/-- Class 0x2 (R230 to R238). -/
def cls2 (r : Raw) : Option Instr :=
  match r.op % 64 with
  | 0 => do
    let t ← IType.dec (r.md % 8); let c ← conds[r.md / 8 % 8]?; let p ← bops[r.cm]?; let o ← r.f3
    some (.cmp r.hdr t c (Fin.ofNat 8 (r.md / 64)) p o)
  | 1 => do
    let c ← conds[r.md / 8 % 8]?; let p ← bops[r.cm]?; let o ← r.f3
    some (.cmp64 r.hdr (tb r.md 2) c (Fin.ofNat 8 (r.md / 64)) p o)
  | 2 => do
    let c ← fconds[r.md % 16]?; let p ← bops[r.cm]?; let o ← r.f3
    some (.fcmp r.hdr c (Fin.ofNat 8 (r.md / 16)) p o)
  | 3 => do let o ← r.f3; some (.pand r.hdr (tb r.md 0) (tb r.md 1) o)
  | 4 => do let o ← r.f3; some (.por r.hdr (tb r.md 0) (tb r.md 1) o)
  | 5 => do let o ← r.f3; some (.pxor r.hdr (tb r.md 0) (tb r.md 1) o)
  | 6 => do let o ← r.f2; some (.pnot r.hdr o)
  | 7 => do let o ← r.f2; some (.pmov r.hdr o)
  | 8 => do let m ← voteModes[r.md % 8]?; let o ← r.f2; some (.vote r.hdr m (tb r.md 3) o)
  | 9 => do
    let m ← shflModes[r.md % 8]?; let o ← r.f3
    some (.shfl r.hdr m (Fin.ofNat 4 (r.md / 8)) (tb r.md 5) o)
  | 10 => do let o ← r.f3; some (.vtos r.hdr (tb r.md 0) o)
  | 11 => do let o ← r.f3; some (.stov r.hdr (tb r.md 0) o)
  | 12 => do let d ← Opnd.dec r.d; some (.amask r.hdr d)
  | 13 => do
    let p ← redOps[r.md % 8]?; let t ← IType.dec (r.md / 8 % 8); let x ← rnds[r.md / 128 % 4]?; let o ← r.f2
    some (.prefixScan r.hdr p t (tb r.md 6) x o)
  | 14 => do
    let p ← redOps[r.md % 8]?; let t ← IType.dec (r.md / 8 % 8); let x ← rnds[r.md / 128 % 4]?; let o ← r.f2
    some (.reduce r.hdr p t x o)
  | 15 => do let o ← r.f2; some (.matchV r.hdr (tb r.md 0) o)
  | _ => none

/-- Class 0x3 (R219). -/
def cls3 (r : Raw) : Option Instr :=
  match r.op % 64 with
  | 0 => some (.br r.hdr (tb r.md 0) (Fin.ofNat 8 r.a) r.word)
  | 1 => some (.brd r.hdr (tb r.md 0) (Fin.ofNat 8 r.a) (Fin.ofNat 16 (r.md / 16)) r.word)
  | 2 => some (.jmp r.hdr r.word)
  | 3 => do let a ← Opnd.dec r.a; some (.jmpi r.hdr a r.word)
  | 4 => some (.call r.hdr (Fin.ofNat 4 r.md) r.word)
  | 5 => do let a ← Opnd.dec r.a; some (.calli r.hdr (Fin.ofNat 4 r.md) a r.word)
  | 6 => some (.ret r.hdr)
  | 7 => some (.hjoin r.hdr (Fin.ofNat 16 r.md))
  | 8 => some (.exit r.hdr)
  | 9 => some (.loop r.hdr (Fin.ofNat 16 r.a) r.word)
  | 10 => some (.wgrow r.hdr (Fin.ofNat 4 r.md))
  | 11 => some (.wshrink r.hdr (Fin.ofNat 4 r.md))
  | _ => none

/-- Class 0x4 (R239). -/
def cls4 (r : Raw) : Option Instr :=
  match r.op % 64 with
  | 0 => do let m ← r.fmod; let o ← r.f3; some (.fadd r.hdr m o)
  | 1 => do let m ← r.fmod; let o ← r.f3; some (.fsub r.hdr m o)
  | 2 => do let m ← r.fmod; let o ← r.f3; some (.fmul r.hdr m o)
  | 3 => do let m ← r.fmod; let o ← r.f4; some (.ffma r.hdr m o)
  | 4 => do let o ← r.f3; some (.fmin r.hdr o)
  | 5 => do let o ← r.f3; some (.fmax r.hdr o)
  | 6 => do let o ← r.f2; some (.fabs r.hdr o)
  | 7 => do let o ← r.f2; some (.fneg r.hdr o)
  | 8 => do let m ← r.fmod; let o ← r.f3; some (.fdiv r.hdr m o)
  | 9 => do let m ← r.fmod; let o ← r.f2; some (.fsqrt r.hdr m o)
  | 10 => do let m ← r.fmod; let o ← r.f2; some (.frcp r.hdr m o)
  | 11 => do let m ← r.fmod; let o ← r.f2; some (.frsq r.hdr m o)
  | 12 => do let m ← r.fmod; let o ← r.f2; some (.fexp2 r.hdr m o)
  | 13 => do let m ← r.fmod; let o ← r.f2; some (.flog2 r.hdr m o)
  | 14 => do let x ← rnds[r.md % 4]?; let o ← r.f2; some (.frnd r.hdr x o)
  | 15 => do let o ← r.f2; some (.fclass r.hdr o)
  | 16 => do let o ← r.f3; some (.fcopysign r.hdr o)
  | 17 => do let m ← r.fmod; let o ← r.f3; some (.fscale r.hdr m o)
  | _ => none

/-- Class 0x5 (R247 to R249). -/
def cls5 (r : Raw) : Option Instr :=
  match r.op % 64 with
  | 0 => do let m ← r.fmod; let o ← r.f3; some (.f16add r.hdr m o)
  | 1 => do let m ← r.fmod; let o ← r.f3; some (.f16mul r.hdr m o)
  | 2 => do let m ← r.fmod; let o ← r.f4; some (.f16fma r.hdr m o)
  | 3 => do let o ← r.f3; some (.f16min r.hdr o)
  | 4 => do let o ← r.f3; some (.f16max r.hdr o)
  | 5 => do let m ← r.fmod; let o ← r.f3; some (.b16add r.hdr m o)
  | 6 => do let m ← r.fmod; let o ← r.f3; some (.b16mul r.hdr m o)
  | 7 => do let m ← r.fmod; let o ← r.f4; some (.b16fma r.hdr m o)
  | 8 => do let m ← r.fmod; let o ← r.f4; some (.fdot2 r.hdr m o)
  | 9 => do let m ← r.fmod; let o ← r.f4; some (.bdot2 r.hdr m o)
  | 10 => do let c ← fconds[r.md % 16]?; let o ← r.f3; some (.fcmp2 r.hdr c (tb r.md 4) o)
  | 11 => do let m ← r.fmod; let o ← r.f4; some (.qdot4 r.hdr m (tb r.md 3) (tb r.md 4) o)
  | 12 => do let o ← r.f3; some (.b16min r.hdr o)
  | 13 => do let o ← r.f3; some (.b16max r.hdr o)
  | _ => none

/-- Class 0x6 (R250 to R255). -/
def cls6 (r : Raw) : Option Instr :=
  match r.op % 64 with
  | 0 => do
    let m ← r.fmod; let s ← fmts[r.md / 8 % 8]?; let d ← fmts[r.md / 64 % 8]?; let o ← r.f3
    some (.cvt r.hdr m s d o)
  | 1 => do
    let x ← rnds[r.md % 4]?; let t ← IType.dec (r.md / 4 % 8); let d ← fmts[r.md / 32 % 4]?; let o ← r.f2
    some (.i2f r.hdr ⟨x, tb r.md 7⟩ t d o)
  | 2 => do
    let x ← rnds[r.md % 4]?; let t ← IType.dec (r.md / 4 % 8); let s ← fmts[r.md / 32 % 4]?; let o ← r.f2
    some (.f2i r.hdr x t s o)
  | 3 => do
    let m ← r.fmod; let d ← fmts[r.md / 32 % 8]?; let o ← r.f3
    some (.pk r.hdr m (tb r.md 3) d (Fin.ofNat 4 (r.md / 256)) o)
  | 4 => do let s ← fmts[r.md % 8]?; let o ← r.f2; some (.upk r.hdr s (Fin.ofNat 8 (r.md / 8)) (tb r.md 6) o)
  | 5 => do
    let f ← fmts[r.md % 8]?; let d ← Opnd.dec r.d; let a ← Opnd.dec r.a; let sc ← Opnd.dec r.c
    some (.mxq r.hdr f d a sc)
  | 6 => do let x ← rnds[r.md % 4]?; let f ← fmts[r.md / 4 % 8]?; let o ← r.f3; some (.mxd r.hdr x f o)
  | _ => none

/-- Class 0x7 (R256). -/
def cls7 (r : Raw) : Option Instr :=
  match r.op % 64 with
  | 0 => do let m ← r.acc; let d ← Opnd.dec r.d; let a ← Opnd.dec r.a; some (.ld r.hdr m d a r.word)
  | 1 => do let m ← r.acc; let a ← Opnd.dec r.a; let b ← Opnd.dec r.b; some (.st r.hdr m a b r.word)
  | 2 => do let w ← widths[r.md % 4]?; let a ← Opnd.dec r.a; let b ← Opnd.dec r.b; some (.stp r.hdr w a b r.word)
  | 3 => do
    let m ← r.amod; let d ← Opnd.dec r.d; let a ← Opnd.dec r.a; let b ← Opnd.dec r.b
    some (.atm r.hdr m d a b r.word)
  | 4 => do let m ← r.amod; let a ← Opnd.dec r.a; let b ← Opnd.dec r.b; some (.atp r.hdr m a b r.word)
  | 5 => do
    let m ← r.acc; let d ← Opnd.dec r.d; let a ← Opnd.dec r.a; let b ← Opnd.dec r.b
    some (.cas r.hdr m d a b r.word)
  | 6 => do
    let o ← orders[r.md % 8]?; let s ← scopes[r.md / 8 % 8]?
    some (.fence r.hdr o s (tb r.md 6) (tb r.md 7))
  | 7 => some (.drain r.hdr)
  | 8 => if tb r.md 0 then some (.pass r.hdr none r.word) else do let a ← Opnd.dec r.a; some (.pass r.hdr (some a) r.word)
  | 9 => do let t ← IType.dec (r.md % 8); let d ← Opnd.dec r.d; let a ← Opnd.dec r.a; some (.rrd r.hdr t d a r.word)
  | 10 => do let w ← widths[r.md % 4]?; let a ← Opnd.dec r.a; let b ← Opnd.dec r.b; some (.rwr r.hdr w a b r.word)
  | _ => none

/-- Class 0x8 (R256). -/
def cls8 (r : Raw) : Option Instr :=
  match r.op % 64 with
  | 0 => do let m ← r.acc; let d ← Opnd.dec r.d; let a ← Opnd.dec r.a; some (.lds r.hdr m d a r.word)
  | 1 => do let m ← r.acc; let a ← Opnd.dec r.a; let b ← Opnd.dec r.b; some (.sts r.hdr m a b r.word)
  | 2 => do
    let m ← r.amod; let d ← Opnd.dec r.d; let a ← Opnd.dec r.a; let b ← Opnd.dec r.b
    some (.ats r.hdr m d a b r.word)
  | 3 => some (.bar r.hdr (Fin.ofNat 8 r.md) (tb r.md 3))
  | 4 => some (.bara r.hdr (Fin.ofNat 8 r.md) (tb r.md 3))
  | 5 => some (.barw r.hdr (Fin.ofNat 8 r.md))
  | 6 => do let a ← Opnd.dec r.a; some (.sgo r.hdr (Fin.ofNat 8 r.md) (tb r.md 3) a)
  | 7 => do let a ← Opnd.dec r.a; let b ← Opnd.dec r.b; some (.swt r.hdr (Fin.ofNat 8 r.md) a b)
  | _ => none

/-- Class 0x9 (R281, R285, R291). -/
def cls9 (r : Raw) : Option Instr :=
  match r.op % 64 with
  | 0 => do let a ← Opnd.dec r.a; some (.gang r.hdr a r.word)
  | 1 => do
    let t ← fmts[r.md % 8]?; let p ← pats[r.md / 8 % 4]?; let a ← Opnd.dec r.a; let b ← Opnd.dec r.b
    some (.mstat r.hdr t p a b (Fin.ofNat 64 r.c))
  | 2 => some (.mfree r.hdr (Fin.ofNat 64 r.c))
  | 3 => do let m ← r.mmod; let d ← Opnd.dec r.d; let a ← Opnd.dec r.a; let b ← Opnd.dec r.b; some (.mmx r.hdr m d a b)
  | 4 => do
    let m ← r.mmod; let d ← Opnd.dec r.d; let a ← Opnd.dec r.a; let b ← Opnd.dec r.b
    some (.mmxs r.hdr m (tb r.md 5) d a b)
  | 5 => do
    let m ← r.mmod; let d ← Opnd.dec r.d; let a ← Opnd.dec r.a; let b ← Opnd.dec r.b
    some (.mmxd r.hdr m (tb r.md 6) (Fin.ofNat 16 (r.c / 16384)) d a b)
  | 6 => do let d ← Opnd.dec r.d; some (.mzero r.hdr d)
  | 7 => do let d ← Opnd.dec r.d; let a ← Opnd.dec r.a; some (.mdrn r.hdr (tb r.md 1) r.dmod d a)
  | 8 => do
    let f ← fmts[r.md % 8]?; let d ← Opnd.dec r.d; let a ← Opnd.dec r.a; let b ← Opnd.dec r.b
    some (.mdrq r.hdr f r.dmod d a b)
  | 9 => do let d ← Opnd.dec r.d; let a ← Opnd.dec r.a; let b ← Opnd.dec r.b; some (.mdrx r.hdr r.dmod d a b)
  | 10 =>
    if tb r.md 0 then do let a ← Opnd.dec r.a; let b ← Opnd.dec r.b; some (.mslotNint r.hdr a b)
    else do let a ← Opnd.dec r.a; some (.mslotInv r.hdr a)
  | 11 => some (.mwait r.hdr)
  | _ => none

/-- Class 0xA (R281). -/
def clsA (r : Raw) : Option Instr :=
  match r.op % 64 with
  | 0 => do
    let d ← Opnd.dec r.d; let a ← Opnd.dec r.a; let b ← Opnd.dec r.b
    some (if tb r.md 2 then .cpS2g r.hdr (Fin.ofNat 4 r.md) d a b else .cpG2s r.hdr (Fin.ofNat 4 r.md) d a b)
  | 1 => do
    let d ← Opnd.dec r.d; let a ← Opnd.dec r.a; let b ← Opnd.dec r.b; let c ← Opnd.dec r.c
    some (.cpg r.hdr (Fin.ofNat 4 r.md) d a b c)
  | 2 => do let a ← Opnd.dec r.a; let b ← Opnd.dec r.b; some (.cpw r.hdr a b r.word)
  | 3 => do let a ← Opnd.dec r.a; let b ← Opnd.dec r.b; some (.cpy r.hdr a b r.word)
  | 4 => some (.qfence r.hdr (BitVec.ofNat 6 r.md))
  | 5 => some (.qwait r.hdr (BitVec.ofNat 6 r.md))
  | 6 => do let u ← uses[r.md % 8]?; let d ← Opnd.dec r.d; let a ← Opnd.dec r.a; some (.trec r.hdr u d a)
  | 7 => do let a ← Opnd.dec r.a; some (.lnch r.hdr a)
  | _ => none

/-- Class 0xB (R306). -/
def clsB (r : Raw) : Option Instr :=
  match r.op % 64 with
  | 0 => do
    let d ← Opnd.dec r.d; let x ← sregs[r.a - 512]?; let e ← decElem x r.b
    some (.srd r.hdr (tb r.md 0) d x e)
  | 1 => do
    let x ← sregs[r.d - 512]?; let a ← Opnd.dec r.a; let e ← decElem x r.b
    some (.swr r.hdr (tb r.md 0) x a e r.word)
  | 2 => some (.trap r.hdr (BitVec.ofNat 16 r.c))
  | 3 => some (.eret r.hdr)
  | 4 => some (.sqkill r.hdr)
  | 5 => some (.tmkill r.hdr)
  | 6 => some (.relax r.hdr (BitVec.ofNat 12 r.c))
  | 7 => do let a ← Opnd.dec r.a; some (.sleep r.hdr a r.word)
  | 8 => some (.brkpt r.hdr (BitVec.ofNat 16 r.c))
  | 9 => some (.smark r.hdr (BitVec.ofNat 16 r.c))
  | 10 => some (.icinv r.hdr (Fin.ofNat 4 r.md))
  | 11 => do let a ← Opnd.dec r.a; some (.twait r.hdr a r.word)
  | _ => none

/-- The instruction the fields spell, before the checks that encode it again and test `Instr.wf`. -/
def build (r : Raw) : Option Instr :=
  match r.op / 64 with
  | 0 => r.cls0
  | 1 => r.cls1
  | 2 => r.cls2
  | 3 => r.cls3
  | 4 => r.cls4
  | 5 => r.cls5
  | 6 => r.cls6
  | 7 => r.cls7
  | 8 => r.cls8
  | 9 => r.cls9
  | 10 => r.clsA
  | 11 => r.clsB
  | _ => none

end Raw

/-- Assigned positions of each class (R175). -/
def classSizes : List Nat := [26, 22, 16, 12, 18, 14, 7, 11, 8, 12, 8, 12]

/-- Whether the opcode map assigns `op` (R175). -/
def assigned (op : Nat) : Bool := decide (op % 64 < classSizes.getD (op / 64) 0)

/-- The fate of a word (R174): an instruction, or the trap its encoding takes. -/
inductive Fate where
  | ok (i : Instr)
  | illegalOpcode
  | illegalEncoding
  deriving DecidableEq, Repr

/-- The fate of the fields.  Encoding the instruction again finds every reserved bit that is not zero. -/
def Raw.fate (r : Raw) : Fate :=
  if assigned r.op then
    match r.build with
    | some i => if i.wf && decide (i.raw = r) then .ok i else .illegalEncoding
    | none => .illegalEncoding
  else .illegalOpcode

/-- Decoding of any 96-bit word (R174). -/
def decode (w : Nat) : Fate := (unpack w).fate

/-- A word's number from its bytes, lowest address first (R164). -/
def leNat : List Byte → Nat
  | [] => 0
  | b :: bs => b.toNat + 256 * leNat bs

/-- The low `n` bytes of a number, lowest first (R110). -/
def leBytes : Nat → Nat → List Byte
  | 0, _ => []
  | n + 1, x => BitVec.ofNat 8 x :: leBytes n (x / 256)

/-- Decoding of bytes as memory holds them; fewer than twelve bytes are no word. -/
def decodeBytes (bs : List Byte) : Fate :=
  if bs.length < 12 then .illegalOpcode else decode (leNat (bs.take 12))

/-- What the decoder reads from an instruction whose bits, numbered as the opcode table numbers them, are `w`; the bits
at or above `nbits` are zero. -/
def decodeTableWord (nbits w : Nat) : Option Instr :=
  match decodeBytes (leBytes 12 (w % 2 ^ nbits)) with
  | .ok i => some i
  | _ => none

end Sys2Proof
end

