-- ==== Sys2Proof/Machine/State.lean ====
section
/-! DEFINITION. The state of the BX7 as plain data: parts, teams, memory, unit registers, translation, fabric, engines,
launches, management, remote memory and debug state, and the state after reset. -/

namespace Sys2Proof.Machine

/-- Trap causes (R339). -/
inductive Cause where
  | none | illegalOpcode | illegalEncoding | deadRead | branchNonuniform | protection | misaligned | scratchBounds
  | stationaryAccess | copyRights | scrumMismatch | spillAreaFull | storeFaultDeferred | remoteFault | remoteTimeout
  | poison | breakpoint | tickMatch | software
  deriving DecidableEq, Repr

/-- The wake condition of a blocking point (R163). -/
inductive Wake where
  /-- `bar` and `barw` (`bw`): the phase number that must be complete. -/
  | phase (bar n : Nat) (bw : Bool)
  /-- `swt`: ring, stage and the phase value waited for. -/
  | stage (ring stage : Nat) (f : Bool)
  /-- `cpw`: bitmap word and mask. -/
  | chunks (off : Nat) (mask : Word)
  /-- `cpy`: bitmap word, mask, continuation PC, and the hold slot when the base stack answered HOLD (R301). -/
  | held (off : Nat) (mask : Word) (cont : Word) (slot : Option Nat)
  /-- `mwait` and `qwait`: the queue entries (by id) that must complete; `mw` for `mwait`, which copies MSTAT. -/
  | cmds (ids : List Nat) (mw : Bool)
  /-- `sleep`, `twait`: the tick. -/
  | tick (t : DWord)
  /-- `rrd`: replies, with its destination and type. -/
  | remote (d : Opnd) (t : IType)
  deriving DecidableEq, Repr

/-- States of a part (R143).  An ended part is not listed. -/
inductive PState where
  | ready
  | switched
  /-- `rep`: the base stack has found the condition to hold since the part blocked (R159, R300). -/
  | blocked (w : Wake) (rep : Bool)
  /-- Host of huddle `h` opened at `level`; the final ARRIVED mask once the barrier unit has sent it (R152). -/
  | joining (h level : Nat) (fin : Option Mask)
  /-- A growth request (R156): depth and window asked for, groups to be fetched, and whether it is that of an arrival. -/
  | growing (depth w fetching : Nat) (arrived : Bool)
  | parked
  | latched
  /-- In R51: 0 decided, 1 flushed, 2 frame in a departure buffer entry. -/
  | departing (phase : Nat)
  | travelling
  | queued
  | saved
  deriving DecidableEq, Repr

/-- Why a part departs: where it goes and how it is received (R49). -/
inductive Dest where
  | none
  /-- A home, by unit. -/
  | unit (u : Nat)
  /-- The huddle host (R152): unit, core and part. -/
  | host (u core pid : Nat)
  /-- Eviction to the unit's own arrival queue (R157). -/
  | evict (u : Nat)
  /-- The `cpy` hold area of the base stack (R301): slot, bitmap word, mask and continuation PC. -/
  | hold (u slot off : Nat) (mask cont : Word)
  deriving DecidableEq, Repr

/-- What the completion of a long instruction waits for, beside its own result (R145, R260, R319). -/
inductive PCond where
  | free
  /-- `fence.acq`: every earlier read has returned. -/
  | reads
  /-- `fence` with a release part: the release condition. -/
  | release
  /-- `icinv`: the release condition, then the invalidation of a reach. -/
  | icinv (reach : Nat)
  /-- `bara` and `sgo`: the release condition, then the message to the barrier unit. -/
  | arrive (bar : Nat)
  | go (ring stage : Nat)
  /-- `gang`: nothing; a read of GANG meanwhile may return the old value (R146). -/
  | gang (old : Word)
  deriving DecidableEq, Repr

/-- A pending long result (R145, R146): what lands, per lane or on a uniform register. -/
structure Pend where
  id : Nat
  /-- Absolute register number and lane of each value, for a vector destination (R155). -/
  vals : List (Nat × Nat × Word)
  /-- Uniform-register values. -/
  svals : List (Nat × Word)
  /-- FPSTAT flags ORed in when the result lands (R199). -/
  flags : BitVec 16
  /-- (absolute register, lane) pairs a later short instruction has written (R146). -/
  clob : List (Nat × Nat)
  /-- Later instructions of classes 0x7 to 0xA are held until it lands (R260). -/
  hold : Bool
  cond : PCond
  deriving DecidableEq, Repr

/-- A pending result without destinations: it lands once message `k` has been taken. -/
def Pend.wait (k : Nat) : Pend := ⟨k, [], [], 0, [], false, .free⟩

/-- A memory instruction in progress: addresses latched at first issue, lanes that have failed so far, denied lanes
(R48, R258, R259, R340). -/
structure MemOp where
  on : Bool
  addrs : List (Nat × DWord)
  fails : List (Nat × Cause × DWord)
  denied : List (Nat × DWord)
  sent : Bool
  deriving DecidableEq, Repr

def MemOp.idle : MemOp := ⟨false, [], [], [], false⟩

/-- A sample record under construction (R400, R401): tick, PC, opcode and `act` at first issue, lanes' 32-byte sectors,
homes of performed lanes, replays after parks, the highest lane completed last, FLAGS. -/
structure Samp where
  tick : DWord
  pc : Word
  op : Nat
  act : Mask
  sect : List Nat
  homes : List Nat
  replays : Nat
  last : Nat
  flags : BitVec 16
  /-- Lanes that name one location combine (R65). -/
  comb : Bool
  /-- Remote writes of the instruction so far (R400). -/
  reqs : List Nat
  deriving DecidableEq, Repr

/-- Debug stop of a part (R405, R406). -/
inductive Stop where
  | run
  | breakpoint
  | tickMatch
  /-- The comparator that stopped the part. -/
  | hwBreak (n : Nat)
  | step
  deriving DecidableEq, Repr

/-- A trap whose entry waits for pending results or for registers (R341): cause, TPC, lanes, addresses and the PC of its
record. -/
structure TrapWait where
  cause : Cause
  tpc : Word
  tlm : Mask
  tva : List (Nat × DWord)
  at' : Word
  deriving DecidableEq, Repr

/-- A squad part: the context-frame header fields (R54), its registers, its control state, and where it is (R142). -/
structure Part where
  live : Bool
  launch : Word
  tx : BitVec 16
  ty : BitVec 16
  tz : BitVec 16
  sq : Nat
  prt : Nat
  world : Bool
  lat : Bool
  prio : Nat
  /-- Team-table entry: base unit × 256 + entry (R334). -/
  team : Nat
  st : PState
  unit : Nat
  core : Nat
  slot : Nat
  dest : Dest
  /-- The frame travels on class 0 (R69, R74). -/
  cls0 : Bool
  pc : Word
  amask : Mask
  umask : Mask
  w : Nat
  h : Bool
  depth : Nat
  split : Word
  preds : Store Mask
  sregs : Store Word
  /-- Vector registers by absolute number × 16 + lane (R155). -/
  vregs : Store Word
  /-- Dead marks of v0 to v31 (R56). -/
  dead : BitVec 32
  /-- Lowest register group held in the core's register file; lower groups are in the spill area (R155). -/
  resLo : Nat
  fpstat : BitVec 16
  fpctl : BitVec 8
  gang : Word
  tcause : Nat
  tpc : Word
  tlm : Mask
  tva : Store DWord
  mstat : Store Word
  /-- Spill area: SPA[55:16] and size in 64 KiB units (R24, R54). -/
  spill : Nat
  spillu : Nat
  /-- Posted fault notices not yet taken as traps (R346). -/
  defer : Nat
  pend : List Pend
  mi : MemOp
  /-- Lanes the next instruction is restricted to after `eret` (R312). -/
  restrict : Option Mask
  /-- FLUSH has been sent for the release wait in progress (R68). -/
  flushed : Bool
  /-- Ticks (model cycles) before which the part is not eligible: `relax`, yield hint, START (R147, R315, R333). -/
  relaxTo : Nat
  yieldTo : Nat
  start : DWord
  /-- START of the bind record until the squad issues its first instruction (R403). -/
  opens : Option Word
  lastIssue : Nat
  /-- The cycle from which the part may issue again, four after its last issue (R144). -/
  issueAt : Nat
  /-- Instructions issued; the model's index for free values. -/
  issues : Nat
  /-- Core copy of the RESTARTABLE bit (R354). -/
  restartable : Bool
  /-- Live-set index applied at departure (R54), and the registers the frame carries if in the window and not dead
  (R51). -/
  lsi : Nat
  carry : BitVec 32
  /-- Commands of the matrix and drain queues this part issued and has not seen completed (R295). -/
  cmds : List Nat
  stop : Stop
  /-- The comparator whose stop at this PC has been continued, until the part has issued there (R406). -/
  bpPass : Option (Nat × Word)
  /-- A tick-match hit waits for the next boundary with H = 0 (R341, R407): the tick. -/
  tmHit : Option DWord
  /-- A step lets the part issue until its count of instructions passes this (R362). -/
  step : Option Nat
  /-- Killed: ends at its next boundary (R313). -/
  dying : Bool
  /-- Sampled record under construction (R400). -/
  sample : Option Samp
  /-- The wait a resumed part is still in, taken up when it is placed (R360). -/
  after : Option (Wake × Bool)
  /-- A record of the squad has been assigned to the part at its wait, and has not woken it yet: its team is frozen, or its frame
  is held (R350, R357). -/
  recWake : Bool
  /-- The tick before which `drain` and releases wait for copies of resent remote requests (R377). -/
  rmHold : Nat
  /-- Number of the frame in the fabric (R71), and of the growth request made, by order of making (R157). -/
  seq : Nat
  ask : Nat
  /-- Parking slot of a parked frame (R13), and whether the frame waits there or in the queue for its entry in the log its unit
  follows (R415). -/
  pslot : Nat
  unlogged : Bool
  /-- Register groups below `resLo` that a frame fetch will fill: their storage is held (R156). -/
  fetching : Nat
  /-- Register groups at the top of the window that the `ret` or `eret` in progress discards: groups it fetches take their
  storage (R158, R227). -/
  shed : Nat
  /-- A trap whose entry waits (R341). -/
  trapq : Option TrapWait
  deriving DecidableEq, Repr

/-- The absent part: what an unlisted part number reads as. -/
def Part.absent : Part where
  live := false
  launch := 0
  tx := 0
  ty := 0
  tz := 0
  sq := 0
  prt := 0
  world := false
  lat := false
  prio := 0
  team := 0
  st := .ready
  unit := 0
  core := 0
  slot := 0
  dest := .none
  cls0 := false
  pc := 0
  amask := 0
  umask := 0
  w := 8
  h := false
  depth := 0
  split := 0
  preds := []
  sregs := []
  vregs := []
  dead := 0
  resLo := 0
  fpstat := 0
  fpctl := 0
  gang := 0
  tcause := 0
  tpc := 0
  tlm := 0
  tva := []
  mstat := []
  spill := 0
  spillu := 1
  defer := 0
  pend := []
  mi := MemOp.idle
  restrict := Option.none
  flushed := false
  relaxTo := 0
  yieldTo := 0
  start := 0
  opens := Option.none
  lastIssue := 0
  issueAt := 0
  issues := 0
  restartable := false
  lsi := 0
  carry := 0
  cmds := []
  stop := .run
  bpPass := Option.none
  tmHit := Option.none
  step := Option.none
  dying := false
  sample := Option.none
  after := Option.none
  recWake := false
  rmHold := 0
  seq := 0
  ask := 0
  pslot := 0
  unlogged := false
  fetching := 0
  shed := 0
  trapq := Option.none

/-- A huddle entry (R151). -/
structure Huddle where
  expect : Mask
  arrived : Mask
  level : Nat
  host : Nat
  hostv : Bool
  isOpen : Bool
  /-- The JOINING part (model's own). -/
  hpid : Nat
  deriving DecidableEq, Repr

def Huddle.closed : Huddle := ⟨0, 0, 0, 0, false, false, 0⟩

/-- A team barrier (R162): phases completed, lanes recorded for the next and the following phase by squad, and the
phase number of each squad's latest arrival (0 for none). -/
structure Bar where
  done : Nat
  arr0 : Store Mask
  arr1 : Store Mask
  last : Store Nat
  deriving DecidableEq, Repr

def Bar.fresh : Bar := ⟨0, [], [], []⟩

/-- A stationary region (R78, R97). -/
structure Region where
  used : Bool
  filling : Bool
  mac : Nat
  count : Nat
  ty : Fmt
  pat : Pat
  kx : Nat
  nx : Nat
  version : Nat
  key : Nat
  recd : List Byte
  deriving DecidableEq, Repr

def Region.unused : Region := ⟨false, false, 0, 0, .e4m3, .dense, 0, 0, 0, 0, []⟩

/-- The matrix product forms (R285). -/
inductive ProdKind where | dense | sparse (s14 : Bool) | delta (full : Bool) (slot : Nat) (tag : Nat)
  deriving DecidableEq, Repr

/-- An engine command, its operand values read when it was issued (R275, R276). -/
inductive Cmd where
  | fill (ty : Fmt) (pat : Pat) (mac region : Nat)
  | free (region : Nat)
  /-- A product: rows and gather indices (none for a lane outside `act`), `.auto` count when given. -/
  | prod (k : ProdKind) (shape : Shape) (amode : AMode) (count : Option Nat) (region colt tile row0 : Nat)
      (idx : List (Option Nat))
  | zero (tile : Nat)
  | slotInv (slot : Nat)
  | slotNint (slot val : Nat)
  | drainN (bf : Bool) (m : DMod) (tile dst : Nat)
  | drainQ (fmt : Fmt) (m : DMod) (tile dst sdst : Nat)
  | drainX (m : DMod) (tile dst : Nat) (idx : List (Option Nat))
  | copy (out : Bool) (soff bmp : Nat)
  | gather (soff bmp list : Nat)
  | join (qset : BitVec 6)
  deriving DecidableEq, Repr

/-- A page that a command has translated (R41): log₂ of its size, its number, its SPA, key slot and N. -/
structure Page where
  size : Nat
  va : Nat
  spa : Nat
  slot : Nat
  n : Bool
  deriving DecidableEq, Repr

/-- A queue entry of a team (R275, R277).  `q` is 0 to 3 for a copy queue, 4 for `mq`, 5 for `dq`; a join entry stands
in every queue of its set. -/
structure Entry where
  id : Nat
  q : Nat
  cmd : Cmd
  sq : Nat
  /-- Every squad whose command this is (a scrum lists several, R161). -/
  squads : List Nat
  pc : Word
  /-- Offset of the tensor record, and the copy read when the command was appended (R126). -/
  recOff : Option Nat
  recd : List Byte
  begun : Bool
  /-- How far the engine has come: blocks of a fill, or bytes of a copy's lowest chunk; and whether that chunk is damaged
  (R84, R277, R299). -/
  pos : Nat
  hurt : Bool
  /-- Every write has been performed, or the command was refused or ended. -/
  done : Bool
  pages : List Page
  /-- Chunks still to be performed, and the row indices of a gather (R298, R299). -/
  chunks : List Nat
  rows : List Nat
  /-- Failures already recorded: a stationary conflict, and the pages of poisoned reads (R277). -/
  statRec : Bool
  poisRec : List Nat
  /-- A record of XFQ is awaited (R48). -/
  parked : Bool
  /-- Word 0 of the status word, written at completion (R102). -/
  reuse : Option Word
  deriving DecidableEq, Repr

/-- A rendezvous-latch entry (R161): its key, what arrivals must match, the command, and the squads arrived: squad, part,
`act`, indices. -/
structure Latch where
  gang : Word
  count : Nat
  word : Nat
  ops : List Word
  ent : Entry
  arrived : List (Nat × Nat × Mask × List (Option Nat))
  failed : Bool
  deriving DecidableEq, Repr

/-- A posted fault record (R344) in a collector slot, with its order of entry and whether it is assigned to a part
(R350). -/
structure FRec where
  slot : Nat
  order : Nat
  tick : DWord
  va : DWord
  pc : Word
  lanes : Mask
  sq : Nat
  cause : Nat
  kind : Nat
  assigned : Bool
  deriving DecidableEq, Repr

/-- A role record (R321): kind, squad count, window, entry PC. -/
structure Role where
  kind : Nat
  squads : Nat
  win : Nat
  entry : Word
  deriving DecidableEq, Repr

/-- A team: its team-table entry (R334) and the state its base stack keeps for it. -/
structure Team where
  v : Bool
  launch : Word
  tx : BitVec 16
  ty : BitVec 16
  tz : BitVec 16
  sqn : Nat
  restartable : Bool
  restarts : Nat
  mbase : Nat
  mcount : Nat
  acct : Nat
  rings : Nat
  spillu : Nat
  spillbase : Nat
  bindtick : DWord
  tilemap : BitVec 160
  prt : Nat
  /-- Data macros of the allocation; the stationary macros follow (R20). -/
  dmac : Nat
  /-- Squads ended or killed (R139). -/
  ended : List Nat
  exited : Store Mask
  huddles : Store Huddle
  bars : Store Bar
  /-- Phase bits of the stages: ring × 8 + stage (R159). -/
  stages : BitVec 64
  scrum : Store Nat
  latch : List Latch
  /-- Commands that have arrived and wait for room, in arrival order (R276): their messages. -/
  inbox : List Nat
  ents : List Entry
  regions : Store Region
  mstat : Store Word
  recs : List FRec
  recOrder : Nat
  drops : Store Nat
  dropTotal : Nat
  /-- Frozen for pre-emption, and the deadline (R357). -/
  frozen : Bool
  deadline : Nat
  /-- The team ends by a kill: commands not begun are gone (R314). -/
  killed : Bool
  /-- A restart is in progress (R355). -/
  restarting : Bool
  deriving DecidableEq, Repr

def Team.absent : Team where
  v := false
  launch := 0
  tx := 0
  ty := 0
  tz := 0
  sqn := 0
  restartable := false
  restarts := 0
  mbase := 0
  mcount := 0
  acct := 0
  rings := 0
  spillu := 0
  spillbase := 0
  bindtick := 0
  tilemap := 0
  prt := 0
  dmac := 0
  ended := []
  exited := []
  huddles := []
  bars := []
  stages := 0
  scrum := []
  latch := []
  inbox := []
  ents := []
  regions := []
  mstat := []
  recs := []
  recOrder := 0
  drops := []
  dropTotal := 0
  frozen := false
  deadline := 0
  killed := false
  restarting := false

/-- A TLB entry (R39), with the SPA of its leaf for the D update (R36). -/
structure Tlb where
  prt : Nat
  world : Bool
  /-- Page size: log₂, 16, 28 or 40. -/
  size : Nat
  va : Nat
  spa : Nat
  w : Bool
  x : Bool
  p : Bool
  s : Bool
  k : Nat
  n : Bool
  d : Bool
  pte : Nat
  deriving DecidableEq, Repr

/-- A non-leaf entry kept by the walker: partition, level of the next table, VA prefix, table SPA (R39). -/
structure NonLeaf where
  prt : Nat
  lvl : Nat
  prefx : Nat
  tbl : Nat
  deriving DecidableEq, Repr

/-- Kinds of access for faults (R47). -/
inductive AKind where | load | store | atomic | posted | fetch | eread | ewrite | fill | pass
  deriving DecidableEq, Repr

/-- Progress of a lookup beyond the L1 TLB (R40, R35). -/
inductive WalkSt where
  | probe
  /-- Reading level `lvl` of the table at SPA `tbl`. -/
  | walk (lvl tbl : Nat)
  /-- Compare-and-swap of A or D at `pte`: old and new value; then `e` is installed. -/
  | update (pte : Nat) (old new : DWord) (e : Tlb)
  /-- Ended in FAULT(reason, level). -/
  | failed (reason lvl : Nat)
  /-- Ended in UNRESOLVABLE. -/
  | unres
  /-- Merged with the walk of lookup `k` for the same partition and page (R39). -/
  | joined (k : Nat)
  deriving DecidableEq, Repr

/-- Who asked for a lookup: a part, or a queue entry of a team (walk-ahead). -/
inductive Asker where
  | part (pid : Nat)
  | entry (tk id : Nat)
  deriving DecidableEq, Repr

/-- A lookup in flight. -/
structure Xlat where
  unit : Nat
  core : Nat
  prt : Nat
  world : Bool
  va : Nat
  kind : AKind
  who : Asker
  lanes : Mask
  /-- Set D as well, on the page at this SPA (R36). -/
  setD : Option Nat
  st : WalkSt
  /-- Number of the table read or update on its way (R71). -/
  rd : Nat
  deriving DecidableEq, Repr

/-- A fault that waits to be written to XFQ (R46, R47): the fields of its record, taken at the fault. -/
structure XFault where
  prt : Nat
  launch : Word
  sq : Nat
  va : Nat
  reason : Nat
  level : Nat
  kind : AKind
  who : Asker
  lanes : Mask
  core : Nat
  tick : DWord
  deriving DecidableEq, Repr

/-- A slot of XFQ (R47): in use, its sequence number and uses so far, whom it parks. -/
structure XSlot where
  busy : Bool
  uses : Nat
  who : Asker
  lanes : Mask
  va : Nat
  /-- The record is of an instruction fetch. -/
  fetch : Bool
  deriving DecidableEq, Repr

def XSlot.empty : XSlot := ⟨false, 0, .part 0, 0, 0, false⟩

/-- The translation fault queue of a unit (R47). -/
structure Xfq where
  head : Nat
  tail : Nat
  err : Bool
  outst : Nat
  slots : Store XSlot
  wait : List XFault
  deriving DecidableEq, Repr

def Xfq.fresh : Xfq := ⟨0, 0, false, 0, [], []⟩

/-- A shootdown in progress (R44): partition, whether ALL, page and size, walks and posted requests waited for. -/
structure Shoot where
  busy : Bool
  prt : Nat
  all : Bool
  va : Nat
  size : Nat
  waits : List Nat
  posts : List Nat
  lost : Bool
  done : Nat
  deriving DecidableEq, Repr

def Shoot.idle : Shoot := ⟨false, 0, false, 0, 0, [], [], false, 0⟩

/-- Translation state (R39 to R48). -/
structure Trans where
  /-- L1 TLBs by unit × 8 + core, most recently used first. -/
  l1 : Store (List Tlb)
  utlb : Store (List Tlb)
  wtlb : Store (List Tlb)
  nl : Store (List NonLeaf)
  xlats : Store (Option Xlat)
  xfq : Store Xfq
  shoot : Store Shoot
  deriving DecidableEq, Repr

/-- One element of a posted request (R65): the VA of its lowest lane, place, width in bytes, what it does, its lanes with
their operands in ascending order, and the key slot of its page. -/
structure PElem where
  va : DWord
  spa : Nat
  w : Nat
  /-- none: a store; some: the atomic operation. -/
  aop : Option AMod
  vals : List (Nat × DWord)
  slot : Nat
  deriving DecidableEq, Repr

/-- What a posted request carries. -/
inductive PKind where | stp | atp | rwr | spill | record
  deriving DecidableEq, Repr

inductive PPhase where | flight | performed | acking
  deriving DecidableEq, Repr

/-- A posted request of a part to a home (R65 to R68). -/
structure PReq where
  pid : Nat
  /-- The parts that count it as theirs: the part that issued it, and those that have split from it since (R66, R68, R149). -/
  owners : List Nat
  prt : Nat
  team : Nat
  sq : Nat
  unit : Nat
  core : Nat
  home : Nat
  kind : PKind
  pc : Word
  elems : List PElem
  phase : PPhase
  /-- Cycle at which it was performed (R67). -/
  doneAt : Nat
  /-- The acknowledgement comes from the fault collector as a notice (R346). -/
  viaRec : Bool
  /-- Number of the acknowledgement in the fabric (R71). -/
  ack : Nat
  deriving DecidableEq, Repr

/-- Messages in the fabric (classes 2, 4 and 5). -/
inductive Msg where
  | flushMsg (pid unit core home : Nat)
  | join (pid h : Nat)
  /-- Reply to a JOIN: 0 CLOSED, 1 refused, 2 COMPLETE without a host, 3 HOST, 4 GO or COMPLETE with a host part. -/
  | joinReply (pid h kind level host : Nat)
  | finalMask (pid : Nat) (m : Mask) (level : Nat)
  | exitMask (team sq : Nat) (m : Mask)
  | arrive (pid team sq id : Nat) (m : Mask) (wait : Bool)
  | sgo (pid team ring stage : Nat)
  | swt (pid team ring stage : Nat) (f : Bool)
  | kill (team sq unit : Nat)
  /-- A scrum arrival: part, scrum count, instruction word, uniform operands, `act`, indices, command (R161). -/
  | latchAt (pid count word : Nat) (ops : List Word) (act : Mask) (idx : List (Option Nat)) (e : Entry)
  | command (pid team : Nat) (e : Entry)
  /-- A posted fault record on its way to a collector: the request it answers, if any. -/
  | frec (team : Nat) (r : FRec) (preq : Option Nat) (pid : Option Nat)
  | notice (pid preq : Nat)
  | deferral (pid : Nat)
  | clearRst (pid team : Nat)
  /-- The clearing of the team's status word that an `swr` of MSTAT[1] sends (R296). -/
  | clearMst (pid team : Nat)
  /-- Groups `lo` to `hi − 1`, and the control record for the lanes of `ctl` (R59). -/
  | frameFetch (pid lo hi : Nat) (ctl : Mask)
  | fetchData (pid lo hi : Nat) (ctl : Mask) (vals : List (Nat × Word)) (rec' : List Byte)
  deriving DecidableEq, Repr

/-- The route of a message, request, acknowledgement or frame: sending and receiving unit, partition and class (R69,
R71); class 9 marks what has arrived and waits at its receiver. -/
structure Via where
  src : Nat
  dst : Nat
  prt : Nat
  cls : Nat
  deriving DecidableEq, Repr

/-- Fabric, arrival queues and posted path. -/
structure Fabric where
  posted : Store (Option PReq)
  msgs : Store (Option Msg)
  /-- What is on its way, by number in the order of sending, with its route (R71). -/
  vias : Store (Option Via)
  /-- Arrival queue and parking area of each unit: parts, oldest first (R61). -/
  queue : Store (List Nat)
  park : Store (List Nat)
  /-- Stops: ((unit × 2048 + receiver) × 8 + partition) × 8 + class (R72). -/
  stops : Store Bool
  /-- Limiter levels, and the periods of 1024 cycles for which each has gained: (unit × 8 + core) × 8 + partition (R74). -/
  level : Store Nat
  gained : Store Nat
  /-- `cpy` hold slots in use: unit × 8192 + slot, holding part + 1 (R301). -/
  hold : Store Nat
  deriving DecidableEq, Repr

/-- A launch (R324 to R331). -/
inductive LState where | queued | admitted | refused | completed
  deriving DecidableEq, Repr

structure Launch where
  ex : Bool
  prt : Nat
  q : Nat
  id : Word
  packet : List Byte
  header : List Byte
  roles : List Role
  st : LState
  met : List Bool
  /-- Order of taking, and the queue's HEAD then (R323, R326). -/
  seq : Nat
  pos : Nat
  /-- The next TEAMID to be placed, and the teams that have ended. -/
  next : Nat
  ended : Nat
  checked : Bool
  deriving DecidableEq, Repr

def Launch.absent : Launch :=
  ⟨false, 0, 0, 0, [], [], [], .queued, [false, false, false, false], 0, 0, 0, 0, false⟩

/-- A posted bind record not yet dispatched: unit and slot (R334, R336). -/
structure Bind where
  unit : Nat
  slot : Nat
  deriving DecidableEq, Repr

/-- A partition (R382, R384): what its descriptor gives and what management keeps for it. -/
structure Partition where
  ex : Bool
  secure : Bool
  desc : List Byte
  /-- Home permission map: 40 bits for each package (R18). -/
  homes : Store (BitVec 40)
  /-- Hub cores assigned, by package: hub 0 in bits 0 to 3, hub 1 in bits 4 to 7. -/
  hubCores : Store (BitVec 8)
  /-- The control window (R366). -/
  cwbase : DWord
  cwsize : Nat
  nextId : Word
  /-- Freeze limit in ticks, and whether it kills (R357, R382). -/
  plimit : Nat
  pkill : Bool
  /-- Profile ring: VA and CAP (R402). -/
  ring : Option (DWord × Nat)
  /-- Replay mode in effect, the mode set (0 OFF, 1 BULK, 2 CAPTURE), T in ms, and the T set (R412). -/
  replay : Nat
  replayNext : Nat
  replayT : Nat
  replayTNext : Nat
  /-- Number of the transport key pair drawn last; 0 for none (R397). -/
  transport : Nat
  /-- Being torn down: SEQ of the request (R384, R428). -/
  closing : Option Nat
  deriving DecidableEq, Repr

def Partition.absent : Partition :=
  ⟨false, false, [], [], [], 0, 0, 1, 0, false, Option.none, 0, 0, 0, 0, 0, Option.none⟩

/-- A peer table entry (R26). -/
structure Peer where
  v : Bool
  addr : BitVec 128
  uport : BitVec 16
  key : Word
  deriving DecidableEq, Repr

def Peer.absent : Peer := ⟨false, 0, 0, 0⟩

/-- A window descriptor of a partition (R27): base VA, length in 64 KiB units, permits and key. -/
structure Win where
  v : Bool
  base : DWord
  len : Nat
  rd : Bool
  wr : Bool
  key : Word
  deriving DecidableEq, Repr

def Win.absent : Win := ⟨false, 0, 0, false, false, 0⟩

/-- A remote request outstanding at a hub (R373), with the peer entry as it stood when the request was formed (R379). -/
structure Remote where
  pid : Nat
  team : Nat
  sq : Nat
  pc : Word
  prt : Nat
  hub : Nat
  slot : Nat
  gen : Nat
  /-- A write; for a read, its destination. -/
  wr : Bool
  dst : Opnd
  t : IType
  peer : Nat
  win : Nat
  ent : Peer
  lat : Bool
  age : Nat
  /-- Lanes: lane, window offset, data. -/
  lanes : List (Nat × DWord × DWord)
  sends : Nat
  /-- Tick of the first transmission, or of forming before it. -/
  first : DWord
  lastSend : DWord
  rto : Nat
  preq : Nat
  deriving DecidableEq, Repr

/-- A rate entry (R378): rate in bit/s, the tick at which it may send again, the tick from which a cut is possible, and
the tick since which no ECE came, with whether a reply came since. -/
structure Rate where
  hub : Nat
  prt : Nat
  addr : BitVec 128
  lat : Bool
  rate : Nat
  readyAt : Nat
  cutAt : Nat
  quietAt : Nat
  heard : Bool
  deriving DecidableEq, Repr

/-- MBSTAT of a mailbox, and the messages that wait to be posted (R364).  The message buffers are registers of the
function's BAR0 (log 23). -/
structure Mbox where
  busy : Bool
  full : Bool
  lost : Bool
  werr : Bool
  out : List (List Byte)
  deriving DecidableEq, Repr

def Mbox.empty : Mbox := ⟨false, false, false, false, []⟩

/-- A saved image of a team (R358). -/
structure Image where
  team : Team
  tk : Nat
  /-- The virtual number its stack had (R361), and the team-table entry it has been laid back in, whose regions are being refilled
  (R360). -/
  vnum : Nat
  laid : Option Nat
  /-- Parts by number: BLOCKED and QUEUED ones SAVED, with the wake condition in `after`; hosts JOINING (R358). -/
  parts : List (Nat × Part)
  macros : List (Nat × Byte)
  tiles : List (Nat × Byte)
  /-- Bytes of the run of spill areas, by offset. -/
  spill : List (Nat × Byte)
  deriving DecidableEq, Repr

/-- Sources of the interrupts a unit raises to the management core. -/
inductive Irq where
  /-- PKSTAT.HIWAT (R62). -/
  | parking
  /-- A change of LOCK (R380). -/
  | servo
  /-- A sensor limit (R422). -/
  | thermal
  deriving DecidableEq, Repr

/-- The management cores' state: launches, partitions, mailboxes, boot, keys, images (R320 to R338, R357 to R367, R382 to
R397, R420 to R428). -/
structure Mgmt where
  launches : Store Launch
  binds : List Bind
  /-- Bind records still to be written to a free slot: unit and the record's two words. -/
  recs : List (Nat × DWord × DWord)
  parts : Store Partition
  /-- Management interrupts raised: unit and source (R62, R379, R404, R420). -/
  irqs : List (Nat × Irq)
  /-- Mailboxes: 0 for PF0, p + 1 for the VF of partition p. -/
  mbox : Store Mbox
  /-- MSI-X messages sent: function and vector (R363, R364). -/
  msix : List (Nat × Nat)
  /-- The PF0 request that has been begun and not answered: opcode, SEQ and arguments (R428). -/
  serving : Option (Nat × Nat × List Nat)
  /-- A step has released a stopped package (R409). -/
  restop : Bool
  images : Store (Option Image)
  /-- Packages present in the domain, whether its routes stand, the links whose routes do not stand, and all that have gone down, by
`linkKey` (R9, R368 to R370, R429). -/
  pkgs : List Nat
  formed : Bool
  /-- Teams frozen until the domain has been formed again (R369). -/
  relink : List Nat
  down : Store Bool
  dead : Store Bool
  /-- Boot stage and failure code (R420), and the cycle at which step 7 ended; the PCI Express link is trained. -/
  boot : Nat
  bootCode : Nat
  bootAt : Nat
  linkUp : Bool
  /-- Stacks and granules of each package that failed, as in R18 (R421). -/
  failed : Store Nat
  /-- FWMEAS, the seed of the alias key and SVN of the running image (R395, R396). -/
  fwMeas : List Byte
  aliasSeed : List Byte
  fwSvn : Nat
  errLost : Nat
  tripped : Store Bool
  /-- Intervals of 4096 cycles for which each unit's power controller has made its update (R422). -/
  powered : Store Nat
  /-- Faults forwarded to the host: partition, unit, PARK and deadline (R365). -/
  service : List (Nat × Nat × Nat × Nat)
  /-- Start tick of the latest team placed on each stack (R333). -/
  starts : Store DWord
  /-- Corrected errors the DRAM scrub has counted, by unit (R421). -/
  scrubbed : Store Nat
  deriving DecidableEq, Repr

/-- Remote memory and time (R371 to R381). -/
structure Net where
  remotes : Store (Option Remote)
  /-- Generation of each request slot: package × 4096 + slot. -/
  gens : Store Nat
  /-- Rate entries, most recently used first, and the tick at which each Ethernet port and traffic class may send again: (package × 8 +
  port) × 2 + class (R378). -/
  rates : List Rate
  portAt : Store Nat
  /-- Inbound fault records in each hub's queue. -/
  rifCount : Store Nat
  /-- Datagrams sent. -/
  wire : List Dgram
  /-- Consecutive sync intervals within 16 ticks, and the slew in ppm (R380). -/
  syncRun : Nat
  slew : Int
  deriving DecidableEq, Repr

/-- A sample record whose posted requests are not all acknowledged (R400): part, unit and the requests. -/
structure SampWait where
  unit : Nat
  body : List Byte
  preqs : List Nat
  deriving DecidableEq, Repr

/-- An order-log entry (R414). -/
structure OEntry where
  launch : Word
  tx : BitVec 16
  ty : BitVec 16
  tz : BitVec 16
  sq : Nat
  kind : Nat
  lanes : Mask
  pc : Word
  deriving DecidableEq, Repr

/-- A capture-log event with its tick (R398, R417, R419). -/
inductive CapEv where
  | packet (q : Nat) (tick : DWord) (bytes : List Byte)
  | window (tick : DWord) (va : Nat) (bytes : List Byte)
  | inbound (tick : DWord) (va : Nat) (bytes : List Byte)
  | reply (tick : DWord) (bytes : List Byte)
  | checksum (tick : DWord) (id : Word) (sum : DWord)
  deriving DecidableEq, Repr

/-- A checkpoint of a partition (R413): tick, 64 KiB pages copied (all when `full`), their bytes, images of its teams, those that were
saved already, its launches and its LQTAIL and LQHEAD registers, and the order logs that follow it, by home. -/
structure Ckpt where
  tick : DWord
  full : Bool
  pages : List Nat
  mem : List (Nat × Byte)
  images : List Image
  kept : List Image
  launches : List (Nat × Launch)
  queues : List DWord
  logs : Store (List Byte)
  deriving DecidableEq, Repr

/-- Replay state of a partition (R412 to R419). -/
structure Replay where
  ckpts : List Ckpt
  /-- The tick at which the next checkpoint is due. -/
  due : Nat
  skipped : Nat
  /-- A checkpoint's freeze is in progress: its deadline. -/
  freezing : Option Nat
  /-- The capture snapshot, taken once; the capture log. -/
  capturing : Bool
  snapshot : List (Nat × Byte)
  clog : List CapEv
  /-- Position in the capture log of a re-run plus one; 0 when none runs; and whether the teams are being killed for one. -/
  rerun : Nat
  halting : Bool
  /-- The report of the last replay or re-run (R415, R419). -/
  report : List Nat
  deriving DecidableEq, Repr

def Replay.none : Replay := ⟨[], 0, 0, Option.none, false, [], [], 0, false, []⟩

/-- Debug, trace, profiling and replay (R398 to R419). -/
structure Debug where
  /-- Down-counters of the cores, and LFSR of the units (R399). -/
  smpDown : Store Nat
  lfsr : Store Nat
  smpWait : List SampWait
  /-- Sample buffer of a unit: index of its oldest record, and its records (R402). -/
  smpHead : Store Nat
  smp : Store (List (List Byte))
  /-- Trace record n of unit u at u × 1024 + n (R403). -/
  traces : Store (List Byte)
  /-- Bytes of the order log of a partition at a home, home × 8 + partition (R414), and of the log it follows (R415) with the
  entries done and the tick of the last match. -/
  olog : Store (List Byte)
  follow : Store (List Byte)
  followAt : Store Nat
  followTick : Store DWord
  /-- One more than the tick at which each unit's tick match fired last (R407). -/
  matchAt : Store Nat
  /-- Dirty map: 64 KiB pages written since the last checkpoint (R413). -/
  dirty : Store Bool
  /-- 4 KiB pages a launch wrote (R418): launch key and SPA / 4096. -/
  touched : List (Nat × Nat)
  replay : Store Replay
  deriving DecidableEq, Repr

/-- The machine.  `sched`, `turn`, `cur`, `ctr` and `ids` are the model's own: the events the outside world or the units
perform next, whose turn it is, the part that issues, and counters for free values and message numbers. -/
structure State where
  sched : List Instr
  /-- Choices the outside world has made among what may happen next: of cores, and of events (R434). -/
  picks : List Nat
  turn : Bool
  cur : Nat
  ctr : Nat
  ids : Nat
  /-- Slot that issued last on each core, plus one, by unit × 8 + core: ties go round-robin (R147). -/
  lastSlot : Store Nat
  /-- Global tick (R4). -/
  tick : DWord
  /-- Cycles, for intervals the spec counts in cycles. -/
  cyc : Nat
  /-- Ticks by which each package is behind, and the cycles for which it has been stopped (R408, R409). -/
  lag : Store Nat
  held : Store Nat
  parts : Store Part
  teams : Store Team
  /-- Memory: one byte for each listed SPA (R8, R11, R16). -/
  mem : Store Byte
  /-- Key tag of each 64-byte unit written under a key (R390): SPA / 64. -/
  memKey : Store Nat
  /-- Key material plus one of each live key slot: ((unit × 16 + controller) × 8 + partition) × 16 + slot (R391). -/
  keys : Store Nat
  /-- Slot plus one whose REVOKE is in progress: (unit × 16 + controller) × 8 + partition (R391, R393). -/
  revoking : Store Nat
  /-- Uncorrectable errors: SPA / 32 (R259, R421). -/
  ecc : Store Bool
  /-- Poison marks of macro blocks: SPA of the block's scale (R85). -/
  poisonMark : Store Bool
  /-- Unit registers: unit × 2²¹ + offset, one 64-bit word each (R15, R17). -/
  uregs : Store DWord
  /-- Cached code bytes: ((unit × 8 + core) × 8 + partition) × 2⁶⁴ + VA (R166, R186). -/
  icache : Store (Option Byte)
  /-- Values that stores have replaced in code and live-set bytes of admitted launches, by SPA, with their numbers; and
  the number of the latest `icinv` of a partition at a core, (unit × 8 + core) × 8 + partition (R186). -/
  codeOld : Store (List (Nat × Byte))
  icinvAt : Store Nat
  tr : Trans
  fab : Fabric
  mg : Mgmt
  net : Net
  dbg : Debug
  /-- The data last returned to the host or to the management core. -/
  hostData : List Byte
  deriving DecidableEq, Repr

/-- How the machine stops.  Safe: the model stops where the hardware goes on. -/
inductive Fault where
  /-- A management access to an offset the spec calls unbacked, for which R11 and R16 give no effect (raised by
  BRIDGE_ACCESS). Safe. -/
  | unbacked (spa : Nat)
  deriving DecidableEq, Repr

/-- Why the model gives no meaning. -/
inductive Refusal where
  /-- The instruction has no meaning in the model (raised by Dispatch). Safe. -/
  | notModelled (mnemonic : String)
  deriving DecidableEq, Repr

/-- The result of a meaning. -/
abbrev Out := Host.Outcome State Fault Refusal

def Trans.reset : Trans := ⟨[], [], [], [], [], [], []⟩
def Fabric.reset : Fabric := ⟨[], [], [], [], [], [], [], [], []⟩
def Mgmt.reset : Mgmt :=
  { launches := [], binds := [], recs := [], parts := [], irqs := [], mbox := [], msix := [], serving := none
    restop := false, images := [], pkgs := [0], formed := false, relink := [], down := [], dead := [], boot := 0, bootCode := 0
    bootAt := 0, powered := [], linkUp := false, failed := []
    fwMeas := [], aliasSeed := [], fwSvn := 0, errLost := 0, tripped := [], service := [], starts := [], scrubbed := [] }
def Net.reset : Net := ⟨[], [], [], [], [], [], 0, 0⟩
def Debug.reset : Debug := ⟨[], [], [], [], [], [], [], [], [], [], [], [], [], []⟩

/-- The machine right after reset: no partition, launch or part exists, the tick is 0, memory and the unit registers
hold their reset values (R139, R420, R421). -/
def State.reset : State where
  sched := []
  picks := []
  turn := false
  cur := 0
  ctr := 0
  ids := 1
  lastSlot := []
  tick := 0
  cyc := 0
  lag := []
  held := []
  parts := []
  teams := []
  mem := []
  memKey := []
  keys := []
  revoking := []
  ecc := []
  poisonMark := []
  uregs := []
  icache := []
  codeOld := []
  icinvAt := []
  tr := Trans.reset
  fab := Fabric.reset
  mg := Mgmt.reset
  net := Net.reset
  dbg := Debug.reset
  hostData := []

end Sys2Proof.Machine
end

