-- ==== Sys2Proof/Machine/Operands.lean ====
section
/-! DEFINITION. Registers of a part and operand forms: windows (R155), pairs (R169, R187), constants (R170, R171),
predicates (R167), dead marks (R56), and pending results (R145, R146). -/

namespace Sys2Proof.Machine

/-- Key of lane `l` of absolute register `r` in `vregs`. -/
def vkey (r l : Nat) : Nat := r * 16 + l

/-- Absolute number of v`n` in the current window (R155). -/
def Part.absReg (p : Part) (n : Nat) : Nat := 4 * p.depth + n

/-- What a pending result would write to (register, lane). -/
def Pend.valAt (e : Pend) (r l : Nat) : Option Word :=
  (e.vals.find? (fun v => v.1 == r && v.2.1 == l)).map (fun v => v.2.2)

/-- What a pending result would write to a uniform register. -/
def Pend.svalAt (e : Pend) (n : Nat) : Option Word := (e.svals.find? (fun v => v.1 == n)).map Prod.snd

/-- Lane `l` of absolute register `r`: while a write is pending, the old or the new value (R146). -/
def Part.readAbs (p : Part) (r l : Nat) : Word :=
  p.pend.foldl (fun x e =>
    match e.valAt r l with
    | some y => if Config.pendBit e.id p.issues (vkey r l) then y else x
    | none => x) (Store.get 0 p.vregs (vkey r l))

/-- Lane `l` of v`n`. -/
def Part.readV (p : Part) (n l : Nat) : Word := p.readAbs (p.absReg n) l

/-- The part's copy of s`n` (R142), as lane `l` reads it: while a write is pending, the old or the new value, for each lane
independently (R146). -/
def Part.readSAt (p : Part) (n l : Nat) : Word :=
  p.pend.foldl (fun x e =>
    match e.svalAt n with
    | some y => if Config.pendBit e.id p.issues (vkey n l) then y else x
    | none => x) (Store.get 0 p.sregs n)

/-- s`n` as an instruction without lanes reads it. -/
def Part.readS (p : Part) (n : Nat) : Word := p.readSAt n 0

/-- Predicate p`n`; p0 reads as ones (R167). -/
def Part.pred (p : Part) (n : Nat) : Mask := if n = 0 then 0xFFFF else Store.get 0 p.preds n

/-- Write a predicate; a write to p0 is discarded (R169). -/
def Part.setPred (p : Part) (n : Nat) (m : Mask) : Part :=
  if n = 0 then p else { p with preds := Store.set 0 p.preds n m }

/-- Short write of lane `l` of absolute register `r`; a result pending there is marked (R146). -/
def Part.writeAbs (p : Part) (r l : Nat) (x : Word) : Part :=
  { p with
    vregs := Store.set 0 p.vregs (vkey r l) x
    pend := p.pend.map (fun e => if (e.valAt r l).isSome then { e with clob := (r, l) :: e.clob } else e) }

def Part.writeV (p : Part) (n l : Nat) (x : Word) : Part := p.writeAbs (p.absReg n) l x

def Part.writeS (p : Part) (n : Nat) (x : Word) : Part :=
  { p with
    sregs := Store.set 0 p.sregs n x
    pend := p.pend.map (fun e => if (e.svalAt n).isSome then { e with clob := (1000000, n) :: e.clob } else e) }

/-- Land one pending result: its values, unless a short write over it keeps its own (R146), then its flags (R199). -/
def Part.landEntry (p : Part) (e : Pend) : Part :=
  let p1 := e.vals.foldl (fun (q : Part) v =>
    if e.clob.contains (v.1, v.2.1) && Config.clobberBit e.id (vkey v.1 v.2.1) then q
    else { q with vregs := Store.set 0 q.vregs (vkey v.1 v.2.1) v.2.2 }) p
  let p2 := e.svals.foldl (fun (q : Part) v =>
    if e.clob.contains (1000000, v.1) && Config.clobberBit e.id v.1 then q
    else { q with sregs := Store.set 0 q.sregs v.1 v.2 }) p1
  { p2 with fpstat := p2.fpstat ||| (e.flags &&& ~~~ (p2.fpctl.setWidth 16)) }

/-- Whether two pending results share a destination. -/
def Pend.clash (a b : Pend) : Bool :=
  a.vals.any (fun v => (b.valAt v.1 v.2.1).isSome) || a.svals.any (fun v => (b.svalAt v.1).isSome)

/-- Land the `k`-th pending result, unless an earlier one writes the same register: two long results to one register
land in issue order (R146). -/
def Part.landNth (p : Part) (k : Nat) : Part :=
  match p.pend[k]? with
  | none => p
  | some e =>
    if (p.pend.take k).any (fun d => d.clash e) then p
    else
      let q := p.landEntry e
      let q := { q with pend := q.pend.eraseIdx k }
      if q.pend.isEmpty && q.st == .switched then { q with st := .ready } else q

/-- Land every pending result, in issue order: what the wait at a switch point ends in (R146). -/
def Part.landAll (p : Part) : Part :=
  { p.pend.foldl (fun q e => q.landEntry e) p with pend := [] }

/-! ### Operand fields -/

/-- The bits of an integer constant of a floating-point operand (R171). -/
def constFp (f : Fmt) (n : Nat) : Nat := (ofInt f .rne false n).1

/-- `val(F,l)` for integer, bit and 64-bit operands (R176, R169 to R171); C[31:0] is `c`. -/
def Part.val (p : Part) (c : Word) (w64 : Bool) (o : Opnd) (l : Nat) : Nat :=
  match o with
  | .v n => if w64 then (p.readV n l).toNat + 2 ^ 32 * (p.readV (n + 1) l).toNat else (p.readV n l).toNat
  | .s n => if w64 then (p.readSAt n l).toNat + 2 ^ 32 * (p.readSAt (n + 1) l).toNat else (p.readSAt n l).toNat
  | .i sx => if w64 && sx then (num c.toNat 32 true % 2 ^ 64).toNat else c.toNat
  | .k n => n.val
  | .p n => (p.pred n.val).toNat
  | .acc n => n.val
  | .x _ => 0

/-- `val(F,l)` for a scalar floating-point operand of format `f`: a small constant is converted (R171). -/
def Part.valF (p : Part) (c : Word) (f : Fmt) (o : Opnd) (l : Nat) : Nat :=
  match o with
  | .k n => constFp f n.val
  | o => p.val c false o l

/-- `val(F,l)` for a packed 16-bit operand: a small constant stands in each half (R171). -/
def Part.valP (p : Part) (c : Word) (f : Fmt) (o : Opnd) (l : Nat) : Nat :=
  match o with
  | .k n => constFp f n.val * 65537
  | o => p.val c false o l

/-- The predicate an operand names (`pmask`, R176). -/
def Part.pmask (p : Part) : Opnd → Mask
  | .p n => p.pred n.val
  | _ => 0

/-- Write lane `l` of a vector destination: one register, or the pair. -/
def Part.putV (p : Part) (n : Nat) (w64 : Bool) (l : Nat) (x : Nat) : Part :=
  let q := p.writeV n l (BitVec.ofNat 32 x)
  if w64 then q.writeV (n + 1) l (BitVec.ofNat 32 (x / 2 ^ 32)) else q

/-- Write a uniform destination: one register, or the pair. -/
def Part.putS (p : Part) (n : Nat) (w64 : Bool) (x : Nat) : Part :=
  let q := p.writeS n (BitVec.ofNat 32 x)
  if w64 then q.writeS (n + 1) (BitVec.ofNat 32 (x / 2 ^ 32)) else q

/-- OR flags into FPSTAT, less those muted (R199). -/
def Part.raise (p : Part) (f : Fl) : Part :=
  { p with fpstat := p.fpstat ||| (f &&& ~~~ (p.fpctl.setWidth 16)) }

/-- A result of every lane of `act` into a vector register, or once into a uniform register (R172, R205, R229). -/
def Part.run (p : Part) (act : Mask) (d : Opnd) (w64 : Bool) (f : Nat → Nat × Fl) : Part :=
  match d with
  | .v n =>
    (lanesOf act).foldl (fun q l => (q.putV n.val w64 l (f l).1).raise (f l).2) p
  | .s n => (p.putS n.val w64 (f 0).1).raise (f 0).2
  | _ => p

/-- As `run` for a long instruction: the values become pending (R145). -/
def Part.runLong (p : Part) (id : Nat) (act : Mask) (d : Opnd) (w64 : Bool) (f : Nat → Nat × Fl) : Part :=
  match d with
  | .v n =>
    let ls := lanesOf act
    let vs := ls.flatMap (fun l =>
      let x := (f l).1
      let lo := (p.absReg n.val, l, BitVec.ofNat 32 x)
      if w64 then [lo, (p.absReg (n.val + 1), l, BitVec.ofNat 32 (x / 2 ^ 32))] else [lo])
    { p with pend := p.pend ++ [⟨id, vs, [], ls.foldl (fun a l => a ||| (f l).2) 0, [], false, .free⟩] }
  | .s n =>
    let x := (f 0).1
    let lo := (n.val, BitVec.ofNat 32 x)
    let vs := if w64 then [lo, (n.val + 1, BitVec.ofNat 32 (x / 2 ^ 32))] else [lo]
    { p with pend := p.pend ++ [⟨id, [], vs, (f 0).2, [], false, .free⟩] }
  | _ => p

/-- Write bit `l` of predicate `n` for each lane of `act` (R229: other bits are kept). -/
def Part.putPred (p : Part) (n : Nat) (act : Mask) (f : Nat → Bool) : Part :=
  p.setPred n ((p.pred n &&& ~~~act) ||| (maskOf f &&& act))

/-! ### Windows and dead registers -/

/-- The vector registers an operand names, pairs included. -/
def opRegs : Opnd × Bool → List Nat
  | (.v n, w) => if w then [n.val, n.val + 1] else [n.val]
  | _ => []

/-- Every named vector register lies in the window (R169). -/
def Part.fits (p : Part) (os : List (Opnd × Bool)) : Bool := os.all (fun o => (opRegs o).all (fun n => decide (n < p.w)))

/-- A named register is dead (R56). -/
def Part.anyDead (p : Part) (os : List (Opnd × Bool)) : Bool :=
  os.any (fun o => (opRegs o).any (fun n => p.dead.getLsbD n))

/-- Clear the dead marks of written registers (R56). -/
def Part.undead (p : Part) (os : List (Opnd × Bool)) : Part :=
  { p with dead := os.foldl (fun d o => (opRegs o).foldl (fun d n => d &&& ~~~ (BitVec.ofNat 32 (2 ^ n))) d) p.dead }

/-- Zero v`lo` to v`hi − 1` in every lane. -/
def Part.zeroRange (p : Part) (lo hi : Nat) : Part :=
  { p with vregs := p.vregs.filter (fun e =>
      !(decide (vkey (p.absReg lo) 0 ≤ e.1) && decide (e.1 < vkey (p.absReg hi) 0))) }

/-- Slide the window up by `n` registers: DEPTH rises, dead marks move with their registers, and a dead register that
leaves the window is no longer marked and holds zero (R226, R341). -/
def Part.slideUp (p : Part) (n : Nat) : Part :=
  let p1 := { p with dead := p.dead >>> n, depth := p.depth + n / 4 }
  -- the new top registers hold zero and are not dead
  p1.zeroRange (p.w - n) p.w

/-- Slide down by `n` registers: the callee's top registers are discarded (R227, R312). -/
def Part.slideDown (p : Part) (n : Nat) : Part :=
  let p1 := p.zeroRange (p.w - n) p.w
  { p1 with
    dead := (p.dead <<< n) &&& (BitVec.ofNat 32 (2 ^ p.w - 1))
    depth := p.depth - n / 4 }

/-- Guard (R167): the lanes the instruction acts on; a continued instruction acts on UMASK (R446), and the instruction
after `eret` on TLM only (R312). -/
def Part.act (p : Part) (h : Hdr) : Mask :=
  let g := p.pred h.gp.val
  let a := if p.umask = 0 then p.amask &&& (if h.gn then ~~~g else g) else p.umask
  match p.restrict with
  | none => a
  | some m => a &&& m

end Sys2Proof.Machine
end

