-- ==== Sys2Proof/Machine/Ops.lean ====
section
/-! DEFINITION. Named operations on the state: memory and keys, unit registers, page-table walks, records, the register
file, taking a trap, ending squads, and the issue of an instruction. -/

namespace Sys2Proof.Machine

/-! ### Tables of the state -/

namespace State

def part (s : State) (pid : Nat) : Part := Store.get Part.absent s.parts pid
def setPart (s : State) (pid : Nat) (p : Part) : State := { s with parts := Store.set Part.absent s.parts pid p }
def mapPart (s : State) (pid : Nat) (f : Part → Part) : State := s.setPart pid (f (s.part pid))
def team (s : State) (tk : Nat) : Team := Store.get Team.absent s.teams tk
def setTeam (s : State) (tk : Nat) (t : Team) : State := { s with teams := Store.set Team.absent s.teams tk t }
def mapTeam (s : State) (tk : Nat) (f : Team → Team) : State := s.setTeam tk (f (s.team tk))
def partition (s : State) (n : Nat) : Partition := Store.get Partition.absent s.mg.parts n
def setPartition (s : State) (n : Nat) (p : Partition) : State :=
  { s with mg := { s.mg with parts := Store.set Partition.absent s.mg.parts n p } }
/-- Launches by partition × 2³² + id (R331). -/
def lkey (prt : Nat) (id : Word) : Nat := prt * 2 ^ 32 + id.toNat
def launch (s : State) (k : Nat) : Launch := Store.get Launch.absent s.mg.launches k
def setLaunch (s : State) (k : Nat) (l : Launch) : State :=
  { s with mg := { s.mg with launches := Store.set Launch.absent s.mg.launches k l } }
def fresh (s : State) : Nat × State := (s.ids, { s with ids := s.ids + 1 })
def msg (s : State) (k : Nat) : Option Msg := Store.get none s.fab.msgs k
def via (s : State) (k : Nat) : Option Via := Store.get none s.fab.vias k
/-- Send item number `k` on its way, or note that it has arrived (R71). -/
def setVia (s : State) (k : Nat) (v : Option Via) : State :=
  { s with fab := { s.fab with vias := Store.set none s.fab.vias k v } }
def dropMsg (s : State) (k : Nat) : State :=
  { s with fab := { s.fab with
    msgs := Store.set none s.fab.msgs k none
    vias := Store.set none s.fab.vias k none } }
/-- Drop the messages a test does not keep. -/
def keepMsgs (s : State) (f : Msg → Bool) : State :=
  let out := fun (e : Nat × Option Msg) => match e.2 with
    | some m => !f m
    | none => true
  { s with fab := { s.fab with
    msgs := s.fab.msgs.filter (fun e => !out e)
    vias := s.fab.vias.filter (fun e => !s.fab.msgs.any (fun m => m.1 == e.1 && out m)) } }
def preq (s : State) (k : Nat) : Option PReq := Store.get none s.fab.posted k
def setPreq (s : State) (k : Nat) (r : Option PReq) : State :=
  { s with fab := { s.fab with posted := Store.set none s.fab.posted k r } }

/-! ### Memory (R8, R110, R187) -/

def byte (s : State) (a : Nat) : Byte := Store.get 0 s.mem a
def setByte (s : State) (a : Nat) (b : Byte) : State := { s with mem := Store.set 0 s.mem a b }

/-- The `n` bytes at `a`, little-endian. -/
def peek (s : State) : Nat → Nat → Nat
  | _, 0 => 0
  | a, n + 1 => (s.byte a).toNat + 256 * s.peek (a + 1) n

/-- Write the low `n` bytes of `x` at `a`, little-endian. -/
def poke (s : State) : Nat → Nat → Nat → State
  | _, 0, _ => s
  | a, n + 1, x => (s.setByte a (BitVec.ofNat 8 x)).poke (a + 1) n (x / 256)

/-- Write a list of bytes at `a`. -/
def pokeBytes (s : State) : Nat → List Byte → State
  | _, [] => s
  | a, b :: bs => (s.setByte a b).pokeBytes (a + 1) bs

/-- `n` bytes from `a`. -/
def peekBytes (s : State) (a : Nat) : Nat → List Byte
  | 0 => []
  | n + 1 => s.byte a :: s.peekBytes (a + 1) n

/-- Zero the bytes from `a` up to `a + n`, at once. -/
def zeroBytes (s : State) (a n : Nat) : State :=
  { s with mem := s.mem.filter (fun e => !(decide (a ≤ e.1) && decide (e.1 < a + n))) }

end State

/-- The unit of an SPA: PKG × 32 + HOME (R8). -/
def spaUnit (a : Nat) : Nat := a / 2 ^ 45
/-- OFFSET of an SPA (R8). -/
def spaOff (a : Nat) : Nat := a % 2 ^ 45
/-- HOME of a unit. -/
def unitHome (u : Nat) : Nat := u % 32
def unitPkg (u : Nat) : Nat := u / 32
def isStack (u : Nat) : Bool := decide (unitHome u < 16)
def isHub (u : Nat) : Bool := unitHome u == 16 || unitHome u == 17
/-- First SPA of a unit. -/
def unitBase (u : Nat) : Nat := u * 2 ^ 45
/-- Scratchpad macro `m` of a stack (R11). -/
def macroSpa (u m : Nat) : Nat := unitBase u + 0x100000000000 + m * 0x10000
/-- Side array of macro `m` (R11). -/
def sideSpa (u m : Nat) : Nat := unitBase u + 0x100010000000 + m * 0x1000
/-- Physical accumulator tile (R11). -/
def tileSpa (u t : Nat) : Nat := unitBase u + 0x100020000000 + t * 0x20000
/-- Reuse slot `n` (R13). -/
def slotSpa (u n : Nat) : Nat := unitBase u + 0x000FE0000000 + n * 0x100000

/-- [a, a + n) lies wholly in the lane-mappable range of one home (R11, R12, R16). -/
def laneMappable (a n : Nat) : Bool :=
  let u := spaUnit a
  let e := spaOff a + n
  decide (a < 2 ^ 56) &&
    ((isStack u && decide (e ≤ 0x000FC0000000)) || (isHub u && decide (e ≤ 0x02FFC0000000)))

/-! ### Unit registers (R15, R17) -/

def regIx (u off : Nat) : Nat := u * 2 ^ 21 + off

/-- Reset values other than zero of a stack's registers, by offset (R64, R93, R352, R411, R424). -/
def stackResets : List (Nat × Nat) :=
  [(0x10010, 0x1F000), (0x50010, 0x0400), (0x70010, 3), (0x90000, 190), (0x90010, 64), (0x90018, 4), (0x90028, 0x6E5F),
    (0xB0040, 1)]

/-- Reset values other than zero of a hub's registers; PKHIGH is repeated for each partition (R64, R379, R411, R424). -/
def hubResets : List (Nat × Nat) :=
  (List.range 8).map (fun n => (0x10108 + 0x20 * n, 0x3E00)) ++
    [(0x70000, 0x8000), (0x70008, 0x1DB00), (0x70010, 0x3B60), (0x90000, 120), (0x90010, 64), (0x90018, 4),
      (0x90028, 0x6E5F), (0xA0040, 1)]

/-- Reset value of a unit register. -/
def regReset (u off : Nat) : Nat :=
  if isStack u then (stackResets.lookup off).getD 0
  else if isHub u then (hubResets.lookup off).getD 0
  else 0

namespace State

/-- The 64-bit word of a unit register; `uregs` holds its difference from the reset value. -/
def ureg (s : State) (u off : Nat) : DWord := Store.get 0 s.uregs (regIx u off) ^^^ BitVec.ofNat 64 (regReset u off)
def setUreg (s : State) (u off : Nat) (x : DWord) : State :=
  { s with uregs := Store.set 0 s.uregs (regIx u off) (x ^^^ BitVec.ofNat 64 (regReset u off)) }

end State

/-- The controller of a byte: the home itself, or the granule's controller at a hub (R16, R390). -/
def spaCtrl (a : Nat) : Nat := if isHub (spaUnit a) then spaOff a / 2 ^ 38 % 16 else 0

namespace State

/-- The home, or granule, of `a` is granted to partition `prt` (R18). -/
def granted (s : State) (prt a : Nat) : Bool :=
  let u := spaUnit a
  let m := Store.get 0 (s.partition prt).homes (unitPkg u)
  if isStack u then m.getLsbD (unitHome u)
  else if unitHome u = 16 then decide (spaCtrl a < 12) && m.getLsbD (16 + spaCtrl a)
  else if unitHome u = 17 then decide (spaCtrl a < 12) && m.getLsbD (28 + spaCtrl a)
  else false

/-- First SPAs of the granules that a page touches; a page up to a granule's size lies in one (R16). -/
def granules (base size : Nat) : List Nat := (List.range (max 1 (size / 2 ^ 38))).map (fun i => base + i * 2 ^ 38)

/-- The check of R10 on an SPA. -/
def spaOk (s : State) (prt a : Nat) : Bool :=
  (isStack (spaUnit a) || isHub (spaUnit a)) && s.mg.pkgs.contains (unitPkg (spaUnit a)) && s.granted prt a &&
    laneMappable a 1

/-- DBGCTL of a package, and whether its clocks are stopped (R408, R411). -/
def dbgctl (s : State) (pkg : Nat) : DWord := s.ureg (pkg * 32 + 16) 0xA2000
def pkgStopped (s : State) (pkg : Nat) : Bool := (s.dbgctl pkg).getLsbD 2

/-- The tick at a unit (R4): that of its package, behind the domain's by the cycles for which the package has been stopped
(R408, R409). -/
def tickAt (s : State) (u : Nat) : DWord := s.tick - BitVec.ofNat 64 (Store.get 0 s.lag (unitPkg u))

/-- The cycles a unit's package has run (R408). -/
def cycAt (s : State) (u : Nat) : Nat := s.cyc - Store.get 0 s.held (unitPkg u)

/-- The gate is open in cycle `i` of its frame (R423). -/
def gateOpen (g i : Nat) : Bool := decide (i * g / 64 < (i + 1) * g / 64)

/-- G of a unit. -/
def gate (s : State) (u : Nat) : Nat := (s.ureg u 0x90010).toNat % 128

/-- The unit's package is not stopped (R408). -/
def clocked (s : State) (u : Nat) : Bool := !s.pkgStopped (unitPkg u)

/-- A unit may issue and start work in this cycle (R408, R423). -/
def unitRuns (s : State) (u : Nat) : Bool := gateOpen (s.gate u) (s.cycAt u % 64) && s.clocked u

/-! ### The fabric (R69, R71, R72) -/

/-- Key of a stop. -/
def stopKey (u dst prt cls : Nat) : Nat := ((u * 2048 + dst) * 8 + prt) * 8 + cls

/-- A sender has been stopped for a receiver, partition and class (R72). -/
def stopped (s : State) (u dst prt cls : Nat) : Bool := Store.get false s.fab.stops (stopKey u dst prt cls)

end State

/-- Slot tables of a unit's own links, and of those of a hub's fabric links (R388, log 24). -/
def slotOff (n : Nat) : Nat := 0x2000 + 0x40 * n

/-- Register offsets and size of the parking area a frame of a partition uses (R62, R64): PKHIGH, PKSTAT, frames. -/
def pkOff (u prt : Nat) : Nat × Nat × Nat :=
  if isStack u then (0x10010, 0x10018, 131072) else (0x10108 + 0x20 * prt, 0x10110 + 0x20 * prt, 16384)

/-- The base stack of a part's team (R54). -/
def Part.base (p : Part) : Nat := spaUnit (p.spill * 2 ^ 16)

/-- Offset of C0LIMn of a core (R74). -/
def c0Off (u c n : Nat) : Nat := ((if isStack u then 16 else 28) + c) * 0x10000 + 0x200 + 8 * n

/-- Class of a frame, or of frame-fetch data (R69). -/
def frameClass (c0 : Bool) : Nat := if c0 then 0 else 1

/-- The unit a destination names. -/
def Dest.unitOf : Dest → Nat
  | .none => 0
  | .unit u => u
  | .host u _ _ => u
  | .evict u => u
  | .hold u _ _ _ _ => u

/-- The team a message concerns by its key. -/
def msgTeam : Msg → Option Nat
  | .exitMask t _ _ => some t
  | .arrive _ t _ _ _ _ => some t
  | .sgo _ t _ _ => some t
  | .swt _ t _ _ _ => some t
  | .command _ t _ => some t
  | .clearMst _ t => some t
  | _ => none

namespace State

/-- RATE of a part's limiter (R74). -/
def c0Rate (s : State) (p : Part) : Nat := (s.ureg p.unit (c0Off p.unit p.core p.prt)).toNat % 65536

/-- A part's frames go on class 0: it is of the latency class and its limiter has a rate (R69, R74). -/
def sends0 (s : State) (p : Part) : Bool := p.lat && s.c0Rate p != 0

/-- A stop of R62 holds back a class at a unit. -/
def arrStopped (s : State) (u prt : Nat) (c0 : Bool) : Bool :=
  (ureg s u (pkOff u prt).2.1).getLsbD (if c0 then 1 else 0)

/-- Key of a link of a unit (log 24): links 0 to 3 are of the mesh, and 8 to 15 of a hub of the fabric. -/
def linkKey (u link : Nat) : Nat := u * 16 + link

/-- A mesh link of a package is down (R429). -/
def meshDown (s : State) (k : Nat) : Bool :=
  s.mg.down.any (fun e => e.2 && decide (e.1 % 16 < 8) && unitPkg (e.1 / 16) == k)

/-- Every mesh link of a unit has gone down: no route is left to it (R369, R429, log 25). -/
def cutOff (s : State) (u : Nat) : Bool := (List.range 4).all (fun l => Store.get false s.mg.dead (linkKey u l))

/-- The routes between two units stand (R71, R369, R429): inside a package while no link of its mesh is down, between packages
while the domain is formed. -/
def joined (s : State) (a b : Nat) : Bool :=
  a == b || (!s.cutOff a && !s.cutOff b && (if unitPkg a = unitPkg b then !s.meshDown (unitPkg a) else s.mg.formed))

/-- A partition owns a slot of the table of a unit's link (R387, R388). -/
def ownsSlot (s : State) (u link prt : Nat) : Bool :=
  (List.range 8).any (fun i => (leBytes 8 (s.ureg u (slotOff link + 8 * i)).toNat).any (fun b => b.toNat % 16 == 8 + prt))

/-- The partition has slots on the links of a route: those of the mesh, and between packages of the fabric (R387).  Class 5 has
the slots that no partition owns. -/
def hasSlots (s : State) (v : Via) : Bool :=
  v.cls == 5 || (s.ownsSlot v.src 0 v.prt &&
    (unitPkg v.src == unitPkg v.dst || s.ownsSlot (unitPkg v.src * 32 + 16) 8 v.prt))

/-- The links carry a class of a route: the sender is not stopped, the receiver's inputs are not, the route stands, and the partition
has slots on it (R62, R72, R369, R387); what stays inside a unit crosses no link. -/
def linked (s : State) (v : Via) : Bool :=
  v.src == v.dst || (!s.stopped v.src v.dst v.prt v.cls && s.joined v.src v.dst &&
    !(decide (v.cls < 2) && s.arrStopped v.dst v.prt (v.cls == 0)) && s.hasSlots v)

/-- A class flows on a route: the packages at its ends run, and the links carry it (R408). -/
def flowing (s : State) (v : Via) : Bool :=
  !s.pkgStopped (unitPkg v.src) && !s.pkgStopped (unitPkg v.dst) && s.linked v

end State

/-- The route of a lookup's table read or update (R69, R71). -/
def Xlat.route (x : Xlat) : Option Via :=
  match x.st with
  | .walk _ tbl => some ⟨x.unit, spaUnit tbl, x.prt, 4⟩
  | .update pte _ _ _ => some ⟨x.unit, spaUnit pte, x.prt, 4⟩
  | _ => none

namespace State

/-- Nothing sent earlier on the same route, class and partition is still on its way (R71). -/
def nextOn (s : State) (k : Nat) (v : Via) : Bool :=
  v.cls == 9 || (!s.fab.vias.any (fun e => decide (e.1 < k) && e.2 == some v) &&
    !s.tr.xlats.any (fun e => match e.2 with
      | some x => decide (x.rd < k) && x.route == some v
      | none => false))

/-- Item `k` has arrived, or arrives now. -/
def arrives (s : State) (k : Nat) : Bool :=
  match s.via k with
  | none => true
  | some v => s.flowing v && s.nextOn k v

/-- Item `k` has been taken off its route and waits at its receiver. -/
def landed (s : State) (k : Nat) : State :=
  { s with fab := { s.fab with vias := match s.via k with
    | none => s.fab.vias
    | some v => Store.set none s.fab.vias k (some ⟨v.dst, v.dst, v.prt, 9⟩) } }

/-- The route of a message (R69; log 26 names the classes the table leaves open). -/
def msgVia (s : State) : Msg → Via
  | .flushMsg pid u _ home => ⟨u, home, (s.part pid).prt, 2⟩
  | .join pid _ => ⟨(s.part pid).unit, (s.part pid).base, (s.part pid).prt, 4⟩
  | .joinReply pid _ _ _ _ => ⟨(s.part pid).base, (s.part pid).unit, (s.part pid).prt, 4⟩
  | .finalMask pid _ _ => ⟨(s.part pid).base, (s.part pid).unit, (s.part pid).prt, 4⟩
  | .exitMask t _ _ => ⟨(s.part s.cur).unit, t / 256, (s.team t).prt, 4⟩
  | .arrive pid t _ _ _ _ => ⟨(s.part pid).unit, t / 256, (s.team t).prt, 4⟩
  | .sgo pid t _ _ => ⟨(s.part pid).unit, t / 256, (s.team t).prt, 4⟩
  | .swt pid t _ _ _ => ⟨(s.part pid).unit, t / 256, (s.team t).prt, 4⟩
  | .kill t _ 0 => ⟨if (s.part s.cur).live && (s.part s.cur).team == t then (s.part s.cur).unit else t / 256, t / 256,
      (s.team t).prt, 4⟩
  | .kill t _ (u + 1) => ⟨t / 256, u, (s.team t).prt, 5⟩
  | .latchAt pid _ _ _ _ _ _ => ⟨(s.part pid).unit, (s.part pid).base, (s.part pid).prt, 4⟩
  | .command pid t _ => ⟨(s.part pid).unit, t / 256, (s.team t).prt, 4⟩
  | .frec t _ q _ => ⟨match q.bind s.preq with
      | some r => if r.kind == .record then r.unit else r.home
      | none => t / 256, t / 256, (s.team t).prt, 4⟩
  | .notice pid q => ⟨match s.preq q with | some r => r.team / 256 | none => (s.part pid).base, (s.part pid).unit,
      (s.part pid).prt, 4⟩
  | .deferral pid => ⟨(s.part pid).unit, (s.part pid).dest.unitOf, (s.part pid).prt, frameClass (s.sends0 (s.part pid))⟩
  | .clearRst pid _ => ⟨(s.part pid).unit, (s.part pid).base, (s.part pid).prt, 4⟩
  | .clearMst pid t => ⟨(s.part pid).unit, t / 256, (s.team t).prt, 4⟩
  | .frameFetch pid _ _ _ => ⟨(s.part pid).unit, (s.part pid).base, (s.part pid).prt, 4⟩
  | .fetchData pid _ _ _ _ _ => ⟨(s.part pid).base, (s.part pid).unit, (s.part pid).prt, frameClass (s.part pid).lat⟩

/-- Put message `m` under number `k` on a route. -/
def putMsg (s : State) (k : Nat) (m : Msg) (v : Via) : State :=
  { s with fab := { s.fab with
    msgs := Store.set none s.fab.msgs k (some m)
    vias := Store.set none s.fab.vias k (some v) } }

/-- Send a message. -/
def post (s : State) (m : Msg) : State := { s.putMsg s.ids m (s.msgVia m) with ids := s.ids + 1 }

/-- Answer message `k` of a part: the answer takes its place in the order of sending, and the result that waited for the request
waits for it (R71). -/
def answerMsg (s : State) (k pid : Nat) (m : Msg) : State :=
  ((s.dropMsg k).post m).mapPart pid (fun p =>
    { p with pend := p.pend.map (fun e => if e.id == k then { e with id := s.ids } else e) })

/-! ### Keys (R390, R391) -/

def keyIx (a prt k : Nat) : Nat := ((spaUnit a * 16 + spaCtrl a) * 8 + prt) * 16 + k
/-- Key material plus one of the slot that protects `a`; 0 when the slot is not live. -/
def keyAt (s : State) (a prt k : Nat) : Nat := Store.get 0 s.keys (keyIx a prt k)
/-- The key tag of the data unit of `a`; 0 when nothing has written it under a key. -/
def tagAt (s : State) (a : Nat) : Nat := Store.get 0 s.memKey (a / 64)

/-- The byte at `a` read under key `key`: unrelated bytes when the unit was written under another key (R390, log 8). -/
def byteK (s : State) (key a : Nat) : Byte :=
  if s.tagAt a = 0 ∨ s.tagAt a = key then s.byte a else Config.otherKeyByte s.ctr a

def peekK (s : State) (key : Nat) : Nat → Nat → Nat
  | _, 0 => 0
  | a, n + 1 => (s.byteK key a).toNat + 256 * s.peekK key (a + 1) n

/-- Bring the data unit of `a` under `key`, as the controller's read-modify-write does (R390). -/
def retag (s : State) (key a : Nat) : State :=
  if s.tagAt a = key then s
  else
    let s1 := if s.tagAt a = 0 then s else
      { s with
        mem := (List.range 64).foldl (fun m i =>
          Store.set 0 m (a / 64 * 64 + i) (Config.otherKeyByte s.ctr (a / 64 * 64 + i))) s.mem
        ctr := s.ctr + 1 }
    { s1 with memKey := Store.set 0 s1.memKey (a / 64) key }

/-- Write `n` bytes (inside one data unit) under `key`. -/
def pokeK (s : State) (key a n x : Nat) : State := (s.retag key a).poke a n x

/-- Count up a register modulo 2^w. -/
def bumpUreg (s : State) (u off w n : Nat) : State :=
  s.setUreg u off (BitVec.ofNat 64 (((s.ureg u off).toNat + n) % 2 ^ w))

end State

/-! ### Page-table walks (R33 to R35, R386) -/

/-- The result of a walk. -/
inductive Walk where
  | leaf (lvl spa pte : Nat) (e : DWord)
  | fault (reason lvl : Nat)
  | unres
  deriving DecidableEq, Repr

/-- Reserved bits of a PTE (R34): of a leaf TH is reserved, and L at level 4; of other entries all but V, L, TH and
FRAME. -/
def pteReserved (e : DWord) (lvl : Nat) : Bool :=
  let leaf := lvl == 4 || e.getLsbD 11
  if leaf then
    (e &&& 0xFF00000000006000) != 0 || e.getLsbD 15 || (lvl == 4 && e.getLsbD 11)
  else (e &&& 0xFF000000000077FE) != 0

/-- log₂ of the page size of a leaf at `lvl` (R33). -/
def pageBits (lvl : Nat) : Nat := 64 - 12 * lvl

namespace State

/-- A PTE at `a`, read under key slot 0 of the partition (R390).  An uncorrectable error in a page table has no outcome in the
spec for a walk: the model reads the bytes that are there (log 27). -/
def pteAt (s : State) (prt a : Nat) : DWord := BitVec.ofNat 64 (s.peekK (s.keyAt a prt 0) a 8)

/-- One level of a walk: the next table, or the end of the walk (R35). -/
def walkStep (s : State) (prt va : Nat) (world : Bool) (lvl tbl : Nat) : Sum Nat Walk :=
  let a := tbl + bitsOf va (75 - 12 * lvl) (64 - 12 * lvl) * 8
  let e := s.pteAt prt a
  if !e.getLsbD 0 then .inr (.fault 0 lvl)
  else if pteReserved e lvl then .inr .unres
  else if lvl = 1 ∧ e.getLsbD 11 then .inr .unres
  else if lvl = 4 ∨ e.getLsbD 11 then
    let base := bitsOf e.toNat 55 16 * 2 ^ 16
    let size := 2 ^ pageBits lvl
    if base % size ≠ 0 then .inr .unres
    else if !laneMappable base size then .inr .unres
    else if e.getLsbD 4 && !world then .inr .unres
    else if (granules base size).any (s.granted prt) && (e.getLsbD 4 != (s.partition prt).secure) then .inr .unres
    else .inr (.leaf lvl (base + va % size) a e)
  else
    let t := bitsOf e.toNat 55 16 * 2 ^ 16 + (if e.getLsbD 15 then 2 ^ 15 else 0)
    if laneMappable t 0x8000 && s.granted prt t then .inl t else .inr .unres

/-- The rest of a walk from a level. -/
def walkFrom (s : State) (prt va : Nat) (world : Bool) : Nat → Nat → Nat → Walk
  | 0, _, _ => .unres
  | n + 1, lvl, tbl =>
    match s.walkStep prt va world lvl tbl with
    | .inr r => r
    | .inl t => s.walkFrom prt va world n (lvl + 1) t

/-- PTROOTn of a unit (R45). -/
def ptroot (s : State) (u prt : Nat) : DWord := s.ureg u (0x20000 + 8 * prt)

/-- A whole walk with the tables of `prt` as unit `u` holds them: the management core's own accesses (R323, R327). -/
def walkAll (s : State) (u prt va : Nat) : Walk :=
  let r := s.ptroot u prt
  if !r.getLsbD 0 then .unres
  else s.walkFrom prt va (s.partition prt).secure 4 1 (bitsOf r.toNat 55 15 * 2 ^ 15)

/-- The SPA and key of a VA for the management core; `need` gives the PTE bits required (1 W, 2 X). -/
def mgmtSpa (s : State) (prt va : Nat) (need : Nat) : Option (Nat × Nat) :=
  match s.walkAll 16 prt va with
  | .leaf _ a _ e =>
    let k := s.keyAt a prt (bitsOf e.toNat 8 5)
    if s.spaOk prt a && k != 0 && (need == 0 || e.getLsbD need) then some (a, k) else none
  | _ => none

/-- Bytes at a VA, read by the management core; none when a byte cannot be read. -/
def mgmtRead (s : State) (prt va need : Nat) : Nat → Option (List Byte)
  | 0 => some []
  | n + 1 =>
    match s.mgmtSpa prt (va % 2 ^ 64) need with
    | some (a, k) =>
      if Store.get false s.ecc (a / 32) then none
      else (s.mgmtRead prt (va + 1) need n).map (fun bs => s.byteK k a :: bs)
    | none => none

/-- Whether every byte of a range can be written by the management core. -/
def mgmtCanWrite (s : State) (prt va : Nat) : Nat → Bool
  | 0 => true
  | n + 1 => (s.mgmtSpa prt (va % 2 ^ 64) 1).isSome && s.mgmtCanWrite prt (va + 1) n

end State

/-! ### Stores and their marks (R186, R259, R413, R418) -/

/-- The fields of a launch packet and header by byte offset (R320, R324). -/
def fieldOf (bs : List Byte) (off n : Nat) : Nat := leNat ((bs.drop off).take n)

namespace State

/-- Note a write of global memory: the dirty map (R413) and, for a write of a launch, its pages for the checksum
(R418). -/
def noteWrite (s : State) (prt : Nat) (lk : Option Nat) (a : Nat) : State :=
  let m := (s.partition prt).replay
  if m == 0 then s
  else
    let d := { s.dbg with dirty := Store.set false s.dbg.dirty (a / 65536) true }
    match lk with
    | some k => { s with dbg := if m == 2 && !d.touched.contains (k, a / 4096) then
        { d with touched := d.touched ++ [(k, a / 4096)] } else d }
    | none => { s with dbg := d }

/-- A VA lies in the code or the live-set table of a launch (R186, R320). -/
def codeVaOf (l : Launch) (va : Nat) : Bool :=
  let k := fieldOf l.packet 0 8
  let c := (va + 2 ^ 64 - (k + 64) % 2 ^ 64) % 2 ^ 64
  let t := (((va : Int) - k - num (fieldOf l.header 16 4) 32 true) % 2 ^ 64).toNat
  decide (c < fieldOf l.header 8 4) || decide (t < 4 * fieldOf l.header 20 2)

/-- First VAs of the 64 KiB pages that a launch's code and live-set table may touch. -/
def codePages (l : Launch) : List Nat :=
  let k := fieldOf l.packet 0 8
  let t := (((k : Int) + num (fieldOf l.header 16 4) 32 true) % 2 ^ 64).toNat
  ((List.range (fieldOf l.header 8 4 / 65536 + 2)).map (fun i => (k + 64) / 65536 + i) ++
    [t / 65536, t / 65536 + 1]).map (fun n => n * 65536 % 2 ^ 64)

/-- An SPA holds code or a live-set entry of an admitted launch, under the page tables or an entry of an L1 TLB (R186). -/
def isCode (s : State) (a : Nat) : Bool :=
  s.mg.launches.any (fun e => e.2.st == .admitted &&
    (s.tr.l1.any (fun c => c.2.any (fun t => t.prt == e.2.prt && t.x && a / 2 ^ t.size * 2 ^ t.size == t.spa &&
        codeVaOf e.2 (t.va * 2 ^ t.size + a % 2 ^ t.size))) ||
      (codePages e.2).any (fun va => match s.walkAll 16 e.2.prt va with
        | .leaf _ x _ _ => x / 65536 == a / 65536 && codeVaOf e.2 (va + a % 65536)
        | _ => false)))

/-- Keep the value a store replaces in code that a launch uses: later fetches may return it (R186). -/
def noteCode (s : State) (key : Nat) : Nat → Nat → State
  | _, 0 => s
  | a, n + 1 =>
    (if s.isCode a then
      { s with
        codeOld := Store.set [] s.codeOld a ((s.ids, s.byteK key a) :: Store.get [] s.codeOld a)
        ids := s.ids + 1 }
     else s).noteCode key (a + 1) n

/-- A store of `w` bytes under a key, with the marks it leaves: the error is overwritten (R259), the write is noted for
replay (R413), and replaced code is kept (R186). -/
def storeFor (s : State) (prt : Nat) (lk : Option Nat) (key a w x : Nat) : State :=
  let s1 := (s.noteCode key a w).pokeK key a w x
  { s1 with ecc := Store.set false s1.ecc (a / 32) false }.noteWrite prt lk a

def mgmtWrite (s : State) (prt va : Nat) : List Byte → State
  | [] => s
  | b :: bs =>
    (match s.mgmtSpa prt (va % 2 ^ 64) 1 with
    | some (a, k) => s.storeFor prt none k a 1 b.toNat
    | none => s).mgmtWrite prt (va + 1) bs

end State

namespace State

/-- Queue a message of the management core for a host function (R364). -/
def mailOut (s : State) (fn : Nat) (m : List Byte) : State :=
  let b := Store.get Mbox.empty s.mg.mbox fn
  { s with mg := { s.mg with mbox := Store.set Mbox.empty s.mg.mbox fn { b with out := b.out ++ [m] } } }

/-- Send an MSI-X message: function and vector (R363, R364). -/
def msixOut (s : State) (fn v : Nat) : State := { s with mg := { s.mg with msix := s.mg.msix ++ [(fn, v)] } }

end State

/-! ### Error records (R330) -/

namespace State

/-- Post an error record to the launch's error queue, with MSI-X vector 1 of the partition's function (R330, R364). -/
def errorRecord (s : State) (lk : Nat) (t : Team) (sq kind reason cause : Nat) (pc : Word) : State :=
  let l := s.launch lk
  let q := fieldOf l.packet 112 8
  let lost : State := { s with mg := { s.mg with errLost := s.mg.errLost + 1 } }
  if q = 0 then lost
  else
    match s.mgmtRead l.prt q 0 28 with
    | none => lost
    | some ctl =>
      let wr := fieldOf ctl 0 8
      let rd := fieldOf ctl 8 8
      let drops := fieldOf ctl 16 8
      let cap := fieldOf ctl 24 4
      if cap = 0 ∨ cap > 65536 ∨ 2 ^ Nat.log2 cap ≠ cap then lost
      else if (wr + 2 ^ 64 - rd) % 2 ^ 64 < cap then
        let noTeam := kind = 1 ∨ kind = 6
        let rec' := leBytes 8 (s.tickAt 16).toNat ++ leBytes 4 l.id.toNat ++ leBytes 4 (fieldOf l.packet 124 4) ++
          (if noTeam then leBytes 6 0 else leBytes 2 t.tx.toNat ++ leBytes 2 t.ty.toNat ++ leBytes 2 t.tz.toNat) ++
          leBytes 1 sq ++ leBytes 1 kind ++ leBytes 1 reason ++ leBytes 1 cause ++ leBytes 2 0 ++ leBytes 4 pc.toNat
        let at' := (q + 64 + 32 * (wr % cap)) % 2 ^ 64
        if s.mgmtCanWrite l.prt at' 32 && s.mgmtCanWrite l.prt q 8 then
          ((s.mgmtWrite l.prt at' rec').mgmtWrite l.prt q (leBytes 8 (wr + 1))).msixOut (l.prt + 1) 1
        else lost
      else if s.mgmtCanWrite l.prt (q + 16) 8 then s.mgmtWrite l.prt (q + 16) (leBytes 8 (drops + 1))
      else lost

/-! ### Parts, slots and the register file (R142, R155 to R158) -/

/-- Parts on a core. -/
def onCore (s : State) (u c : Nat) : List (Nat × Part) :=
  s.parts.filter (fun e => e.2.unit == u && e.2.core == c &&
    (match e.2.st with
    | .departing 2 => false | .travelling => false | .queued => false | .saved => false
    | .blocked (.held _ _ _ (some _)) _ => false
    | _ => true))

/-- One past the highest group of a part's window whose storage it has: a return in progress has given up those it discards
(R155, R158). -/
def topGroup (p : Part) : Nat := p.depth + p.w / 4 - p.shed

/-- A part holds register group `g` of its squad in the file: it is resident, in the window, or reserved for a frame fetch
(R155, R156). -/
def holdsGroup (p : Part) (g : Nat) : Bool := decide (p.resLo - p.fetching ≤ g) && decide (g < topGroup p)

/-- Groups of the register file one slot uses: those its parts hold, shared by a split's parts. -/
def slotGroups (ps : List (Nat × Part)) (slot : Nat) : Nat :=
  let qs := ps.filter (fun e => e.2.slot == slot)
  let lo := qs.foldl (fun a e => min a (e.2.resLo - e.2.fetching)) 1000000
  let hi := qs.foldl (fun a e => max a (topGroup e.2)) 0
  ((List.range (hi - lo)).filter (fun i => qs.any (fun e => holdsGroup e.2 (lo + i)))).length

/-- Slots in use on a core. -/
def usedSlots (ps : List (Nat × Part)) : List Nat := (ps.map (fun e => e.2.slot)).eraseDups

/-- Groups in use on a core, of 2048 (R155). -/
def usedGroups (s : State) (u c : Nat) : Nat :=
  let ps := s.onCore u c
  (usedSlots ps).foldl (fun a k => a + slotGroups ps k) 0

/-- Bytes of one register group of a part, lane by lane (R57). -/
def groupElems (p : Part) (g : Nat) : List PElem :=
  (lanesOf p.amask).flatMap (fun l => (List.range 4).map (fun j =>
    { va := 0, spa := p.spill * 2 ^ 16 + 0x100 + g * 0x100 + l * 16 + 4 * j, w := 4, aop := none,
      vals := [(l, (Store.get 0 p.vregs (vkey (4 * g + j) l)).setWidth 64)], slot := 0 }))

/-- Drop the register storage of group `g`. -/
def dropGroup (p : Part) (g : Nat) : Part :=
  { p with vregs := p.vregs.filter (fun e =>
      !(decide (vkey (4 * g) 0 ≤ e.1) && decide (e.1 < vkey (4 * g + 4) 0))) }

/-- Post a request of a part (R65): it travels on class 2, unless the remote engine carries it. -/
def postReq (s : State) (pid : Nat) (p : Part) (home : Nat) (kind : PKind) (pc : Word) (es : List PElem) : State :=
  let r : PReq := ⟨pid, [pid], p.prt, p.team, p.sq, p.unit, p.core, home, kind, pc, es, .flight, 0, false, 0⟩
  let s1 := s.setPreq s.ids (some r)
  let s2 := if kind == .rwr then s1 else s1.setVia s.ids (some ⟨p.unit, home, p.prt, 2⟩)
  { s2 with ids := s.ids + 1 }

/-- A part of a squad on a core. -/
def squadOn (s : State) (p : Part) : List (Nat × Part) :=
  (s.onCore p.unit p.core).filter (fun e => e.2.team == p.team && e.2.sq == p.sq)

/-- The lowest register group of a squad's parts on a core that can be spilled: resident for a part and below its window, and in
no window of its squad (R157). -/
def spillGroup (qs : List (Nat × Part)) : Option Nat :=
  let free := fun (g : Nat) => !qs.any (fun x => decide (x.2.depth ≤ g) && decide (g < x.2.depth + x.2.w / 4))
  (qs.filterMap (fun e => if e.2.fetching == 0 && e.2.shed == 0 then
      ((List.range (e.2.depth - e.2.resLo)).map (fun i => e.2.resLo + i)).find? free
    else none)).foldl
    (fun (a : Option Nat) g => match a with | none => some g | some b => some (min b g)) none

/-- Spill the lowest resident group of one part (R57). -/
def spillLow (s : State) (pid : Nat) : State :=
  let p := s.part pid
  let s1 := s.postReq pid p p.base .spill p.pc (groupElems p p.resLo)
  s1.setPart pid { dropGroup p p.resLo with resLo := p.resLo + 1 }

/-- Spill the resident groups of one part up to `g`. -/
def spillTo (s : State) (pid g : Nat) : State :=
  (List.range (g + 1 - (s.part pid).resLo)).foldl (fun (s : State) _ => s.spillLow pid) s

/-- Spill a group of a squad: the lanes of each of its parts on the core (R157).  Lanes of lower groups that a sibling's window
keeps in the file are written with it, which the model chooses (log 28). -/
def spillSquad (s : State) (qs : List (Nat × Part)) (g : Nat) : State :=
  qs.foldl (fun (s : State) e => if decide (e.2.resLo ≤ g) && decide (g < e.2.depth) then s.spillTo e.1 g else s) s

/-- The squad whose group is spilled next: the part's own squad, else the one with the largest DEPTH, ties to the
lowest slot (R157); with the group. -/
def spillVictim (s : State) (pid : Nat) : Option (List (Nat × Part) × Nat) :=
  let p := s.part pid
  let own := s.squadOn p
  match spillGroup own with
  | some g => some (own, g)
  | none =>
    let best := ((s.onCore p.unit p.core).filter (fun e => (spillGroup (s.squadOn e.2)).isSome)).foldl
      (fun (a : Option Part) e =>
        match a with
        | none => some e.2
        | some b => if b.depth < e.2.depth || (b.depth == e.2.depth && decide (e.2.slot < b.slot)) then some e.2
          else some b) none
    best.bind (fun b => (spillGroup (s.squadOn b)).map (fun g => (s.squadOn b, g)))

/-- Spill groups until the file holds what stands on the part's core; `false` when nothing more can be spilled (R157). -/
def grow (s : State) (pid : Nat) : Nat → State × Bool
  | 0 => (s, false)
  | n + 1 =>
    let p := s.part pid
    if s.usedGroups p.unit p.core ≤ 2048 then (s, true)
    else
      match s.spillVictim pid with
      | some v => (s.spillSquad v.1 v.2).grow pid n
      | none => (s, false)

/-- Whether the part's registers fit after a growth request. -/
def growFits (s : State) (pid : Nat) : State × Bool := s.grow pid 4096

/-- Spill every group of the part's core that can be spilled, as a growth request does that ends in an eviction (R157). -/
def spillAll (s : State) (pid : Nat) : Nat → State
  | 0 => s
  | n + 1 =>
    match s.spillVictim pid with
    | some v => (s.spillSquad v.1 v.2).spillAll pid n
    | none => s

/-- A part of its core made a growth request before this one that is not yet taken up: it waits, or its groups are reserved and
its instruction is still to issue (R157). -/
def growAhead (s : State) (p : Part) : Bool :=
  (s.onCore p.unit p.core).any (fun e => e.2.ask != 0 && (p.ask == 0 || decide (e.2.ask < p.ask)))

/-- A departure is decided (R51); `evict` sends the part to its own unit's arrival queue (R157). -/
def depart (s : State) (pid : Nat) (d : Dest) : State :=
  s.mapPart pid (fun p => { p with st := .departing 0, dest := d })
def evict (s : State) (pid : Nat) : State := s.depart pid (.evict (s.part pid).unit)

/-- What a growth request of a part comes to. -/
inductive Grow where
  /-- Its groups stand ready. -/
  | met (s : State)
  /-- The part waits. -/
  | held (s : State)
  deriving DecidableEq, Repr

/-- The part as its growth request asks for it. -/
def asking (p : Part) (depth w fetching : Nat) : Part :=
  { p with
    depth := depth
    w := w
    fetching := fetching
    shed := p.shed + fetching }

/-- A growth request of a part at its instruction, for a depth, a window and groups to be fetched (R156, R157): met at once, or
GROWING behind an earlier request of the core or until it is evicted; the part's registers stay as they are.  `pre` is what
the instruction has written when its lower groups are spilled. -/
def growTo (s : State) (pid depth w fetching : Nat) (pre : Part → Part) : Grow :=
  let p := s.part pid
  let r := (s.setPart pid (asking (pre p) depth w fetching)).growFits pid
  if !s.growAhead p && r.2 then .met (r.1.mapPart pid (fun q => { q with depth := p.depth, w := p.w, ask := 0 }))
  else
    .held { s.setPart pid { p with st := .growing depth w fetching false, ask := if p.ask = 0 then s.ids else p.ask } with
      ids := s.ids + 1 }

/-! ### Ending squads and teams (R139, R313, R342) -/

/-- Huddle `h` of a squad in its team's barrier unit (R151). -/
def huddle (s : State) (p : Part) (h : Nat) : Huddle := Store.get Huddle.closed (s.team p.team).huddles (p.sq * 16 + h)
def setHuddle (s : State) (p : Part) (h : Nat) (e : Huddle) : State :=
  s.mapTeam p.team (fun t => { t with huddles := Store.set Huddle.closed t.huddles (p.sq * 16 + h) e })

/-- Ask for the register groups `lo` to `hi − 1` of a part, or its control record, by frame fetch: a pending result until they
arrive (R59). -/
def askFetch (s : State) (pid lo hi : Nat) (ctl : Mask) : State :=
  (s.post (.frameFetch pid lo hi ctl)).mapPart pid (fun p => { p with pend := p.pend ++ [Pend.wait s.ids] })
def startFetch (s : State) (pid lo hi : Nat) (ctl : Mask) : State :=
  (s.askFetch pid lo hi ctl).mapPart pid (fun p => { p with st := .switched })

/-- `ret` and `eret` need groups that are not resident: a growth request makes room, in place of the groups of the window that
they discard (R158), then they are fetched (R156, R227). -/
def fetchGroups (s : State) (pid lo : Nat) : State :=
  let p := s.part pid
  match s.growTo pid p.depth p.w (p.resLo - lo) id with
  | .met s1 => s1.startFetch pid lo (s1.part pid).resLo 0
  | .held s1 => s1

/-- Remove a part: its slot share and registers are freed, pending results are discarded (R139). -/
def endPart (s : State) (pid : Nat) : State := (s.setVia (s.part pid).seq none).setPart pid Part.absent

/-- Steps 2 to 5 of R313 for one squad: the kill goes to the barrier unit of the base stack, and the issuing part ends at
once. -/
def killSquad (s : State) (pid : Nat) : State :=
  let p := s.part pid
  (s.post (.kill p.team p.sq 0)).endPart pid

end State

/-! ### Trace, sampling and order logs (R399 to R403, R414, R415, R418) -/

/-- The 24 bytes of an order-log entry (R414). -/
def OEntry.bytes (e : OEntry) : List Byte :=
  leBytes 4 e.launch.toNat ++ leBytes 2 e.tx.toNat ++ leBytes 2 e.ty.toNat ++ leBytes 2 e.tz.toNat ++ leBytes 1 e.sq ++
    leBytes 1 e.kind ++ leBytes 2 e.lanes.toNat ++ leBytes 2 0 ++ leBytes 4 e.pc.toNat ++ leBytes 4 0

/-- Block of the sample and trace registers: 11 of a stack, 10 of a hub (R411). -/
def dbgOff (u off : Nat) : Nat := (if isStack u then 0xB0000 else 0xA0000) + off

namespace State

/-- Write a trace record (R403). -/
def trace (s : State) (u : Nat) (p : Part) (kind : Nat) (pc : Word) (arg : Nat) : State :=
  let ctl := s.ureg u (dbgOff u 0x100)
  let ptr := s.ureg u (dbgOff u 0x108)
  if ctl.getLsbD 0 && ctl.getLsbD (2 + kind) && !(ctl.getLsbD 1 && ptr.getLsbD 10) then
    let wr := ptr.toNat % 1024
    let rec' := leBytes 8 (s.tickAt u).toNat ++ leBytes 1 kind ++ leBytes 1 (p.prt + (if p.world then 8 else 0)) ++
      leBytes 1 p.sq ++ leBytes 1 p.core ++ leBytes 4 p.launch.toNat ++ leBytes 4 pc.toNat ++ leBytes 2 p.tx.toNat ++
      leBytes 2 p.ty.toNat ++ leBytes 2 p.tz.toNat ++ leBytes 2 p.amask.toNat ++ leBytes 4 arg
    let wrapped := !(Store.get [] s.dbg.traces (u * 1024 + wr)).isEmpty
    let full := ctl.getLsbD 1 && wr == 1023
    let s1 := { s with dbg := { s.dbg with traces := Store.set [] s.dbg.traces (u * 1024 + wr) rec' } }
    s1.setUreg u (dbgOff u 0x108) (BitVec.ofNat 64 ((wr + 1) % 1024 +
      (if full || ptr.getLsbD 10 then 1024 else 0) + (if wrapped || ptr.getLsbD 11 then 2048 else 0)))
  else s

/-- One step of the 16-bit LFSR with taps 16, 15, 13 and 4 (R399); the direction is the model's (log 11). -/
def lfsrStep (x : Nat) : Nat :=
  let y := if x = 0 then 1 else x
  let b := (y + y / 2 + y / 8 + y / 4096) % 2
  y / 2 + b * 32768

/-- The interval exponent of SMPCTLc (R411). -/
def smpK (ctl : DWord) : Nat := min 20 (max 4 (bitsOf ctl.toNat 5 1))

/-- Reload the down-counter of a core, with the LFSR's value added when JITTER = 1 (R399). -/
def smpReload (s : State) (u c : Nat) : State :=
  let ctl := s.ureg u (dbgOff u (8 * c))
  let k := smpK ctl
  let x := lfsrStep (Store.get 0 s.dbg.lfsr u)
  { s with dbg := { s.dbg with
    smpDown := Store.set 0 s.dbg.smpDown (u * 8 + c) (2 ^ k - 1 + (if ctl.getLsbD 6 then x % 2 ^ (k - 3) else 0))
    lfsr := if ctl.getLsbD 6 then Store.set 0 s.dbg.lfsr u x else s.dbg.lfsr } }

/-- Count a first issue and select one in 2^K (R399).  Bit 15 of `flags` says that the instruction's lanes combine (R65). -/
def sampleIssue (s : State) (pid : Nat) (act : Mask) (op : Nat) (flags : BitVec 16) : State :=
  let p := s.part pid
  let ctl := s.ureg p.unit (dbgOff p.unit (8 * p.core))
  if !ctl.getLsbD 0 then s
  else
    let i := p.unit * 8 + p.core
    let n := Store.get 0 s.dbg.smpDown i
    if n ≠ 0 then { s with dbg := { s.dbg with smpDown := Store.set 0 s.dbg.smpDown i (n - 1) } }
    else
      let s1 := s.smpReload p.unit p.core
      let y : Samp := ⟨s.tickAt p.unit, p.pc, op, act, [], [], 0, 0, flags &&& 0x7FFF, flags.getLsbD 15, []⟩
      s1.setPart pid { p with sample := some y }

/-- The queue fields and TOTAL of a record (R401): free cycle counts whose sum does not exceed TOTAL (log 11). -/
def queueFields (ctr total : Nat) : Nat → List Nat
  | 0 => []
  | n + 1 =>
    let q := min total (Config.sampleField ctr n)
    q :: queueFields ctr (total - q) n

/-- The 64 bytes of a record (R401). -/
def sampleBytes (s : State) (p : Part) (x : Samp) (trapped : Bool) : List Byte :=
  let total := min 0xFFFFFFFF (Config.sampleField s.ctr 6)
  let qs := queueFields s.ctr total 6
  let satq := qs.any (fun q => q == 0xFFFFFFFF)
  let fl := x.flags ||| (if trapped then 4 else 0) ||| (if satq then 32 else 0)
  leBytes 8 x.tick.toNat ++ leBytes 4 p.launch.toNat ++ leBytes 4 x.pc.toNat ++ leBytes 2 p.tx.toNat ++
    leBytes 2 p.ty.toNat ++ leBytes 2 p.tz.toNat ++ leBytes 1 (p.sq + (if p.lat then 32 else 0)) ++
    leBytes 1 (p.prt + (if p.world then 8 else 0)) ++ leBytes 2 x.op ++ leBytes 2 x.act.toNat ++
    leBytes 1 (max 1 (min 16 x.sect.length)) ++ leBytes 1 (max 1 (min 16 x.homes.length)) ++
    leBytes 1 (min 255 x.replays) ++ leBytes 1 x.last ++ qs.flatMap (leBytes 4) ++ leBytes 4 total ++
    leBytes 2 fl.toNat ++ leBytes 2 0

/-- Write a finished record to a unit's buffer of 256, or count it lost (R402). -/
def sampleWrite (s : State) (u : Nat) (r : List Byte) : State :=
  let b := Store.get [] s.dbg.smp u
  if b.length < 256 then { s with dbg := { s.dbg with smp := Store.set [] s.dbg.smp u (b ++ [r]) } }
  else s.bumpUreg u (dbgOff u 0x48) 32 1

/-- Finish the record of a part whose instruction has completed or trapped; a posted one waits for its requests
(R400). -/
def sampleDone (s : State) (pid : Nat) (trapped : Bool) (preqs : List Nat) : State :=
  let p := s.part pid
  match p.sample with
  | none => s
  | some x =>
    let r := s.sampleBytes p x trapped
    let s1 := { s.setPart pid { p with sample := none } with ctr := s.ctr + 1 }
    if preqs.isEmpty then s1.sampleWrite p.unit r
    else { s1 with dbg := { s1.dbg with smpWait := s1.dbg.smpWait ++ [⟨p.unit, r, preqs⟩] } }

/-- Note lanes performed at a home in the record under construction: home, lanes and byte addresses; COMBINED when lanes that
combine name one location (R65, R401). -/
def sampleLanes (s : State) (pid home : Nat) (as : List (Nat × Nat)) : State :=
  let p := s.part pid
  match p.sample with
  | none => s
  | some x =>
    let sect := as.foldl (fun l a => if l.contains (a.2 / 32) then l else l ++ [a.2 / 32]) x.sect
    let homes := if as.isEmpty || x.homes.contains home then x.homes else x.homes ++ [home]
    let last := as.foldl (fun m a => max m a.1) 0
    let met := x.comb && decide ((as.map Prod.snd).eraseDups.length < as.length)
    s.setPart pid { p with sample := some { x with
      sect := sect
      homes := homes
      last := if as.isEmpty then x.last else last
      flags := if met then x.flags ||| 8 else x.flags } }

/-- A replay after a park (R401 REPLAY, PARKED). -/
def sampleReplay (s : State) (pid : Nat) : State :=
  let p := s.part pid
  match p.sample with
  | none => s
  | some x => s.setPart pid { p with sample := some { x with replays := x.replays + 1, flags := x.flags ||| 2 } }

/-- The order-log entry of an event of a part (R414). -/
def orderEntry (p : Part) (kind : Nat) (lanes : Mask) (pc : Word) : OEntry :=
  ⟨p.launch, p.tx, p.ty, p.tz, p.sq, kind, lanes, pc⟩

/-- Key of a partition's order log at a home. -/
def logKey (prt home : Nat) : Nat := home * 8 + prt

/-- What is left of the order log a partition follows at a home. -/
def following (s : State) (prt home : Nat) : List Byte := Store.get [] s.dbg.follow (logKey prt home)

/-- Whether events may be performed at a home one after the other: a home that follows a log waits for its next entry (R415). -/
def orderAllowsAll (s : State) (prt home : Nat) (es : List OEntry) : Bool :=
  es.zipIdx.all (fun e =>
    let x := ((s.following prt home).drop (24 * e.2)).take 24
    x.isEmpty || x == e.1.bytes)

/-- Whether an event may be performed at a home (R415). -/
def orderAllows (s : State) (prt home : Nat) (e : OEntry) : Bool := s.orderAllowsAll prt home [e]

/-- Append an event to a home's order log in BULK mode, and advance the log it follows (R414, R415). -/
def order (s : State) (prt home : Nat) (e : OEntry) : State :=
  let d := s.dbg
  let k := logKey prt home
  let d1 := if (s.partition prt).replay == 1 then
      { d with olog := Store.set [] d.olog k (Store.get [] d.olog k ++ e.bytes) } else d
  let d2 := if (s.following prt home).isEmpty then d1 else
      { d1 with
        follow := Store.set [] d1.follow k ((s.following prt home).drop 24)
        followAt := Store.set 0 d1.followAt k (Store.get 0 d1.followAt k + 1)
        followTick := Store.set 0 d1.followTick k s.tick }
  { s with dbg := d2 }

/-- Append an event to the capture log of a partition in CAPTURE mode (R417). -/
def capture (s : State) (prt : Nat) (e : CapEv) : State :=
  let x := Store.get Replay.none s.dbg.replay prt
  if x.capturing && x.rerun == 0 then
    { s with dbg := { s.dbg with replay := Store.set Replay.none s.dbg.replay prt { x with clog := x.clog ++ [e] } } }
  else s

end State

/-! ### Taking a trap (R339 to R343) -/

/-- Cause codes (R339). -/
def causeCode : Cause → Nat
  | .none => 0 | .illegalOpcode => 1 | .illegalEncoding => 2 | .deadRead => 3 | .branchNonuniform => 4
  | .protection => 5 | .misaligned => 6 | .scratchBounds => 7 | .stationaryAccess => 8 | .copyRights => 9
  | .scrumMismatch => 10 | .spillAreaFull => 11 | .storeFaultDeferred => 12 | .remoteFault => 13
  | .remoteTimeout => 14 | .poison => 15 | .breakpoint => 16 | .tickMatch => 17 | .software => 18

/-- Causes for which TPC names the next instruction (R312). -/
def isBoundary (code : Nat) : Bool := code == 12 || code == 16 || code == 17 || code == 18

namespace State

/-- The launch of a part. -/
def launchOf (s : State) (p : Part) : Launch := s.launch (lkey p.prt p.launch)

/-- A pending result that can land at once: nothing it waits for is on its way. -/
def landable (s : State) (e : Pend) : Bool := (s.msg e.id).isNone && (match e.cond with
  | .free => true
  | .gang _ => true
  | _ => false)

/-- The part enters its handler (R341): pending results have landed, the window has slid by 8, and the pc is TRAPVEC. -/
def enterTrap (q : Part) (c : Cause) (tpc : Word) (tlm : Mask) (tva : List (Nat × DWord)) (vec : Nat) : Part :=
  { q.landAll.slideUp 8 with
    tcause := causeCode c
    tpc := tpc
    tlm := tlm
    tva := tva.foldl (fun m e => Store.set 0 m e.1 e.2) []
    h := true
    pc := BitVec.ofNat 32 vec
    umask := 0
    mi := MemOp.idle
    restrict := none
    st := .ready
    flushed := false
    shed := 0
    bpPass := none
    step := none
    trapq := none }

/-- Cause `c` of a part has no handler (R342): it is not enabled, has no vector, or comes inside a handler. -/
def unhandled (s : State) (p : Part) (c : Cause) : Bool :=
  let l := s.launchOf p
  p.h || fieldOf l.header 36 4 == 0xFFFFFFFF || !((fieldOf l.header 40 4).testBit (causeCode c)) ||
    decide (18 < causeCode c)

/-- Take cause `c` (R341): entry waits until no result is pending and its registers fit; then saved pc, lanes and addresses,
a slide of the window by 8, and the pc at TRAPVEC.  An unhandled cause ends the squad with an error record, unless a kill
has reached it (R342). -/
def takeTrap (s : State) (pid : Nat) (c : Cause) (tpc : Word) (tlm : Mask) (tva : List (Nat × DWord))
    (at' : Word) : State :=
  let p := s.part pid
  let wait := some (TrapWait.mk c tpc tlm tva at')
  if s.unhandled p c then
    let s := s.sampleDone pid true []
    if p.dying then s.endPart pid
    else
      ((s.trace p.unit p 1 at' (causeCode c + 256)).errorRecord (lkey p.prt p.launch) (s.team p.team) p.sq 5 0
        (causeCode c) at').killSquad pid
  else if !p.pend.all s.landable then s.setPart pid { p with st := .switched, trapq := wait }
  else
    match s.growTo pid (p.depth + 2) p.w 0 Part.landAll with
    | .held s1 => s1.mapPart pid (fun q => { q with trapq := wait })
    | .met s1 =>
      let s2 := s1.sampleDone pid true []
      (s2.trace p.unit p 1 at' (causeCode c)).setPart pid
        (enterTrap (s2.part pid) c tpc tlm tva (fieldOf (s.launchOf p).header 36 4))

/-- A precise trap at the part's instruction: TPC := PC (R176). -/
def trapAt (s : State) (pid : Nat) (c : Cause) (tlm : Mask) (tva : List (Nat × DWord)) : State :=
  s.takeTrap pid c (s.part pid).pc tlm tva (s.part pid).pc

end State

/-- Return from a trap (R312): DEPTH falls by 2 groups of 4, H clears, and the instruction at TPC runs once on TLM unless
the cause was a boundary cause. -/
def Part.trapReturn (p : Part) : Part :=
  let q := p.slideDown 8
  { q with
    h := false
    pc := p.tpc
    restrict := if isBoundary p.tcause then none else some p.tlm }

/-! ### Issue (R167, R169, R174) -/

/-- What an instruction's operation ends in. -/
inductive Eff where
  /-- Done: the part continues at PC + 1. -/
  | done (s : State)
  /-- Done: the part continues at a target. -/
  | jump (s : State) (pc : Word)
  /-- The part stays at the instruction, or has left its core, or has ended. -/
  | stay (s : State)
  /-- A precise trap. -/
  | trap (s : State) (c : Cause) (tlm : Mask) (tva : List (Nat × DWord))
  deriving DecidableEq, Repr

/-- The part after an instruction has completed: switch bit, counters, and the end of a restriction (R146, R312). -/
def Part.retire (p : Part) (h : Hdr) (cyc : Nat) (pc : Word) : Part :=
  { p with
    pc := pc
    umask := 0
    mi := MemOp.idle
    restrict := none
    flushed := false
    ask := 0
    shed := 0
    issues := p.issues + 1
    lastIssue := cyc
    bpPass := none
    st := if h.sw && !p.pend.isEmpty && p.st == .ready then .switched else p.st }

/-- The state after an effect. -/
def Eff.close (e : Eff) (h : Hdr) (pid : Nat) : State :=
  match e with
  | .done s => if (s.part pid).live then s.mapPart pid (fun p => p.retire h s.cyc (p.pc + 1)) else s
  | .jump s pc => if (s.part pid).live then s.mapPart pid (fun p => p.retire h s.cyc pc) else s
  | .stay s => s
  | .trap s c tlm tva => s.trapAt pid c tlm tva

/-- A completed instruction has written its destinations: their dead marks clear (R56). -/
def Eff.written (e : Eff) (pid : Nat) (dsts : List (Opnd × Bool)) : Eff :=
  match e with
  | .done s => .done (s.mapPart pid (fun p => p.undead dsts))
  | .jump s pc => .jump (s.mapPart pid (fun p => p.undead dsts)) pc
  | e => e

/-- Issue an instruction of the current part.  `srcs` and `dsts` are its register operands with their pair widths, `sp`
whether it is an implicit switch point (R145), `ill` a further encoding check against the window (R226, R228). -/
def issueW (h : Hdr) (srcs dsts : List (Opnd × Bool)) (sp : Bool) (ill : Part → Bool)
    (body : State → Part → Mask → Eff) (s : State) : Out :=
  let pid := s.cur
  let p := s.part pid
  if !p.live || p.st != .ready then .next s
  else if !p.fits (srcs ++ dsts) || ill p then .next (s.trapAt pid .illegalEncoding p.amask [])
  else
    let act := p.act h
    if act = 0 then .next (((Eff.done s).written pid dsts).close h pid)
    else if p.umask == 0 && p.anyDead srcs then .next (s.trapAt pid .deadRead act [])
    else if sp && !p.pend.isEmpty then .next (s.setPart pid { p with st := .switched })
    else .next (((body s p act).written pid dsts).close h pid)

/-- A pending result holds later instructions of classes 0x7 to 0xA (R260). -/
def Part.held (p : Part) : Bool := p.pend.any (fun e => e.hold)

/-- Issue an instruction of classes 0x7 to 0xA: while it is held, the part stays at it (R260). -/
def issueM (h : Hdr) (srcs dsts : List (Opnd × Bool)) (sp : Bool) (ill : Part → Bool)
    (body : State → Part → Mask → Eff) (s : State) : Out :=
  if (s.part s.cur).live && (s.part s.cur).st == .ready && (s.part s.cur).held then .next s
  else issueW h srcs dsts sp ill body s

/-- An instruction that only changes its part's registers. -/
def issueReg (h : Hdr) (srcs dsts : List (Opnd × Bool)) (f : Part → Mask → Part) (s : State) : Out :=
  issueW h srcs dsts false (fun _ => false) (fun s p act => .done (s.setPart s.cur (f p act))) s

/-- A long instruction that only changes its part's registers: its results become pending (R145). -/
def issueLong (h : Hdr) (srcs dsts : List (Opnd × Bool)) (f : Part → Nat → Mask → Part) (s : State) : Out :=
  issueW h srcs dsts false (fun _ => false)
    (fun s p act => .done { s.setPart s.cur (f p s.ids act) with ids := s.ids + 1 }) s

end Sys2Proof.Machine
end

