-- ==== Sys2Proof/Machine/Translate.lean ====
section
/-! DEFINITION. Address translation (R30 to R48): TLBs, lookups, the checks of R32 on a lane, parking, instruction fetch,
page walks, shootdown and the translation fault queue. -/

namespace Sys2Proof.Machine

/-! ### TLBs (R39, R40) -/

/-- Whether a TLB entry serves a VA (R39). -/
def Tlb.hits (e : Tlb) (prt : Nat) (world : Bool) (va : Nat) : Bool :=
  e.prt == prt && e.world == world && va / 2 ^ e.size == e.va

/-- Same tag: partition, world, page size and VA page. -/
def Tlb.sameTag (a b : Tlb) : Bool := a.prt == b.prt && a.world == b.world && a.size == b.size && a.va == b.va

def tlbFind (l : List Tlb) (prt : Nat) (world : Bool) (va : Nat) : Option Tlb := l.find? (fun e => e.hits prt world va)

/-- Install or touch an entry in a fully associative TLB of `cap` entries, least recently used replaced (R40). -/
def tlbPut (cap : Nat) (e : Tlb) (l : List Tlb) : List Tlb := (e :: l.filter (fun x => !x.sameTag e)).take cap

/-- Install in the stack TLB: 256 sets of 16 ways, indexed by the 8 VA bits above the page offset (R39). -/
def utlbPut (e : Tlb) (l : List Tlb) : List Tlb :=
  let rest := l.filter (fun x => !x.sameTag e)
  let inSet := rest.filter (fun x => x.va % 256 == e.va % 256)
  e :: (inSet.take 15 ++ rest.filter (fun x => !(x.va % 256 == e.va % 256)))

/-- Level of a leaf by its page size. -/
def sizeLvl (size : Nat) : Nat := (64 - size) / 12

/-- Key of a core. -/
def coreKey (u c : Nat) : Nat := u * 8 + c

/-- Whether a lookup has ended. -/
def WalkSt.over (w : WalkSt) : Bool := match w with | .failed _ _ => true | .unres => true | _ => false

namespace State

def l1 (s : State) (u c : Nat) : List Tlb := Store.get [] s.tr.l1 (coreKey u c)
def setL1 (s : State) (u c : Nat) (l : List Tlb) : State :=
  { s with tr := { s.tr with l1 := Store.set [] s.tr.l1 (coreKey u c) l } }
def utlb (s : State) (u : Nat) : List Tlb := Store.get [] s.tr.utlb u
def setUtlb (s : State) (u : Nat) (l : List Tlb) : State :=
  { s with tr := { s.tr with utlb := Store.set [] s.tr.utlb u l } }
def wtlb (s : State) (u : Nat) : List Tlb := Store.get [] s.tr.wtlb u
def setWtlb (s : State) (u : Nat) (l : List Tlb) : State :=
  { s with tr := { s.tr with wtlb := Store.set [] s.tr.wtlb u l } }
def xlat (s : State) (k : Nat) : Option Xlat := Store.get none s.tr.xlats k
def setXlat (s : State) (k : Nat) (x : Option Xlat) : State :=
  { s with tr := { s.tr with xlats := Store.set none s.tr.xlats k x } }
def xfq (s : State) (u : Nat) : Xfq := Store.get Xfq.fresh s.tr.xfq u
def setXfq (s : State) (u : Nat) (x : Xfq) : State :=
  { s with tr := { s.tr with xfq := Store.set Xfq.fresh s.tr.xfq u x } }
def shoot (s : State) (u : Nat) : Shoot := Store.get Shoot.idle s.tr.shoot u
def setShoot (s : State) (u : Nat) (x : Shoot) : State :=
  { s with tr := { s.tr with shoot := Store.set Shoot.idle s.tr.shoot u x } }

/-- The lookup a part or command has in flight for the 64 KiB page of a VA (R32). -/
def xlatFor (s : State) (who : Asker) (va : Nat) : Option Xlat :=
  (s.tr.xlats.find? (fun e => match e.2 with
    | some x => x.who == who && x.va / 65536 == va / 65536
    | none => false)).bind Prod.snd

/-- Walks of a unit in flight (R39). -/
def walking (s : State) (u : Nat) : List (Nat × Xlat) :=
  s.tr.xlats.filterMap (fun e => match e.2 with
    | some x => (match x.st with
      | .walk _ _ => if x.unit == u then some (e.1, x) else none
      | .update _ _ _ _ => if x.unit == u then some (e.1, x) else none
      | _ => none)
    | none => none)

/-- A part waits for a lookup (R40). -/
def xlatWait (s : State) (who : Asker) : Bool :=
  s.tr.xlats.any (fun e => match e.2 with
    | some x => x.who == who && !x.st.over
    | none => false)

/-- Forget the lookups of a part or command. -/
def clearXlats (s : State) (who : Asker) : State :=
  { s with tr := { s.tr with xlats := s.tr.xlats.filter (fun e => match e.2 with
      | some x => !(x.who == who)
      | none => false) } }

/-- Forget a part's lookups for the fetch of the word at `va`. -/
def clearFetch (s : State) (pid va : Nat) : State :=
  { s with tr := { s.tr with xlats := s.tr.xlats.filter (fun e => match e.2 with
      | some x => !(x.who == .part pid && x.kind == .fetch &&
          (x.va / 65536 == va / 65536 || x.va / 65536 == (va + 11) % 2 ^ 64 / 65536))
      | none => false) } }

/-- Where a walk starts: at the root, or at a table the walker keeps (R35, R39); UNRESOLVABLE when PTROOT.EN = 0. -/
def walkStart (s : State) (u prt va : Nat) (fromRoot : Bool) : WalkSt :=
  let r := s.ptroot u prt
  if !r.getLsbD 0 then .unres
  else
    let nl := if fromRoot then [] else Store.get [] s.tr.nl u
    match nl.find? (fun n => n.prt == prt && n.lvl == 4 && n.prefx == va / 2 ^ 28) with
    | some n => .walk 4 n.tbl
    | none =>
      match nl.find? (fun n => n.prt == prt && n.lvl == 3 && n.prefx == va / 2 ^ 40) with
      | some n => .walk 3 n.tbl
      | none => .walk 1 (bitsOf r.toNat 55 15 * 2 ^ 15)

/-- Lookup `k` goes on to state `st`, with its next table read or update sent (R71). -/
def sendWalk (s : State) (k : Nat) (x : Xlat) (st : WalkSt) : State :=
  { s.setXlat k (some { x with st := st, rd := s.ids }) with ids := s.ids + 1 }

/-- The walk of lookup `k`: merged with one in flight for the same partition and 64 KiB page, begun while fewer than 16 are
in flight, or still to be begun (R39, log 27). -/
def beginWalk (s : State) (k : Nat) (x : Xlat) : State :=
  match (s.walking x.unit).find? (fun e => e.1 != k && e.2.prt == x.prt && e.2.va / 65536 == x.va / 65536) with
  | some e => s.setXlat k (some { x with st := .joined e.1 })
  | none => if (s.walking x.unit).length < 16 then
      s.sendWalk k x (s.walkStart x.unit x.prt x.va false)
    else s.setXlat k (some { x with st := .probe })

/-- Lookups that the walk of lookup `k` serves: its own and those merged with it (R39). -/
def served (s : State) (k : Nat) : List (Nat × Xlat) :=
  s.tr.xlats.filterMap (fun e => match e.2 with
    | some x => if e.1 == k || x.st == .joined k then some (e.1, x) else none
    | none => none)

/-- The walk of lookup `k` ends without a leaf: every lookup it serves ends so (R35). -/
def walkFails (s : State) (k : Nat) (st : WalkSt) : State :=
  (s.served k).foldl (fun (s : State) e => s.setXlat e.1 (some { e.2 with st := st })) s

/-- Start a lookup (R40), or a walk that sets D as well (R36). -/
def askXlat (s : State) (u c prt : Nat) (world : Bool) (va : Nat) (k : AKind) (who : Asker) (lanes : Mask)
    (setD : Option Nat) : State :=
  let x : Xlat := ⟨u, c, prt, world, va, k, who, lanes, setD, .probe, 0⟩
  let s1 : State := { s with ids := s.ids + 1 }
  if setD.isNone then s1.setXlat s.ids (some x) else s1.beginWalk s.ids x

end State

/-! ### The checks of R32 -/

/-- Outcome of a lane's checks. -/
inductive Chk where
  /-- All checks passed: SPA and the key slot of its page. -/
  | ok (spa slot : Nat)
  /-- All checks passed but D is 0 (R36): SPA of the page. -/
  | needD (page : Nat)
  | fail (c : Cause)
  | drop (c : Cause)
  /-- FAULT (R46): reason, level, log₂ of the faulting page. -/
  | fault (reason lvl size : Nat)
  /-- No lookup made yet, or one in flight. -/
  | ask
  | wait
  deriving DecidableEq, Repr

/-- Kinds of access the checks distinguish. -/
structure AccK where
  k : AKind
  /-- `atp`: POISON on N = 1 (R38). -/
  at' : Bool
  deriving DecidableEq, Repr

/-- An access of an engine, checked page by page (R41). -/
def AKind.isEngine : AKind → Bool
  | .eread => true | .ewrite => true | .fill => true | _ => false

def AKind.isWrite : AKind → Bool
  | .store => true | .atomic => true | .posted => true | .ewrite => true | _ => false

/-- Group faulting lanes by page: (page number, log₂ size, VA of the lowest lane, reason, level, lanes). -/
def faultPages : List (Nat × Nat × Nat × Nat × Nat) → List (Nat × Nat × Nat × Nat × Nat × Mask)
  | [] => []
  | (l, va, r, lvl, size) :: rest =>
    let m : Mask := BitVec.ofNat 16 (2 ^ l)
    let fs := faultPages rest
    match fs.find? (fun f => f.1 == va / 2 ^ size && f.2.1 == size) with
    | some f => (f.1, size, va, r, lvl, f.2.2.2.2.2 ||| m) :: fs.filter (fun g => !(g == f))
    | none => (va / 2 ^ size, size, va, r, lvl, m) :: fs

namespace State

/-- The check of R10 on a translation: of the address for a lane, of the whole page for an engine (R41). -/
def reachOk (s : State) (prt : Nat) (a : AccK) (e : Tlb) (va : Nat) : Bool :=
  if a.k.isEngine then (granules e.spa (2 ^ e.size)).all (s.spaOk prt) else s.spaOk prt (e.spa + va % 2 ^ e.size)

/-- Steps 3 to 5 of R32 and the D rule of R36, on a translation. -/
def checkLeaf (s : State) (prt : Nat) (a : AccK) (e : Tlb) (va : Nat) : Chk :=
  let spa := e.spa + va % 2 ^ e.size
  if (a.k == .store || a.k == .atomic || a.k == .ewrite) && !e.w then .fault 1 (sizeLvl e.size) e.size
  else if a.k == .posted && !(e.w && e.p) then .drop .protection
  else if a.k == .fetch && !e.x then .fault 2 (sizeLvl e.size) e.size
  else if !s.reachOk prt a e va then (if a.k == .posted then .drop .protection else .fail .protection)
  else if e.n && (a.k == .load || a.k == .atomic || a.k == .fetch) then .fail .poison
  else if e.n && a.at' then .drop .poison
  else if a.k.isWrite && !e.d then .needD e.spa
  else .ok spa e.k

/-- The result of a lookup that has ended, or whether to wait or to ask (R35, R40).  The page of a FAULT met at level 1, 2 or
3 has no size in the spec: the model takes the 64 KiB page of the VA (R46, log 27). -/
def lookEnded (x : Option Xlat) : Chk :=
  match x with
  | none => .ask
  | some x =>
    match x.st with
    | .failed r l => .fault r l 16
    | .unres => .fail .protection
    | _ => .wait

/-- The checks of R32 on one lane's address of `w` bytes, at the core of part `p`. -/
def checkLane (s : State) (pid : Nat) (p : Part) (a : AccK) (w va : Nat) : Chk :=
  if a.k != .pass && va % w != 0 then .fail .misaligned
  else
    match tlbFind (s.l1 p.unit p.core) p.prt p.world va with
    | none => lookEnded (s.xlatFor (.part pid) va)
    | some e =>
      match s.checkLeaf p.prt a e va with
      | .needD g =>
        (match s.xlatFor (.part pid) va with
        | none => .needD g
        | x => lookEnded x)
      | c => c

/-- Ask for the next lookup that lanes need: one at a time, so that lanes of one page share it (R32). -/
def askLanes (s : State) (pid : Nat) (p : Part) (a : AccK) (w : Nat) (vs : List (Nat × Nat)) : State :=
  if vs.any (fun v => s.checkLane pid p a w v.2 == .wait) then s
  else
    match vs.findSome? (fun v => match s.checkLane pid p a w v.2 with
      | .ask => some (v.1, v.2, none)
      | .needD g => some (v.1, v.2, some g)
      | _ => none) with
    | some (l, va, d) => s.askXlat p.unit p.core p.prt p.world va a.k (.part pid) (BitVec.ofNat 16 (2 ^ l)) d
    | none => s

/-- Mark the entries lanes used as most recently used (R40). -/
def touchLanes (s : State) (p : Part) : List (Nat × Nat) → State
  | [] => s
  | (_, va) :: rest =>
    (match tlbFind (s.l1 p.unit p.core) p.prt p.world va with
    | some e => s.setL1 p.unit p.core (tlbPut 64 e (s.l1 p.unit p.core))
    | none => s).touchLanes p rest

/-- Park a part (R46): one fault for each page waits for XFQ. -/
def park (s : State) (pid : Nat) (k : AKind) (fs : List (Nat × Nat × Nat × Nat × Nat)) : State :=
  let p := s.part pid
  let q := s.xfq p.unit
  let ws : List XFault := (faultPages fs).map (fun f =>
    { prt := p.prt, launch := p.launch, sq := p.sq, va := f.2.2.1, reason := f.2.2.2.1, level := f.2.2.2.2.1, kind := k,
      who := .part pid, lanes := f.2.2.2.2.2, core := p.core, tick := s.tickAt p.unit })
  (s.setXfq p.unit { q with wait := q.wait ++ ws }).setPart pid { p with st := .parked }

/-- Whether a part has records of its park still to be answered (R48). -/
def parkedOn (s : State) (u pid : Nat) : Bool :=
  let q := s.xfq u
  q.wait.any (fun f => f.who == .part pid) || q.slots.any (fun e => e.2.busy && e.2.who == .part pid)

end State

/-! ### Instruction fetch (R166, R174, R186) -/

/-- Outcome of a fetch. -/
inductive Fetch where
  | word (w : Nat)
  | limit (va : Nat)
  | chk (va at' : Nat) (c : Chk)
  deriving DecidableEq, Repr

/-- Lanes that an instruction in progress has not performed: all of AMASK at a boundary (R339, R343). -/
def Part.left (p : Part) : Mask :=
  p.amask &&& ~~~(maskOf (fun l => p.mi.addrs.any (fun a => a.1 == l) && !p.umask.getLsbD l &&
    !p.mi.fails.any (fun f => f.1 == l)))

namespace State

/-- Key of a cached byte of a core. -/
def codeKey (p : Part) (va : Nat) : Nat := (coreKey p.unit p.core * 8 + p.prt) * 2 ^ 64 + va

/-- VA of the word at a PC (R166, R320). -/
def codeVa (s : State) (p : Part) (pc : Word) : Nat :=
  (fieldOf (s.launchOf p).packet 0 8 + 64 + 12 * pc.toNat) % 2 ^ 64

/-- Values a byte of code had since the latest `icinv` of the part's partition at its core, and the cached one (R186). -/
def codeOlds (s : State) (p : Part) (va spa : Nat) : List Byte :=
  let since := Store.get 0 s.icinvAt (coreKey p.unit p.core * 8 + p.prt)
  (Store.get none s.icache (codeKey p va)).toList ++
    ((Store.get [] s.codeOld spa).filter (fun e => decide (since ≤ e.1))).map Prod.snd

/-- One byte of code: what memory holds, or where a store has changed it any value it had (R186, log 14). -/
def codeByte (s : State) (p : Part) (va spa key : Nat) : Byte :=
  let b := s.byteK key spa
  let cs := s.codeOlds p va spa
  if cs.all (fun c => c == b) then b else (b :: cs).getD (Config.staleFetch s.cyc (codeKey p va) % (cs.length + 1)) b

/-- The bytes at `va` of one page, already checked. -/
def codeBytes (s : State) (p : Part) (va spa key : Nat) : Nat → List Byte
  | 0 => []
  | n + 1 => s.codeByte p va spa key :: s.codeBytes p (va + 1) (spa + 1) key n

/-- Check `n` bytes of code in one page (R37, R38, R166).  R38 gives POISON for a page with N = 1 only: that an uncorrectable
error in one of the bytes, or a key that is not live, is POISON too, as on a read (R259), is the model's choice (log 27). -/
def fetchChk (s : State) (pid : Nat) (p : Part) (va n : Nat) : Chk :=
  match s.checkLane pid p ⟨.fetch, false⟩ 1 va with
  | .ok spa slot =>
    let key := s.keyAt spa p.prt slot
    if key == 0 || (List.range n).any (fun i => Store.get false s.ecc ((spa + i) / 32)) then .fail .poison else .ok spa key
  | c => c

/-- Fetch `n` bytes that may straddle a 64 KiB boundary.  When both pages fault, the first is looked up and recorded, and
the second once that is answered: R166 gives no order (log 27). -/
def fetchBytes (s : State) (pid : Nat) (p : Part) (va n : Nat) : Sum (List Byte) (Nat × Chk) :=
  let n1 := min n (65536 - va % 65536)
  match s.fetchChk pid p va n1 with
  | .ok spa key =>
    let b1 := s.codeBytes p va spa key n1
    if n1 = n then .inl b1
    else
      let va2 := (va + n1) % 2 ^ 64
      (match s.fetchChk pid p va2 (n - n1) with
      | .ok spa2 key2 => .inl (b1 ++ s.codeBytes p va2 spa2 key2 (n - n1))
      | c => .inr (va2, c))
  | c => .inr (va, c)

/-- VA of entry `i` of the live-set table (R55, R320). -/
def liveVa (s : State) (p : Part) (i : Nat) : Nat :=
  (((fieldOf (s.launchOf p).packet 0 8 : Int) + num (fieldOf (s.launchOf p).header 16 4) 32 true + 4 * i) % 2 ^ 64).toNat

/-- The live-set mask of entry `i` of the part's kernel, fetched as code (R55); all ones past the table. -/
def liveMask (s : State) (pid i : Nat) : Sum (BitVec 32) Fetch :=
  let p := s.part pid
  if fieldOf (s.launchOf p).header 20 2 ≤ i then .inl 0xFFFFFFFF
  else
    match s.fetchBytes pid p (s.liveVa p i) 4 with
    | .inl bs => .inl (BitVec.ofNat 32 (leNat bs))
    | .inr x => .inr (.chk x.1 (s.liveVa p i) x.2)

/-- Fetch the word at a part's PC (R166). -/
def fetch (s : State) (pid : Nat) : Fetch :=
  let p := s.part pid
  let va := s.codeVa p p.pc
  if p.pc.toNat ≥ fieldOf (s.launchOf p).header 8 4 / 12 then .limit va
  else
    match s.fetchBytes pid p va 12 with
    | .inl bs => .word (leNat bs)
    | .inr (a, c) => .chk a va c

/-- Fill a core's cache with the bytes of the word at a VA that it does not hold (R166). -/
def fillCode (s : State) (p : Part) (va : Nat) : Nat → List Byte → State
  | _, [] => s
  | i, b :: bs =>
    let k := codeKey p (va + i)
    ({ s with icache := match Store.get none s.icache k with
        | none => Store.set none s.icache k (some b)
        | some _ => s.icache }).fillCode p va (i + 1) bs

/-- A fetched object of `n` bytes enters the core's cache, and its translations become the most recently used (R40, R166,
R186). -/
def cacheCode (s : State) (p : Part) (va : Nat) (bs : List Byte) : State :=
  (s.touchLanes p [(0, va), (0, (va + bs.length - 1) % 2 ^ 64)]).fillCode p va 0 bs

/-- The live-set entry that a pass reads enters the cache. -/
def cacheLive (s : State) (pid i : Nat) : State :=
  let p := s.part pid
  match (if fieldOf (s.launchOf p).header 20 2 ≤ i then none else some (s.fetchBytes pid p (s.liveVa p i) 4)) with
  | some (.inl bs) => s.cacheCode p (s.liveVa p i) bs
  | _ => s

/-- What follows a fetch that does not give a word: a lookup, a park, or a trap (R40, R46, R166).  `va` is the page to look
up or to report, `at'` the address of what is fetched. -/
def fetchFail (s : State) (pid : Nat) (f : Fetch) : State :=
  let p := s.part pid
  let vaAll := fun (va : Nat) => (lanesOf p.left).map (fun l => (l, BitVec.ofNat 64 va))
  match f with
  | .word _ => s
  | .limit va => s.trapAt pid .protection p.left (vaAll va)
  | .chk va at' c =>
    match c with
    | .ask => s.askXlat p.unit p.core p.prt p.world va .fetch (.part pid) p.amask none
    | .fail c => (s.clearXlats (.part pid)).trapAt pid c p.left (vaAll at')
    | .fault r lvl size =>
      (s.clearXlats (.part pid)).park pid .fetch ((lanesOf p.left).map (fun l => (l, va, r, lvl, size)))
    | _ => s

end State

/-- INSTRUCTION_FETCH (R166): the word at a part's PC is brought into the core's instruction cache. -/
def execInstructionFetch (pid : Nat) (s : State) : Out :=
  let p := s.part pid
  if !p.live || p.st != .ready || s.xlatWait (.part pid) then .next s
  else
    match s.fetch pid with
    | .word w => .next ((s.clearFetch pid (s.codeVa p p.pc)).cacheCode p (s.codeVa p p.pc) (leBytes 12 w))
    | f => .next (s.fetchFail pid f)


/-- RELAX_EXPIRE (R315). -/
def execRelaxExpire (pid : Nat) (s : State) : Out :=
  let p := s.part pid
  if p.relaxTo ≤ s.cycAt p.unit then .next (s.setPart pid { p with relaxTo := 0 }) else .next s

/-- YIELD_EXPIRE (R147). -/
def execYieldExpire (pid : Nat) (s : State) : Out :=
  let p := s.part pid
  if p.yieldTo ≤ s.cycAt p.unit then .next (s.setPart pid { p with yieldTo := 0 }) else .next s

/-! ### Probes and walks (R35, R36, R40) -/

namespace State

/-- Install a translation where its asker looks: L1 and stack TLB, or the walk-ahead and stack TLB (R40, R41). -/
def install (s : State) (x : Xlat) (e : Tlb) (walked : Bool) : State :=
  let s1 := match x.who with
    | .part _ => s.setL1 x.unit x.core (tlbPut 64 e (s.l1 x.unit x.core))
    | .entry _ _ => s.setWtlb x.unit (tlbPut 1024 e (s.wtlb x.unit))
  if walked then s1.setUtlb x.unit (utlbPut e (s1.utlb x.unit)) else s1

/-- The entry found before the stack TLB is consulted: by the ring in another core's L1 TLB (R40), by a walk-ahead lookup in
its own TLB (R41). -/
def ringFind (s : State) (x : Xlat) : Option Tlb :=
  let ring := match x.who with
    | .part _ => (List.range 8).filter (fun c => c != x.core)
    | .entry _ _ => []
  let own := match x.who with
    | .part _ => []
    | .entry _ _ => s.wtlb x.unit
  (ring.map (fun c => s.l1 x.unit c) ++ [own]).findSome? (fun l => tlbFind l x.prt x.world x.va)

/-- The entry a lookup finds without a walk: by its probe, else in the stack TLB (R40). -/
def probeFind (s : State) (x : Xlat) : Option Tlb :=
  match s.ringFind x with
  | some e => some e
  | none => tlbFind (s.utlb x.unit) x.prt x.world x.va

end State

/-- A hit copies the entry to the asker; one in the stack TLB is a use of it there (R40). -/
def State.probeHit (s : State) (x : Xlat) (e : Tlb) : State :=
  let s1 := s.install x e false
  if (s.ringFind x).isSome then s1 else s1.setUtlb x.unit (utlbPut e (s1.utlb x.unit))

/-- A lookup has no walk under way: it is at its probe, or the walk it was merged with is gone. -/
def State.atProbe (s : State) (x : Xlat) : Bool :=
  match x.st with
  | .probe => true
  | .joined k => !(s.walking x.unit).any (fun e => e.1 == k)
  | _ => false

/-- TRANSLATION_PROBE (R40): a hit is copied; otherwise, and for a walk that sets D, the walk begins (R36). -/
def execTranslationProbe (k : Nat) (s : State) : Out :=
  match s.xlat k with
  | none => .next s
  | some x =>
    if !s.atProbe x then .next s
    else
      match (if x.setD.isSome then none else s.probeFind x) with
      | some e => .next ((s.probeHit x e).setXlat k none)
      | none => .next (s.beginWalk k x)

/-- The TLB entry of a leaf (R39). -/
def leafTlb (x : Xlat) (lvl spa pte : Nat) (e : DWord) : Tlb :=
  let size := pageBits lvl
  { prt := x.prt, world := x.world, size := size, va := x.va / 2 ^ size, spa := spa / 2 ^ size * 2 ^ size
    w := e.getLsbD 1, x := e.getLsbD 2, p := e.getLsbD 3, s := e.getLsbD 4, k := bitsOf e.toNat 8 5
    n := e.getLsbD 12, d := e.getLsbD 10, pte := pte }

namespace State

/-- The walk of lookup `k` ends in leaf entry `t`: it is installed for every lookup it serves; one that needs D set walks
for it afterwards (R35, R36, R39). -/
def walkInstalls (s : State) (k : Nat) (t : Tlb) : State :=
  (s.served k).foldl (fun (s : State) e =>
    let s1 := s.install e.2 t true
    if e.1 == k || e.2.setD.isNone || t.d then s1.setXlat e.1 none else s1.setXlat e.1 (some { e.2 with st := .probe })) s

/-- A walk that a shootdown has found in flight ends: its result is discarded (R44). -/
def walkLost (s : State) (k : Nat) (x : Xlat) : State :=
  (s.setXlat k none).setShoot x.unit { s.shoot x.unit with waits := (s.shoot x.unit).waits.erase k }

/-- The walker keeps a non-leaf entry of level 2 or 3 (R39).  The spec names no replacement for this cache: the model drops the
entry kept longest, and a use does not count (log 27). -/
def keepNonLeaf (s : State) (x : Xlat) (lvl t : Nat) : State :=
  let nl := Store.get [] s.tr.nl x.unit
  let n : NonLeaf := ⟨x.prt, lvl + 1, x.va / 2 ^ (64 - 12 * lvl), t⟩
  { s with tr := { s.tr with nl := Store.set [] s.tr.nl x.unit ((n :: nl.filter (fun y => !(y == n))).take 64) } }

end State

/-- The table read or update of a lookup has reached its home (R71, R72). -/
def State.walkArrives (s : State) (x : Xlat) : Bool :=
  match x.route with
  | some v => s.flowing v && s.nextOn x.rd v
  | none => false

/-- PAGE_WALK_STEP (R35, R36, R44): one table read, on class 4 to the table's home, returns. -/
def execPageWalkStep (k : Nat) (s : State) : Out :=
  match s.xlat k with
  | none => .next s
  | some x =>
    match x.st with
    | .walk lvl tbl =>
      let lost := (s.shoot x.unit).waits.contains k
      if !s.walkArrives x then .next s
      else
        match s.walkStep x.prt x.va x.world lvl tbl with
        | .inl t => .next ((if lvl = 1 || lost then s else s.keepNonLeaf x lvl t).sendWalk k x (.walk (lvl + 1) t))
        | .inr w =>
          if lost then .next (s.walkLost k x)
          else
            match w with
            | .unres => .next (s.walkFails k .unres)
            | .fault r l => .next (s.walkFails k (.failed r l))
            | .leaf l spa pte e =>
              let t := leafTlb x l spa pte e
              let d : DWord := if x.setD == some t.spa && t.w then 1024 else 0
              let e' := e ||| 512 ||| d
              let t' := { t with d := e'.getLsbD 10 }
              .next (if e' = e then s.walkInstalls k t'
                else s.sendWalk k x (.update pte e e' t'))
    | _ => .next s

/-- AD_UPDATE (R36): the compare-and-swap of A or D at the table's home; on a mismatch the walk starts again. -/
def execAdUpdate (k : Nat) (s : State) : Out :=
  match s.xlat k with
  | none => .next s
  | some x =>
    match x.st with
    | .update pte old new t =>
      if !s.walkArrives x then .next s
      else if (s.shoot x.unit).waits.contains k then .next (s.walkLost k x)
      else if s.pteAt x.prt pte = old then
        .next (((s.pokeK (s.keyAt pte x.prt 0) pte 8 new.toNat).noteWrite x.prt none pte).walkInstalls k t)
      else .next (s.sendWalk k x (s.walkStart x.unit x.prt x.va true))
    | _ => .next s

/-! ### Shootdown (R43 to R45) -/

/-- log₂ of the page size of SDCMD.SIZE (R45). -/
def sdSize (n : Nat) : Nat := if n = 0 then 16 else if n = 1 then 28 else 40

namespace State

/-- Remove the entries a shootdown names from every TLB and the walker's cache of a unit (R44). -/
def sweep (s : State) (u : Nat) (sh : Shoot) : State :=
  let keep := fun (e : Tlb) => !(e.prt == sh.prt && (sh.all || (e.size == sh.size && e.va == sh.va / 2 ^ e.size)))
  let keepN := fun (n : NonLeaf) => !(n.prt == sh.prt && (sh.all || n.prefx == sh.va / 2 ^ (76 - 12 * n.lvl)))
  let lose := fun (e : Nat × Team) => if e.1 / 256 == u && e.2.prt == sh.prt then
      (e.1, { e.2 with ents := e.2.ents.map (fun x => { x with pages := x.pages.filter (fun g =>
        !(sh.all || (g.size == sh.size && g.va == sh.va / 2 ^ sh.size))) }) })
    else e
  { s with teams := s.teams.map lose, tr := { s.tr with
      l1 := (List.range 8).foldl (fun m c => Store.set [] m (coreKey u c) ((s.l1 u c).filter keep)) s.tr.l1
      utlb := Store.set [] s.tr.utlb u ((s.utlb u).filter keep)
      wtlb := Store.set [] s.tr.wtlb u ((s.wtlb u).filter keep)
      nl := Store.set [] s.tr.nl u ((Store.get [] s.tr.nl u).filter keepN) } }

/-- The route of a shootdown message: from the management core at hub 0 of the package (R14, R69). -/
def shootVia (u prt : Nat) : Via := ⟨unitPkg u * 32 + 16, u, prt, 4⟩

/-- Start a shootdown (R44), or set LOST while one is in progress; the message waits while its class does not flow (R72). -/
def shootdown (s : State) (u prt : Nat) (all : Bool) (va size : Nat) : State :=
  if !s.linked (shootVia u prt) then s else
  let sh := s.shoot u
  if sh.busy then s.setShoot u { sh with lost := true }
  else
    let ws := (s.tr.xlats.filter (fun e => match e.2 with
      | some x => x.unit == u && x.prt == prt && (match x.st with
        | .walk _ _ => true
        | .update _ _ _ _ => true
        | _ => false)
      | none => false)).map Prod.fst
    let ps := (s.fab.posted.filter (fun e => match e.2 with
      | some r => r.unit == u && r.prt == prt
      | none => false)).map Prod.fst
    let sh1 : Shoot := { sh with busy := true, prt := prt, all := all, va := va, size := size, waits := ws, posts := ps }
    (s.setShoot u sh1).sweep u sh1

end State

/-- SHOOTDOWN_PAGE (R44): SDCMD with GO and KIND one page; the VA is SDVA's. -/
def execShootdownPage (u part size : Nat) (s : State) : Out :=
  if 3 ≤ size then .next (s.setShoot u { s.shoot u with lost := true })
  else .next (s.shootdown u (part % 8) false (bitsOf (s.ureg u 0x20048).toNat 63 16 * 65536) (sdSize size))

/-- SHOOTDOWN_ALL (R44). -/
def execShootdownAll (u part : Nat) (s : State) : Out := .next (s.shootdown u (part % 8) true 0 0)

/-- SDCMD_INVALID (R45): a GO with a reserved KIND or SIZE, or while busy, sets LOST. -/
def execSdcmdInvalid (u : Nat) (cmd : Word) (s : State) : Out :=
  let kind := bitsOf cmd.toNat 4 3
  let bad := kind ≥ 2 || (kind == 0 && bitsOf cmd.toNat 6 5 == 3) || (s.shoot u).busy
  if cmd.getLsbD 7 && bad then .next (s.setShoot u { s.shoot u with lost := true }) else .next s

/-- SHOOTDOWN_COMPLETE (R44): the walks have ended and the posted requests are acknowledged. -/
def execShootdownComplete (u : Nat) (s : State) : Out :=
  let sh := s.shoot u
  if sh.busy && sh.waits.all (fun k => (s.xlat k).isNone) && sh.posts.all (fun k => (s.preq k).isNone) then
    .next ((s.sweep u sh).setShoot u { sh with busy := false, done := (sh.done + 1) % 65536, waits := [], posts := [] })
  else .next s

/-! ### The translation fault queue (R46 to R48) -/

/-- KIND codes (R47).  The table lists none for `pass`: the model writes 0, that of a load (log 27). -/
def AKind.code : AKind → Nat
  | .load => 0 | .store => 1 | .atomic => 2 | .posted => 3 | .fetch => 4 | .eread => 5 | .ewrite => 6 | .fill => 7
  | .pass => 0

namespace State

/-- The 32 bytes of a translation fault record (R47). -/
def xfRecord (f : XFault) (park : Nat) : List Byte :=
  leBytes 8 f.tick.toNat ++ leBytes 8 f.va ++ leBytes 2 park ++ leBytes 1 f.prt ++ leBytes 1 f.reason ++
    leBytes 1 f.kind.code ++ leBytes 1 f.level ++ leBytes 2 f.lanes.toNat ++ leBytes 4 f.launch.toNat ++
    leBytes 1 f.core ++ leBytes 1 f.sq ++ leBytes 2 0

/-- Write bytes into unit registers, eight to a word. -/
def setUregBytes (s : State) (u off : Nat) (bs : List Byte) : Nat → State
  | 0 => s
  | n + 1 => (s.setUregBytes u off bs n).setUreg u (off + 8 * n) (BitVec.ofNat 64 (leNat ((bs.drop (8 * n)).take 8)))

end State

namespace State

/-- Firmware forwards a translation fault to the partition's host, with the time by which it must be answered (R48, R365,
log 23). -/
def forward (s : State) (prt u park : Nat) (bs : List Byte) : State :=
  let s1 := s.mailOut (prt + 1) (leBytes 2 1 ++ leBytes 2 40 ++ leBytes 4 0 ++ leBytes 2 (u * 32) ++ leBytes 6 0 ++ bs)
  { s1 with mg := { s1.mg with
    service := s1.mg.service ++ [(prt, u, park, s.tick.toNat + 1900 * fieldOf (s.partition prt).desc 12 4)] } }

end State

/-- XFQ_RECORD_WRITE (R47): the oldest waiting fault goes to the slot at TAIL when that slot is free. -/
def execXfqRecordWrite (u : Nat) (s : State) : Out :=
  let q := s.xfq u
  match q.wait with
  | [] => .next s
  | f :: fs =>
    let i := q.tail % 64
    let sl := Store.get XSlot.empty q.slots i
    if sl.busy then .next s
    else
      let park := i + 64 * (sl.uses % 1024)
      let q1 := { q with
        tail := (q.tail + 1) % 128
        outst := q.outst + 1
        slots := Store.set XSlot.empty q.slots i ⟨true, sl.uses + 1, f.who, f.lanes, f.va, f.kind == .fetch⟩
        wait := fs }
      let bs := State.xfRecord f park
      .next (((s.setUregBytes u (0x21000 + 32 * i) bs 4).setXfq u q1).forward (f.prt % 8) u park bs)

/-- XFQPTR_HEAD_WRITE (R47): HEAD advances, or ERR is set when it would pass TAIL. -/
def execXfqptrHeadWrite (u head : Nat) (s : State) : Out :=
  let q := s.xfq u
  let h := head % 128
  if (h + 128 - q.head) % 128 ≤ (q.tail + 128 - q.head) % 128 then .next (s.setXfq u { q with head := h })
  else .next (s.setXfq u { q with err := true })

namespace State

/-- The outstanding record an answer names (R47). -/
def xfSlot (s : State) (u park : Nat) : Option (Nat × XSlot) :=
  let i := park % 64
  let sl := Store.get XSlot.empty (s.xfq u).slots i
  if sl.busy && (sl.uses + 1023) % 1024 == park / 64 % 1024 then some (i, sl) else none

/-- Free a record's slot (R47). -/
def xfFree (s : State) (u i : Nat) (sl : XSlot) : State :=
  let q := s.xfq u
  s.setXfq u { q with slots := Store.set XSlot.empty q.slots i { sl with busy := false }, outst := q.outst - 1 }

/-- Note the lanes a DENY names, with their addresses (R48).  The record of a fetch names every lane the instruction has left:
with an access in progress nothing is replayed before the trap. -/
def denyPart (s : State) (pid : Nat) (sl : XSlot) : State :=
  s.mapPart pid (fun p =>
    let va := fun l => if sl.fetch then BitVec.ofNat 64 sl.va
      else ((p.mi.addrs.find? (fun a => a.1 == l)).map Prod.snd).getD (BitVec.ofNat 64 sl.va)
    let ls := (lanesOf sl.lanes).map (fun l => (l, va l))
    if sl.fetch && p.mi.on then { p with trapq := some ⟨.protection, p.pc, sl.lanes, ls, p.pc⟩ }
    else { p with mi := { p.mi with denied := p.mi.denied ++ ls } })

/-- When every record of a park is answered, the part replays (R48). -/
def unpark (s : State) (u pid : Nat) : State :=
  if (s.part pid).live && (s.part pid).st == .parked && !s.parkedOn u pid then
    (s.sampleReplay pid).mapPart pid (fun p => { p with
      st := if p.pend.any (fun e => match s.msg e.id with | some (.joinReply _ _ _ _ _) => true | _ => false) then .switched
        else .ready
      lastIssue := s.cyc })
  else s

end State

end Sys2Proof.Machine
end

