-- ==== Sys2Proof/Machine/Memory.lean ====
section
/-! DEFINITION. Class 0x7 less `rrd` and `rwr`: global loads, stores, atomics, posted operations, `fence`, `drain` and
`pass` (R256 to R270), with posted requests and acknowledgements (R65 to R68). -/

namespace Sys2Proof.Machine

def widthBytes : Width → Nat
  | .w8 => 1 | .w16 => 2 | .w32 => 4 | .w64 => 8

/-- The address of a lane (R258). -/
def laneAddr (p : Part) (a : Opnd) (disp : Word) (l : Nat) : DWord :=
  BitVec.ofNat 64 (p.val 0 true a l) + disp.signExtend 64

/-- A loaded value extended to its destination (R187, R262). -/
def extend (t : IType) (x : Nat) : Nat :=
  match t.w with
  | .w64 => x
  | w => (num x (bitsW w) t.sg % 2 ^ 32).toNat

/-- The new value in memory of an atomic operation (R265). -/
def atomicNew (m : AMod) (old b : Nat) : Nat :=
  let n := if m.w64 then 64 else 32
  let o := num old n m.sg
  let y := num b n m.sg
  match m.op with
  | .add => (old + b) % 2 ^ n
  | .min => if o ≤ y then old else b % 2 ^ n
  | .max => if y ≤ o then old else b % 2 ^ n
  | .and => old &&& b
  | .or => old ||| b
  | .xor => old ^^^ b
  | .exch => b % 2 ^ n
  | .incw => if old ≥ b then 0 else old + 1
  | .decw => if old = 0 || decide (old > b) then b else old - 1
  | .fadd => (fAdd .f32 ⟨.rne, false⟩ old b).1
  | .fmin => (fMinMax .f32 false old b).1
  | .fmax => (fMinMax .f32 true old b).1

/-- Integer and bitwise operations are combined, floating-point ones never (R65). -/
def aopCombines : AOp → Bool
  | .fadd => false | .fmin => false | .fmax => false | _ => true

/-- The order has a release part (R116, R260). -/
def ordRel : Order → Bool
  | .rel => true | .ar => true | .sc => true | _ => false
def ordArSc : Order → Bool
  | .ar => true | .sc => true | _ => false
/-- The order has an acquire part: a read of it holds later instructions (R260). -/
def ordAcq : Order → Bool
  | .acq => true | .ar => true | .sc => true | _ => false

namespace State

/-! ### Outstanding posted requests (R65 to R68) -/

/-- Outstanding posted requests of a part: its own, and those of the part it has split from (R66, R68, R149).  All were issued at
its core, since a part leaves a core only after their acknowledgement (R51). -/
def outstanding (s : State) (pid : Nat) : List (Nat × PReq) :=
  s.fab.posted.filterMap (fun e => match e.2 with
    | some r => if r.owners.contains pid then some (e.1, r) else none
    | none => none)

/-- Homes with outstanding counts (R68). -/
def outHomes (s : State) (pid : Nat) : List Nat := ((s.outstanding pid).map (fun r => r.2.home)).eraseDups

/-- An earlier posted request of the part to home `u` is not yet performed (R66). -/
def postedAhead (s : State) (pid u : Nat) : Bool :=
  (s.outstanding pid).any (fun r => r.2.home == u && r.2.phase == .flight)

/-- Send FLUSH to each home with a count above zero (R68). -/
def flushAll (s : State) (pid : Nat) (p : Part) : State :=
  (s.outHomes pid).foldl (fun (s : State) h => s.post (.flushMsg pid p.unit p.core h)) s

/-- A posted fault record (R344) of a part. -/
def mkRec (s : State) (p : Part) (va : DWord) (pc : Word) (lanes : Mask) (cause kind : Nat) : FRec :=
  ⟨0, 0, s.tickAt p.unit, va, pc, lanes, p.sq, cause, kind, false⟩

/-- A record formed at the core counts as a posted request to the base stack (R346). -/
def postRecord (s : State) (pid : Nat) (p : Part) (r : FRec) : State :=
  let k := s.ids
  let q : PReq := ⟨pid, [pid], p.prt, p.team, p.sq, p.unit, p.core, p.base, .record, r.pc, [], .performed, s.cycAt p.unit, true, 0⟩
  ({ s.setPreq k (some q) with ids := k + 1 }).post (.frec p.team r (some k) (some pid))

/-- A store of a launch. -/
def storeK (s : State) (prt lk key a w x : Nat) : State := s.storeFor prt (some lk) key a w x

end State

/-! ### The lanes of a non-posted instruction (R46, R50, R259, R340) -/

/-- What a lane's access at its home comes to. -/
inductive LaneRes where
  | val (s : State) (x : Nat)
  | fail (c : Cause)
  deriving DecidableEq, Repr

/-- Descriptor of a memory instruction. -/
structure MemIns where
  k : AccK
  w : Nat
  /-- Waits for the release condition first (R260). -/
  rel : Bool
  /-- Clears RESTARTABLE (R354). -/
  clears : Bool
  /-- Opcode, for samples. -/
  op : Nat

/-- The vector registers an instruction names, as a mask (R51). -/
def opMask (os : List (Opnd × Bool)) : BitVec 32 :=
  os.foldl (fun m o => (opRegs o).foldl (fun m n => m ||| BitVec.ofNat 32 (2 ^ n)) m) 0

/-- The address latched for a lane. -/
def MemOp.addr (m : MemOp) (l : Nat) : DWord :=
  ((m.addrs.find? (fun a => a.1 == l)).map Prod.snd).getD 0

namespace State

/-- The release condition (R260, R377): wait for pending results, then for every posted count after FLUSH, then for the
lifetime of resent remote requests; none when it holds. -/
def releaseWait (s : State) (pid : Nat) : Option State :=
  let p := s.part pid
  if !p.pend.isEmpty then some (s.setPart pid { p with st := .switched })
  else if !(s.outstanding pid).isEmpty then
    some (if p.flushed then s else (s.flushAll pid p).setPart pid { p with flushed := true })
  else if (s.tickAt p.unit).toNat < p.rmHold then some s
  else none

/-- What a long instruction without an access of its own waits for (R260, R319): the results issued before it, the requests
posted before it, and the lifetime of resent remote requests. -/
def condHolds (s : State) (pid : Nat) (before : List Pend) (e : Pend) : Bool :=
  let release := before.isEmpty && (s.outstanding pid).all (fun r => decide (e.id ≤ r.1)) &&
    decide ((s.part pid).rmHold ≤ (s.tickAt (s.part pid).unit).toNat)
  match e.cond with
  | .free => true
  | .reads => before.all (fun d => d.vals.isEmpty && d.svals.isEmpty)
  | .gang _ => true
  | .release => release
  | .icinv _ => release
  | .arrive _ => release
  | .go _ _ => release

end State

/-- Whether a core (unit × 8 + core) lies in the reach of `icinv` (R319). -/
def inReach (p : Part) (reach ck : Nat) : Bool :=
  if reach = 0 then ck == coreKey p.unit p.core
  else if reach = 1 then ck / 8 == p.unit
  else if reach = 2 then unitPkg (ck / 8) == unitPkg p.unit
  else true

namespace State

/-- Cores of the domain, by unit × 8 + core. -/
def allCores (s : State) : List Nat :=
  s.mg.pkgs.flatMap (fun k => (List.range 18).flatMap (fun h => (List.range (if h < 16 then 8 else 4)).map (fun c =>
    coreKey (k * 32 + h) c)))

/-- No line of a partition remains in the caches of a reach (R319); fetches that begin afterwards read memory afresh
(R186). -/
def invalidate (s : State) (p : Part) (reach : Nat) : State :=
  { s with
    icache := s.icache.filter (fun e => !(e.1 / 2 ^ 64 % 8 == p.prt && inReach p reach (e.1 / 2 ^ 64 / 8)))
    icinvAt := (s.allCores.filter (inReach p reach)).foldl (fun m c => Store.set 0 m (c * 8 + p.prt) s.ids) s.icinvAt
    ids := s.ids + 1 }

/-- A long instruction has been issued that waits for `c`: its requests are flushed, and its completion is pending. -/
def pendCond (s : State) (pid : Nat) (c : PCond) (hold : Bool) : State :=
  let k := s.ids
  let s1 : State := { s with ids := k + 1 }
  ((if c == .reads then s1 else s1.flushAll pid (s1.part pid))).mapPart pid (fun p =>
    { p with pend := p.pend ++ [⟨k, [], [], 0, [], hold, c⟩] })

/-- A part whose last result has landed becomes READY now (R143, R147). -/
def landNow (s : State) (pid k : Nat) : State :=
  let p := s.part pid
  let q := p.landNth k
  s.setPart pid (if q.st == p.st then q else { q with lastIssue := s.cyc })

end State

/-- A message of a part whose release condition holds goes to the barrier unit, and its `k`-th pending result waits for it. -/
def State.postAt (s : State) (pid k : Nat) (m : Msg) : State :=
  (s.post m).mapPart pid (fun p => { p with pend := p.pend.set k (Pend.wait s.ids) })

/-- RESULT_LAND (R145, R146, R260, R273, R274): the `k`-th pending result of a part lands, once what it waits for has come; for `bara`
and `sgo` the message to the barrier unit is sent then. -/
def execResultLand (pid k : Nat) (s : State) : Out :=
  let p := s.part pid
  match p.pend[k]? with
  | none => .next s
  | some e =>
    if (s.msg e.id).isSome || !s.condHolds pid (p.pend.take k) e then .next s
    else
      match e.cond with
      | .icinv r => .next ((s.invalidate p r).landNow pid k)
      | .arrive b => .next (s.postAt pid k (.arrive pid p.team p.sq b p.amask false))
      | .go r n => .next (s.postAt pid k (.sgo pid p.team r n))
      | _ => .next (s.landNow pid k)

namespace State

/-- A pass to a home (R49 to R51), once the live set of the pass point is at hand (R55). -/
def passTo (s : State) (pid : Nat) (d : Dest) (lsi : Nat) (ops : BitVec 32) : State :=
  match s.liveMask pid lsi with
  | .inl m => ((s.cacheLive pid lsi).clearXlats (.part pid)).mapPart pid (fun p =>
      { p with st := .departing 0, dest := d, lsi := lsi, carry := m ||| ops })
  | .inr f => s.fetchFail pid f

/-- What a pass point waits for before it takes effect: pending results (R49, R145), and its live set (R55). -/
def passWait (s : State) (pid lsi : Nat) : Option State :=
  let p := s.part pid
  if !p.pend.isEmpty then some (s.setPart pid { p with st := .switched })
  else
    match s.liveMask pid lsi with
    | .inl _ => none
    | .inr f => some (s.fetchFail pid f)

/-- Perform lanes in ascending order; `f` performs one lane (R111). -/
def doLanes (f : State → Nat → Nat → Nat → LaneRes) (s : State) :
    List (Nat × Nat × Nat) → State × List (Nat × Nat) × List (Nat × Cause)
  | [] => (s, [], [])
  | (l, a, slot) :: rest =>
    match f s l a slot with
    | .val s1 x => let r := s1.doLanes f rest; (r.1, (l, x) :: r.2.1, r.2.2)
    | .fail c => let r := s.doLanes f rest; (r.1, r.2.1, (l, c) :: r.2.2)

/-- First issue: latch the addresses and count the sample (R258, R399). -/
def latch (s : State) (pid : Nat) (act : Mask) (addrs : List (Nat × DWord)) (op : Nat) (flags : BitVec 16) : State :=
  let p := s.part pid
  if p.mi.on then s
  else (s.sampleIssue pid act op flags).mapPart pid (fun p =>
    { p with mi := ⟨true, addrs, [], [], false⟩, umask := act })

/-- Ask the barrier unit to clear RESTARTABLE, and wait for its reply (R354). -/
def clearWait (s : State) (pid : Nat) : Option State :=
  let p := s.part pid
  if p.restartable then some (s.setPart pid { p with mi := { p.mi with sent := true } }) else none

/-- The trap of an instruction whose lanes have all been performed or have failed (R340): every failed lane, the cause of
the lowest. -/
def failTrap (s : State) (pid : Nat) (fails : List (Nat × Cause × DWord)) : Eff :=
  let lo := fails.foldl (fun (a : Option (Nat × Cause)) f =>
    match a with
    | none => some (f.1, f.2.1)
    | some b => if f.1 < b.1 then some (f.1, f.2.1) else a) none
  match lo with
  | none => .done s
  | some b => .trap (s.clearXlats (.part pid)) b.2 (maskOf (fun l => fails.any (fun f => f.1 == l)))
      (fails.map (fun f => (f.1, f.2.2)))

/-- The lanes of an instruction that a DENY has named (R48). -/
def deniedLanes (p : Part) : Mask := maskOf (fun l => p.mi.denied.any (fun d => d.1 == l))

/-- The lanes that access `l`'s location in the form of one access: all of UMASK (R262). -/
def spreadTo (p : Part) (one : Bool) (l : Nat) : List Nat := if one then lanesOf p.umask else [l]

/-- Faulting lanes with what their records name (R46): in the form of one access, every lane of UMASK (R262). -/
def faultLanes (p : Part) (one : Bool) (cs : List (Nat × Nat × Chk)) : List (Nat × Nat × Nat × Nat × Nat) :=
  cs.flatMap (fun c => match c.2.2 with
    | .fault r l z => (spreadTo p one c.1).map (fun j => (j, c.2.1, r, l, z))
    | _ => [])

/-- A lane's checks have not been concluded. -/
def undecided (cs : List (Nat × Nat × Chk)) : Bool :=
  cs.any (fun c => match c.2.2 with
    | .wait => true
    | .ask => true
    | .needD _ => true
    | _ => false)

/-- Run a non-posted instruction at the current home (R50): wait, park, perform the lanes whose home is here, and pass
with the rest.  `one`: the s form, whose access is made once (R262). `perf` performs one lane; `ents` gives the order-log
entries; `fin` writes the results of lanes. -/
def memRun (s : State) (pid : Nat) (ins : MemIns) (lsi : Nat) (ops : BitVec 32) (one : Bool)
    (perf : Part → State → Nat → Nat → Nat → LaneRes) (ents : Part → List (Nat × Nat × Nat) → List OEntry)
    (fin : Part → State → List (Nat × Nat) → State) : Eff :=
  let p := s.part pid
  match (if ins.rel then s.releaseWait pid else none) with
  | some s1 => .stay s1
  | none =>
  match (if ins.clears then s.clearWait pid else none) with
  | some s1 => .stay s1
  | none =>
    let den := deniedLanes p
    let todo := p.umask &&& ~~~den
    let ls := if one then (lanesOf todo).take 1 else lanesOf todo
    let vs := ls.map (fun l => (l, (p.mi.addr l).toNat))
    let cs := vs.map (fun v => (v.1, v.2, s.checkLane pid p ins.k ins.w v.2))
    let faults := faultLanes p one cs
    if undecided cs then .stay (s.askLanes pid p ins.k ins.w vs)
    else if !faults.isEmpty then .stay ((s.clearXlats (.part pid)).park pid ins.k.k faults)
    else
      let oks := cs.filterMap (fun c => match c.2.2 with | .ok a k => some (c.1, a, k) | _ => none)
      let here := oks.filter (fun o => spaUnit o.2.1 == p.unit)
      let there := oks.filter (fun o => spaUnit o.2.1 != p.unit)
      let es := ents p here
      match (if there.isEmpty then none else s.passWait pid lsi) with
      | some s1 => .stay s1
      | none =>
      if !here.isEmpty && s.postedAhead pid p.unit then .stay s
      else if !s.orderAllowsAll p.prt p.unit es then .stay s
      else
        let s1 := (s.clearXlats (.part pid)).touchLanes p vs
        let s2 := es.foldl (fun (s : State) e => s.order p.prt p.unit e) s1
        let r := doLanes (perf p) s2 here
        let s3 := fin p (r.1.sampleLanes pid p.unit (here.flatMap (fun o => (spreadTo p one o.1).map (fun l => (l, o.2.1))))) r.2.1
        let spread := fun (l : Nat) (c : Cause) => (spreadTo p one l).map (fun j => (j, c, p.mi.addr l))
        let fs := cs.flatMap (fun c => match c.2.2 with
          | .fail x => spread c.1 x
          | .drop x => spread c.1 x
          | _ => []) ++ r.2.2.flatMap (fun f => spread f.1 f.2)
        let rest := if one then (if there.isEmpty then 0 else p.umask) else maskOf (fun l => there.any (fun o => o.1 == l))
        let fails := p.mi.fails ++ fs
        let s4 := s3.mapPart pid (fun q => { q with
          mi := { q.mi with fails := fails }
          umask := if rest = 0 then den else rest ||| den })
        match there with
        | o :: _ => .stay (s4.passTo pid (.unit (spaUnit o.2.1)) lsi ops)
        | [] =>
          let all := fails ++ p.mi.denied.map (fun d => (d.1, Cause.protection, d.2))
          if all.isEmpty then .done (s4.sampleDone pid false []) else s4.failTrap pid all

end State


/-! ### Loads, stores, atomics, `cas` -/

/-- Order-log entries of the atomic elements performed here: lanes of one location combine when `comb` (R414, R65). -/
def atomEnts (comb : Bool) (p : Part) : List (Nat × Nat × Nat) → List OEntry :=
  fun os =>
    if comb then
      ((os.map (fun o => o.2.1)).eraseDups).map (fun a =>
        State.orderEntry p 2 (maskOf (fun l => os.any (fun o => o.1 == l && o.2.1 == a))) p.pc)
    else os.map (fun o => State.orderEntry p 2 (BitVec.ofNat 16 (2 ^ o.1)) p.pc)

namespace State

/-- A read of `w` bytes at its home: POISON on an uncorrectable error or a revoked key (R259). -/
def loadAt (s : State) (prt a w slot : Nat) : LaneRes :=
  let key := s.keyAt a prt slot
  if key == 0 || Store.get false s.ecc (a / 32) then .fail .poison
  else .val { s with ctr := s.ctr + 1 } (s.peekK key a w)

/-- Results of lanes become a pending write of the destination, whose dead marks clear (R56, R145); `hold` when it holds
later instructions (R260). -/
def landLater (s : State) (pid : Nat) (d : Opnd) (w64 hold : Bool) (rs : List (Nat × Nat)) : State :=
  if rs.isEmpty then s
  else
    let p := (s.part pid).undead [(d, w64)]
    let q := match d with
      | .v n =>
        let vs := rs.flatMap (fun r =>
          let lo := (p.absReg n.val, r.1, BitVec.ofNat 32 r.2)
          if w64 then [lo, (p.absReg (n.val + 1), r.1, BitVec.ofNat 32 (r.2 / 2 ^ 32))] else [lo])
        { p with pend := p.pend ++ [⟨s.ids, vs, [], 0, [], hold, .free⟩] }
      | .s n =>
        let x := (rs.headD (0, 0)).2
        let lo := (n.val, BitVec.ofNat 32 x)
        let vs := if w64 then [lo, (n.val + 1, BitVec.ofNat 32 (x / 2 ^ 32))] else [lo]
        { p with pend := p.pend ++ [⟨s.ids, [], vs, 0, [], hold, .free⟩] }
      | _ => p
    { s.setPart pid q with ids := s.ids + 1 }

end State

def Opnd.isS' : Opnd → Bool | .s _ => true | _ => false

/-- `ld` (R262). -/
def execLd (h : Hdr) (m : Acc) (d a : Opnd) (disp : Word) (s : State) : Out :=
  let w := widthBytes m.t.w
  let w64 := m.t.w == .w64
  issueM h [(a, true)] [(d, w64)] false (fun _ => false)
    (fun s p act =>
      let s1 := s.latch s.cur act ((lanesOf act).map (fun l => (l, laneAddr p a disp l))) 0x1C0 0
      s1.memRun s.cur ⟨⟨.load, false⟩, w, (ordArSc m.ord), false, 0x1C0⟩ h.lsi.val (opMask [(a, true), (d, w64)])
        (Opnd.isS' d)
        (fun p s _ ad k => s.loadAt p.prt ad w k) (fun _ _ => [])
        (fun _ s rs => s.landLater s.cur d w64 (ordAcq m.ord) (rs.map (fun r => (r.1, extend m.t r.2))))) s

/-- The record of `st` lanes whose key slot is revoked: one for the lanes of a home (R259, R345). -/
def State.stRecord (s : State) (pid : Nat) (p : Part) (rs : List (Nat × Nat)) : State :=
  match rs.filter (fun r => r.2 == 1) with
  | [] => s
  | x :: xs => s.postRecord pid p (s.mkRec p (p.mi.addr x.1) p.pc (maskOf (fun l => (x :: xs).any (fun r => r.1 == l))) 5 0)

/-- `st` (R263). -/
def execSt (h : Hdr) (m : Acc) (a b : Opnd) (disp : Word) (s : State) : Out :=
  let w := widthBytes m.t.w
  let w64 := m.t.w == .w64
  issueM h [(a, true), (b, w64)] [] false (fun _ => false)
    (fun s p act =>
      let s1 := s.latch s.cur act ((lanesOf act).map (fun l => (l, laneAddr p a disp l))) 0x1C1 0
      s1.memRun s.cur ⟨⟨.store, false⟩, w, (ordRel m.ord), m.ord == .rel || m.ord == .sc, 0x1C1⟩ h.lsi.val
        (opMask [(a, true), (b, w64)]) false
        (fun p s l ad k =>
          let key := s.keyAt ad p.prt k
          if key == 0 then .val s 1
          else .val (s.storeK p.prt (State.lkey p.prt p.launch) key ad w (p.val 0 w64 b l)) 0)
        (fun _ _ => []) (fun p s rs => s.stRecord s.cur p rs)) s

/-- `atm` (R266). -/
def execAtm (h : Hdr) (m : AMod) (d a b : Opnd) (disp : Word) (s : State) : Out :=
  let w := if m.w64 then 8 else 4
  issueM h [(a, true), (b, m.w64)] [(d, m.w64)] false (fun _ => false)
    (fun s p act =>
      let s1 := s.latch s.cur act ((lanesOf act).map (fun l => (l, laneAddr p a disp l))) 0x1C3
        (if aopCombines m.op then 0x8000 else 0)
      s1.memRun s.cur ⟨⟨.atomic, false⟩, w, (ordRel m.ord), true, 0x1C3⟩ h.lsi.val
        (opMask [(a, true), (b, m.w64), (d, m.w64)]) false
        (fun p s l ad k =>
          match s.loadAt p.prt ad w k with
          | .fail c => .fail c
          | .val s1 x => .val (s1.storeK p.prt (State.lkey p.prt p.launch) (s1.keyAt ad p.prt k) ad w
              (atomicNew m x (if (aopCombines m.op) then p.val 0 m.w64 b l else p.valF 0 .f32 b l))) x)
        (atomEnts (aopCombines m.op)) (fun _ s rs => s.landLater s.cur d m.w64 (ordAcq m.ord) rs)) s

/-- `cas` (R267). -/
def execCas (h : Hdr) (m : Acc) (d a b : Opnd) (disp : Word) (s : State) : Out :=
  let w := widthBytes m.t.w
  let w64 := m.t.w == .w64
  issueM h [(a, true), (b, w64), (d, w64)] [(d, w64)] false (fun _ => false)
    (fun s p act =>
      let s1 := s.latch s.cur act ((lanesOf act).map (fun l => (l, laneAddr p a disp l))) 0x1C5 0
      s1.memRun s.cur ⟨⟨.atomic, false⟩, w, (ordRel m.ord), true, 0x1C5⟩ h.lsi.val
        (opMask [(a, true), (b, w64), (d, w64)]) false
        (fun p s l ad k =>
          match s.loadAt p.prt ad w k with
          | .fail c => .fail c
          | .val s1 x =>
            if x = p.val 0 w64 d l then
              .val (s1.storeK p.prt (State.lkey p.prt p.launch) (s1.keyAt ad p.prt k) ad w (p.val 0 w64 b l)) x
            else .val s1 x)
        (atomEnts false) (fun _ s rs => s.landLater s.cur d w64 (ordAcq m.ord) rs)) s

/-! ### Posted stores and atomics (R65, R264, R266) -/

/-- Add a lane's element to a request, combining with an element of the same location (R65). -/
def addElem (comb : Bool) (e : PElem) : List PElem → List PElem
  | [] => [e]
  | x :: xs => if comb && x.spa == e.spa then { x with vals := x.vals ++ e.vals } :: xs else x :: addElem comb e xs

/-- One request for each home, lanes in ascending order (R65). -/
def groupHomes (comb : Bool) : List (Nat × PElem) → List (Nat × List PElem) → List (Nat × List PElem)
  | [], gs => gs
  | (h, e) :: rest, gs =>
    let gs1 := if gs.any (fun g => g.1 == h) then gs.map (fun g => if g.1 == h then (h, addElem comb e g.2) else g)
      else gs ++ [(h, [e])]
    groupHomes comb rest gs1

namespace State

/-- The lanes dropped at the core for a cause. -/
def droppedFor (cs : List (Nat × Nat × Chk)) (x : Cause) : Mask :=
  maskOf (fun l => cs.any (fun c => c.1 == l && c.2.2 == .drop x))

/-- The records of the lanes of a posted instruction that are dropped at the core: one for each cause (R345). -/
def dropRecs (s : State) (p : Part) (cs : List (Nat × Nat × Chk)) (code : Nat) : List FRec :=
  ([Cause.protection, Cause.poison].filter (fun x => droppedFor cs x != 0)).map (fun x =>
    s.mkRec p (p.mi.addr ((lanesOf (droppedFor cs x)).headD 0)) p.pc (droppedFor cs x) (causeCode x) code)

def postRecords (s : State) (pid : Nat) (p : Part) (rs : List FRec) : State :=
  rs.foldl (fun (s : State) r => s.postRecord pid p r) s

/-- Run a posted instruction (R37, R65, R68, R264).  When a lane parks, the lanes dropped leave the unfinished mask, with
their records (R46). -/
def postRun (s : State) (pid : Nat) (a : AccK) (w : Nat) (kind : PKind) (code : Nat) (clears comb : Bool)
    (elem : Part → Nat → Nat → Nat → PElem) : Eff :=
  let p := s.part pid
  match (if clears then s.clearWait pid else none) with
  | some s1 => .stay s1
  | none =>
    let vs := (lanesOf (p.umask &&& ~~~deniedLanes p)).map (fun l => (l, (p.mi.addr l).toNat))
    let cs := vs.map (fun v => (v.1, v.2, s.checkLane pid p a w v.2))
    let faults := faultLanes p false cs
    if undecided cs then .stay (s.askLanes pid p a w vs)
    else
      let recs := s.dropRecs p cs code
      let oks := if !faults.isEmpty then [] else
        cs.filterMap (fun c => match c.2.2 with | .ok x k => some (spaUnit x, elem p c.1 x k) | _ => none)
      let groups := groupHomes comb oks []
      let homes := (s.outHomes pid ++ groups.map Prod.fst ++ (if recs.isEmpty then [] else [p.base])).eraseDups
      if 16 < homes.length then .stay s
      else if !faults.isEmpty then
        let gone := maskOf (fun l => cs.any (fun c => c.1 == l && (match c.2.2 with | .drop _ => true | _ => false)))
        .stay ((((s.postRecords pid p recs).mapPart pid (fun q => { q with umask := q.umask &&& ~~~gone })).clearXlats
          (.part pid)).park pid a.k faults)
      else
        let s0 := (s.clearXlats (.part pid)).touchLanes p vs
        let s1 := (groups.foldl (fun (s : State) g => s.sampleLanes pid g.1
          (g.2.flatMap (fun e => e.vals.map (fun v => (v.1, e.spa))))) s0)
        let k0 := s1.ids
        let s2 := groups.foldl (fun (s : State) g => s.postReq pid p g.1 kind p.pc g.2) s1
        let s3 := s2.postRecords pid p recs
        let fails := cs.filterMap (fun c => match c.2.2 with
          | .fail x => some (c.1, x, p.mi.addr c.1)
          | _ => none) ++ p.mi.denied.map (fun d => (d.1, Cause.protection, d.2))
        if fails.isEmpty then .done (s3.sampleDone pid false ((List.range groups.length).map (fun i => k0 + i)))
        else s3.failTrap pid fails

end State

/-- `stp` (R264). -/
def execStp (h : Hdr) (w : Width) (a b : Opnd) (disp : Word) (s : State) : Out :=
  issueM h [(a, true), (b, w == .w64)] [] false (fun _ => false)
    (fun s p act =>
      let s1 := s.latch s.cur act ((lanesOf act).map (fun l => (l, laneAddr p a disp l))) 0x1C2 1
      s1.postRun s.cur ⟨.posted, false⟩ (widthBytes w) .stp 0 false false
        (fun p l x k => ⟨p.mi.addr l, x, widthBytes w, none, [(l, BitVec.ofNat 64 (p.val 0 (w == .w64) b l))], k⟩)) s

/-- `atp` (R266). -/
def execAtp (h : Hdr) (m : AMod) (a b : Opnd) (disp : Word) (s : State) : Out :=
  let w := if m.w64 then 8 else 4
  issueM h [(a, true), (b, m.w64)] [] false (fun _ => false)
    (fun s p act =>
      let s1 := s.latch s.cur act ((lanesOf act).map (fun l => (l, laneAddr p a disp l))) 0x1C4
        (if aopCombines m.op then 0x8001 else 1)
      s1.postRun s.cur ⟨.posted, true⟩ w .atp 1 true (aopCombines m.op)
        (fun p l x k => ⟨p.mi.addr l, x, w, some m, [(l, BitVec.ofNat 64
          (if (aopCombines m.op) then p.val 0 m.w64 b l else p.valF 0 .f32 b l))], k⟩)) s

/-! ### `fence`, `drain`, `pass` (R268 to R270) -/

/-- `fence` (R260, R268): long; its completion waits for the release condition, or for earlier reads, and holds later
instructions meanwhile. -/
def execFence (h : Hdr) (ord : Order) (_scope : Scope) (_cp _mx : Bool) (s : State) : Out :=
  issueM h [] [] false (fun _ => false)
    (fun s _ _ => .done (s.pendCond s.cur (if ordRel ord then .release else .reads) true)) s

/-- A deferral notice of a part is on its way. -/
def State.deferComing (s : State) (pid : Nat) : Bool :=
  s.fab.msgs.any (fun e => e.2 == some (.deferral pid))

/-- `drain` (R269, R347, R377): every posted count is zero and every fault record's notice has come. -/
def execDrain (h : Hdr) (s : State) : Out :=
  issueM h [] [] false (fun _ => false)
    (fun s p _ =>
      if (s.outstanding s.cur).isEmpty then
        (if (s.tickAt p.unit).toNat < p.rmHold || s.deferComing s.cur then .stay s else .done s)
      else .stay (if p.flushed then s else (s.flushAll s.cur p).setPart s.cur { p with flushed := true })) s

/-- A pass at an instruction boundary: the part departs with PC at the next instruction (R446). -/
def passNext (s : State) (pid : Nat) (u lsi : Nat) : Eff :=
  match s.passWait pid lsi with
  | none => .done (s.passTo pid (.unit u) lsi 0)
  | some s1 => .stay s1

/-- `pass` (R270): a switch point, in place too (R49). -/
def execPass (h : Hdr) (a : Option Opnd) (disp : Word) (s : State) : Out :=
  issueM h (match a with | none => [] | some o => [(o, true)]) [] true (fun _ => false)
    (fun s p act =>
      match a with
      | none => if p.base = p.unit then .done s else passNext s s.cur p.base h.lsi.val
      | some o =>
        let l := (lanesOf act).headD 0
        let s1 := if p.mi.on then s else s.mapPart s.cur (fun p =>
          { p with mi := ⟨true, [(l, laneAddr p o disp l)], [], [], false⟩, umask := BitVec.ofNat 16 (2 ^ l) })
        let p1 := s1.part s.cur
        let va := p1.mi.addr l
        if !p1.mi.denied.isEmpty then
          .trap (s1.clearXlats (.part s.cur)) .protection (State.deniedLanes p1) p1.mi.denied
        else
          match s1.checkLane s.cur p1 ⟨.pass, false⟩ 1 va.toNat with
          | .ok x _ =>
            let s2 := (s1.clearXlats (.part s.cur)).touchLanes p1 [(l, va.toNat)]
            if spaUnit x = p.unit then .done s2 else passNext s2 s.cur (spaUnit x) h.lsi.val
          | .fault r lv z => .stay ((s1.clearXlats (.part s.cur)).park s.cur .pass [(l, va.toNat, r, lv, z)])
          | .fail c => .trap (s1.clearXlats (.part s.cur)) c (BitVec.ofNat 16 (2 ^ l)) [(l, va)]
          | _ => .stay (s1.askLanes s.cur p1 ⟨.pass, false⟩ 1 [(l, va.toNat)])) s

/-! ### Posted requests at their homes (R66, R67, R259, R345) -/

/-- The lanes of failed elements of one cause. -/
def failLanes (fs : List (Cause × PElem)) (c : Cause) : Mask :=
  maskOf (fun l => fs.any (fun f => f.1 == c && f.2.vals.any (fun v => v.1 == l)))

namespace State

/-- Perform one element of a launch, or of a spill; the cause when it cannot be performed (R259, R418). -/
def performElem (s : State) (prt : Nat) (lk : Option Nat) (e : PElem) : State × Option Cause :=
  let key := s.keyAt e.spa prt e.slot
  match e.aop with
  | none =>
    if key == 0 then (s, some .protection)
    else (e.vals.foldl (fun (s : State) v => s.storeFor prt lk key e.spa e.w v.2.toNat) s, none)
  | some m =>
    if key == 0 || Store.get false s.ecc (e.spa / 32) then (s, some .poison)
    else (e.vals.foldl (fun (s : State) v =>
      { s.storeFor prt lk key e.spa e.w (atomicNew m (s.peekK key e.spa e.w) v.2.toNat) with ctr := s.ctr + 1 }) s, none)

/-- Perform the elements of a request in order; failed elements by cause. -/
def performElems (s : State) (prt : Nat) (lk : Option Nat) : List PElem → State × List (Cause × PElem)
  | [] => (s, [])
  | e :: es =>
    let r := s.performElem prt lk e
    let t := r.1.performElems prt lk es
    (t.1, match r.2 with | none => t.2 | some c => (c, e) :: t.2)

/-- Requests of the same squad and core to the same home that are still in flight and were issued earlier (R66). -/
def earlierInFlight (s : State) (k : Nat) (r : PReq) : Bool :=
  s.fab.posted.any (fun e => decide (e.1 < k) && (match e.2 with
    | some q => q.phase == .flight && q.team == r.team && q.sq == r.sq && q.unit == r.unit && q.core == r.core &&
        q.home == r.home
    | none => false))

/-- Requests of a part that a home has performed and not acknowledged (R67). -/
def unacked (s : State) (pid home : Nat) : List (Nat × PReq) :=
  (s.outstanding pid).filter (fun e => e.2.phase == .performed && !e.2.viaRec && e.2.home == home)

/-- The home sends the acknowledgement of performed requests, on class 4 (R67, R69). -/
def acknowledge (s : State) (rs : List (Nat × PReq)) : State :=
  rs.foldl (fun (s : State) r =>
    { (s.setPreq r.1 (some { r.2 with phase := .acking, ack := s.ids })).setVia s.ids
        (some ⟨r.2.home, r.2.unit, r.2.prt, 4⟩) with ids := s.ids + 1 }) s

end State

/-- The partition and launch of a request, from its team. -/
def State.reqLaunch (s : State) (r : PReq) : Nat × Nat :=
  let t := s.team r.team
  (t.prt, State.lkey t.prt t.launch)

namespace State

/-- The order-log entry of a posted request (R414). -/
def preqEntry (s : State) (r : PReq) : OEntry :=
  let t := s.team r.team
  ⟨t.launch, t.tx, t.ty, t.tz, r.sq, 1, maskOf (fun l => r.elems.any (fun e => e.vals.any (fun v => v.1 == l))), r.pc⟩

/-- A home performs a request: its elements in order, one record for each cause among those it cannot perform, and the
acknowledgement when 32 performed requests of the part wait for one (R66, R67, R345). -/
def performReq (s : State) (k : Nat) (r : PReq) : State :=
  let s0 := if r.kind == .spill then s else s.order r.prt r.home (s.preqEntry r)
  let w := s0.performElems r.prt (if r.kind == .spill then none else some (s.reqLaunch r).2) r.elems
  let fs := if r.kind == .spill then [] else w.2
  let code := if r.kind == .atp then 1 else 0
  let recs := ([Cause.protection, Cause.poison].filter (fun c => failLanes fs c != 0)).map (fun c =>
    (⟨0, 0, s.tickAt r.home, ((fs.find? (fun f => f.1 == c)).map (fun f => f.2.va)).getD 0, r.pc, failLanes fs c, r.sq,
      causeCode c, code, false⟩ : FRec))
  let s1 := w.1.setPreq k (some { r with phase := .performed, doneAt := s.cycAt r.home, viaRec := !recs.isEmpty })
  let s2 := recs.foldl (fun (s : State) x => s.post (.frec r.team x (some k) (some r.pid))) (s1.setVia k none)
  let un := s2.unacked r.pid r.home
  if 32 ≤ un.length then s2.acknowledge un else s2

end State

/-- POSTED_REQUEST (R66, R67, R71, R345, R414): a request arrives at its home; one that the home's order log must wait for
stays there. -/
def execPostedRequest (k : Nat) (s : State) : Out :=
  match s.preq k with
  | none => .next s
  | some r =>
    if r.phase != .flight || r.kind == .rwr || !s.arrives k || s.earlierInFlight k r then .next s
    else if r.kind != .spill && !s.orderAllows r.prt r.home (s.preqEntry r) then .next (s.landed k)
    else .next (s.performReq k r)

/-- ACK_TIMER (R67): 128 cycles after the oldest unacknowledged performance. -/
def execAckTimer (pid u : Nat) (s : State) : Out :=
  let rs := s.unacked pid u
  if rs.any (fun r => decide (r.2.doneAt + 128 ≤ s.cycAt u)) then .next (s.acknowledge rs) else .next s

/-- FLUSH (R67): the home acknowledges once every earlier request of the part from that core is performed. -/
def execFlush (k : Nat) (s : State) : Out :=
  match s.msg k with
  | some (.flushMsg pid _ _ home) =>
    if !s.arrives k then .next s
    else if (s.outstanding pid).any (fun e => e.2.home == home && decide (e.1 < k) && e.2.phase == .flight) then
      .next (s.landed k)
    else .next ((s.acknowledge ((s.unacked pid home).filter (fun e => decide (e.1 < k)))).dropMsg k)
  | _ => .next s

/-- The highest lane of a posted request. -/
def PReq.highLane (r : PReq) : Nat := (r.elems.flatMap (fun e => e.vals)).foldl (fun m v => max m v.1) 0

/-- A request is acknowledged: the count falls, and a waiting sample record may end, with LAST from the lanes completed last (R68,
R400, R401). -/
def State.release (s : State) (k : Nat) : State :=
  let hi := ((s.preq k).map PReq.highLane).getD 0
  let s1 := s.setPreq k none
  let free := fun (w : SampWait) => w.preqs.all (fun i => (s1.preq i).isNone)
  let s2 := { s1 with dbg := { s1.dbg with smpWait := s1.dbg.smpWait.filter (fun w => !free w) } }
  (s1.dbg.smpWait.filter free).foldl (fun (s : State) w => s.sampleWrite w.unit (w.body.set 31 (BitVec.ofNat 8 hi))) s2

/-- RESTARTABLE_CLEAR (R354): the barrier unit clears the team's bit and replies; the core clears its copy. -/
def execRestartableClear (pid : Nat) (s : State) : Out :=
  let p := s.part pid
  if p.live && p.mi.sent && p.restartable then
    .next ((s.mapTeam p.team (fun t => { t with restartable := false })).setPart pid
      { p with restartable := false, mi := { p.mi with sent := false } })
  else .next s

end Sys2Proof.Machine
end

