-- ==== Sys2Proof/Machine/Control.lean ====
section
/-! DEFINITION. Class 0x3, control instructions (R219 to R228), with splits (R149) and the register window (R155). -/

namespace Sys2Proof.Machine

/-- The branch condition on the lanes of `act` (R221). -/
def brMask (p : Part) (neg : Bool) (n : Fin 8) (act : Mask) : Mask :=
  (if neg then ~~~ (p.pred n.val) else p.pred n.val) &&& act

/-- `br` (R149, R221). -/
def execBr (h : Hdr) (neg : Bool) (n : Fin 8) (off : Word) (s : State) : Out :=
  issueW h [] [] false (fun _ => false)
    (fun s p act =>
      let c := brMask p neg n act
      if c = act then .jump s (p.pc + off)
      else if c = 0 then .done s
      else .trap s .branchNonuniform act []) s

/-- Split depth (R150). -/
def Part.sdepth (p : Part) : Nat := p.split.toNat % 16

/-- SPLIT with depth `d` and path bit 4 + `lvl` set to `side` (R149, R150). -/
def splitWord (x : Word) (d lvl : Nat) (side : Bool) : Word :=
  let y := (x &&& 0xFFFFFFF0) ||| BitVec.ofNat 32 d
  let b := BitVec.ofNat 32 (2 ^ (4 + lvl))
  if side then y ||| b else y &&& ~~~b

/-- The lanes of `m` of a part: a part after a split owns its own lanes (R142). -/
def Part.keepLanes (p : Part) (m : Mask) : Part :=
  { p with amask := m, vregs := p.vregs.filter (fun e => m.getLsbD (e.1 % 16)) }

/-- Part `new` has split from part `old`: requests posted before count as both parts', which R149 leaves open (log 28). -/
def State.shareReqs (s : State) (old new : Nat) : State :=
  { s with fab := { s.fab with posted := s.fab.posted.map (fun e => (e.1, e.2.map (fun r =>
      if r.owners.contains old then { r with owners := r.owners ++ [new] } else r))) } }

/-- The split of R149: the fall-through part keeps the part's number, the taken part gets a new one in the same slot. -/
def splitPart (s : State) (h : Hdr) (p : Part) (taken : Mask) (off : Word) (d lvl : Nat) : State :=
  let rest := p.amask &&& ~~~taken
  let f := ({ p.keepLanes rest with split := splitWord p.split d lvl false }).retire h s.cyc (p.pc + 1)
  let t := ({ p.keepLanes taken with
    split := splitWord p.split d lvl true
    defer := 0
    step := none }).retire h s.cyc (p.pc + off)
  { (((s.setPart s.cur f).setPart s.ids t).shareReqs s.cur s.ids) with ids := s.ids + 1 }

/-- `brd` (R149, R222). -/
def execBrd (h : Hdr) (neg : Bool) (n : Fin 8) (hud : Fin 16) (off : Word) (s : State) : Out :=
  issueW h [] [] true (fun _ => false)
    (fun s p act =>
      let c := brMask p neg n act
      let d := p.sdepth
      let e := s.huddle p hud.val
      if c = act then .jump s (p.pc + off)
      else if c = 0 then .done s
      else if !e.isOpen then
        if d = 15 then .trap s .branchNonuniform act []
        else .stay (splitPart (s.setHuddle p hud.val ⟨p.amask, 0, d, 0, false, true, 0⟩) h p c off (d + 1) d)
      else if e.level + 1 = d then .stay (splitPart s h p c off d e.level)
      else .trap s .branchNonuniform act []) s

/-- `jmp` (R221). -/
def execJmp (h : Hdr) (off : Word) (s : State) : Out :=
  issueW h [] [] false (fun _ => false) (fun s p _ => .jump s (p.pc + off)) s

/-- The common value of an operand on some lanes; none when it differs, which only a vector can (R221, R226). -/
def uniformVal (p : Part) (c : Word) (a : Opnd) (m : Mask) : Option Word :=
  let ls := lanesOf m
  let x := p.val c false a (ls.headD 0)
  match a with
  | .v _ => if ls.all (fun l => p.val c false a l == x) then some (BitVec.ofNat 32 x) else none
  | _ => some (BitVec.ofNat 32 x)

/-- `jmpi` (R221). -/
def execJmpi (h : Hdr) (a : Opnd) (c : Word) (s : State) : Out :=
  issueW h [(a, false)] [] false (fun _ => false)
    (fun s p act =>
      match uniformVal p c a act with
      | some t => .jump s t
      | none => .trap s .branchNonuniform act []) s

/-- Register groups a spill area holds (R58). -/
def Part.spillCap (p : Part) : Nat := (p.spillu * 65536 - 256) / 256

/-- The link of a call that slides by `n` registers, in the caller's v(n − 1) (R226): it stands there before the caller's groups
can be spilled. -/
def Part.linked (n : Nat) (link : Word) (p : Part) : Part :=
  (lanesOf p.amask).foldl (fun (q : Part) l => q.writeAbs (4 * p.depth + n - 1) l link) p

/-- The slide of `call` and `calli` to a target (R226).  When a target that differs between lanes meets another trap, R226 gives no
order: the model takes BRANCH_NONUNIFORM first (log 37). -/
def callTo (s : State) (p : Part) (act : Mask) (slide : Fin 4) (target : Option Word) : Eff :=
  let n := 4 * (slide.val + 1)
  if act ≠ p.amask then .trap s .branchNonuniform act []
  else
    match target with
    | none => .trap s .branchNonuniform act []
    | some t =>
      if p.depth + n / 4 > p.spillCap - 2 then .trap s .spillAreaFull act []
      else if p.pc.toNat + 1 ≥ 2 ^ 30 then .trap s .protection act []
      else
        let link := BitVec.ofNat 32 ((p.pc.toNat + 1) * 4 + slide.val)
        match s.growTo s.cur (p.depth + n / 4) p.w 0 (Part.linked n link) with
        | .held s1 => .stay s1
        | .met s1 => .jump (s1.mapPart s.cur (fun q => q.slideUp n)) t

/-- A slide wider than the window is ILLEGAL_ENCODING (R226). -/
def slideIll (slide : Fin 4) (p : Part) : Bool := decide (p.w < 4 * (slide.val + 1))

/-- `call` (R226). -/
def execCall (h : Hdr) (slide : Fin 4) (off : Word) (s : State) : Out :=
  issueW h [] [] true (slideIll slide) (fun s p act => callTo s p act slide (some (p.pc + off))) s

/-- `calli` (R226). -/
def execCalli (h : Hdr) (slide : Fin 4) (a : Opnd) (c : Word) (s : State) : Out :=
  issueW h [(a, false)] [] true (slideIll slide)
    (fun s p act => callTo s p act slide (uniformVal p c a p.amask)) s

/-- `ret` (R227): registers that are not resident come by frame fetch, and `ret` then executes anew (R59). -/
def execRet (h : Hdr) (s : State) : Out :=
  issueW h [] [] true (fun _ => false)
    (fun s p act =>
      if act ≠ p.amask then .trap s .branchNonuniform act []
      else if p.depth = 0 then .trap s .protection act []
      else if p.depth - 1 < p.resLo then .stay (s.fetchGroups s.cur (p.depth - 1))
      else
        let link := fun l => (p.readAbs (4 * p.depth - 1) l).toNat
        let ls := lanesOf p.amask
        let k := link (ls.headD 0)
        if !ls.all (fun l => link l == k) then .trap s .branchNonuniform act []
        else
          let m := k % 4 + 1
          if m > p.depth then .trap s .protection act []
          else if p.depth - m < p.resLo then .stay (s.fetchGroups s.cur (p.depth - m))
          else .jump (s.setPart s.cur (p.slideDown (4 * m))) (BitVec.ofNat 32 (k / 4))) s

/-- `hjoin` (R152, R223): the JOIN goes to the barrier unit; JOIN_REPLY continues the part. -/
def execHjoin (h : Hdr) (hud : Fin 16) (s : State) : Out :=
  issueW h [] [] true (fun _ => false)
    (fun s p act =>
      if act ≠ p.amask then .trap s .branchNonuniform act []
      else
        let k := s.ids
        .stay (((s.post (.join s.cur hud.val)).mapPart s.cur
          (fun p => { p with pend := [Pend.wait k], st := .switched, lsi := h.lsi.val })))) s

/-- `exit` (R139, R154, R224). -/
def execExit (h : Hdr) (s : State) : Out :=
  issueW h [] [] true (fun _ => false)
    (fun s p act =>
      let s1 := s.post (.exitMask p.team p.sq act)
      let m := p.amask &&& ~~~act
      if m = 0 then .stay (s1.endPart s.cur) else .done (s1.setPart s.cur { p with amask := m })) s

/-- `loop` (R225). -/
def execLoop (h : Hdr) (n : Fin 16) (off : Word) (s : State) : Out :=
  issueW h [] [] false (fun _ => false)
    (fun s p _ =>
      let x := p.readS n.val - 1
      let s1 := s.setPart s.cur (p.writeS n.val x)
      if x = 0 then .done s1 else .jump s1 (p.pc + off)) s

/-- `wgrow` (R228). -/
def execWgrow (h : Hdr) (amt : Fin 4) (s : State) : Out :=
  issueW h [] [] true (fun p => decide (32 < p.w + 8 * amt.val))
    (fun s p act =>
      if act ≠ p.amask then .trap s .branchNonuniform act []
      else
        let m := 8 * amt.val
        match s.growTo s.cur p.depth (p.w + m) 0 id with
        | .held s1 => .stay s1
        | .met s1 => .done (s1.mapPart s.cur (fun p =>
            ({ p with w := p.w + m, dead := p.dead &&& BitVec.ofNat 32 (2 ^ p.w - 1) }).zeroRange p.w (p.w + m)))) s

/-- `wshrink` (R228). -/
def execWshrink (h : Hdr) (amt : Fin 4) (s : State) : Out :=
  issueW h [] [] true (fun p => decide (p.w < 8 + 8 * amt.val))
    (fun s p act =>
      if act ≠ p.amask then .trap s .branchNonuniform act []
      else
        let m := 8 * amt.val
        let q := p.zeroRange (p.w - m) p.w
        .done (s.setPart s.cur { q with w := p.w - m, dead := p.dead &&& BitVec.ofNat 32 (2 ^ (p.w - m) - 1) })) s

end Sys2Proof.Machine
end

