-- ==== Sys2Proof/Machine/Team.lean ====
section
/-! DEFINITION. Class 0x8: scratchpad accesses (R20 to R22, R262, R263, R266), team barriers (R162, R273) and stage rings
(R159, R274), with the barrier unit's events. -/

namespace Sys2Proof.Machine

/-! ### The team's scratchpad (R20 to R22, R335) -/

/-- Bytes of a team's allocation (R20). -/
def Team.alloc (t : Team) : Nat := t.mcount * 65536

/-- Macro `i` of an allocation belongs to a stationary region (R22). -/
def Team.stationary (t : Team) (i : Nat) : Bool :=
  t.regions.any (fun r => (r.2.used || r.2.filling) && decide (r.2.mac ≤ i) && decide (i < r.2.mac + r.2.count))

namespace State

/-- Entry `e` of the macro map table of a stack (R335). -/
def macroEntry (s : State) (u e : Nat) : Nat := (s.ureg u (0x68000 + 8 * (e / 4))).toNat / 2 ^ (16 * (e % 4)) % 1024

/-- SPA of a scratchpad offset of a team (R21). -/
def padSpa (s : State) (tk off : Nat) : Nat :=
  macroSpa (tk / 256) (s.macroEntry (tk / 256) ((s.team tk).mbase + off / 65536)) + off % 65536

/-- SPA of a byte of a macro's side array (R11). -/
def padSide (s : State) (tk mac off : Nat) : Nat :=
  sideSpa (tk / 256) (s.macroEntry (tk / 256) ((s.team tk).mbase + mac)) + off

/-- `n` bytes at a scratchpad offset; each macro is contiguous. -/
def padPeek (s : State) (tk : Nat) : Nat → Nat → Nat
  | _, 0 => 0
  | off, n + 1 => (s.byte (s.padSpa tk off)).toNat + 256 * s.padPeek tk (off + 1) n

def padPoke (s : State) (tk : Nat) : Nat → Nat → Nat → State
  | _, 0, _ => s
  | off, n + 1, x => (s.setByte (s.padSpa tk off) (BitVec.ofNat 8 x)).padPoke tk (off + 1) n (x / 256)

def padBytes (s : State) (tk off : Nat) : Nat → List Byte
  | 0 => []
  | n + 1 => s.byte (s.padSpa tk off) :: s.padBytes tk (off + 1) n

/-- An uncorrectable error in the 32 bytes of an SPA (R259). -/
def padErr (s : State) (tk off : Nat) : Bool := Store.get false s.ecc (s.padSpa tk off / 32)

/-- [off, off + n) lies in the allocation. -/
def padIn (s : State) (tk off n : Nat) : Bool := decide (off + n ≤ (s.team tk).alloc)

/-- A range touches a stationary macro (R83). -/
def padStat (s : State) (tk off n : Nat) : Bool :=
  n != 0 && (List.range ((off + n - 1) / 65536 + 1 - off / 65536)).any (fun i => (s.team tk).stationary (off / 65536 + i))

/-! ### Wake conditions (R163) -/

/-- Whether the condition of a wait holds at the base stack; ticks and replies are judged elsewhere.  That a wait on a word whose
macro has been marked stationary since holds only once the mark is gone is the model's choice (R83, R300, log 39). -/
def wakeHolds (s : State) (pid : Nat) (p : Part) (w : Wake) : Bool :=
  let t := s.team p.team
  match w with
  | .phase b n _ => n != 0 && decide (n ≤ (Store.get Bar.fresh t.bars b).done)
  | .stage r k f => t.stages.getLsbD (8 * r + k) == f && !s.fab.msgs.any (fun m => match m.2 with
      | some (.swt q _ _ _ _) => q == pid
      | _ => false)
  | .chunks off m => m == 0 || (!t.stationary (off / 65536) && BitVec.ofNat 32 (s.padPeek p.team off 4) &&& m == m)
  | .held off m _ _ => m == 0 || (!t.stationary (off / 65536) && BitVec.ofNat 32 (s.padPeek p.team off 4) &&& m == m)
  | .cmds ids _ => ids.all (fun i => !t.ents.any (fun e => e.id == i) && !s.fab.msgs.any (fun m => match m.2 with
      | some (.command _ _ e) => e.id == i
      | _ => false))
  | .tick _ => false
  | .remote _ _ => false

/-- The base stack evaluates the waits of a team's blocked parts and reports those that hold (R159, R162, R300). -/
def evalWaits (s : State) (tk : Nat) : State :=
  { s with parts := s.parts.map (fun e => match e.2.st with
      | .blocked w false => if e.2.team == tk && s.wakeHolds e.1 e.2 w then (e.1, { e.2 with st := .blocked w true }) else e
      | _ => e) }

/-- A part enters BLOCKED at its instruction (R143, R164). -/
def block (s : State) (pid : Nat) (w : Wake) : State :=
  (s.mapPart pid (fun p => { p with
    st := .blocked w false
    lastIssue := s.cyc })).evalWaits (s.part pid).team

end State

/-! ### `lds`, `sts`, `ats` -/

/-- A scratchpad offset (R258): exact, in 64-bit two's complement. -/
def padAddr (p : Part) (a : Opnd) (disp : Word) (l : Nat) : DWord :=
  BitVec.ofNat 64 (p.val 0 false a l) + disp.signExtend 64

/-- Check of R22 at the base stack. -/
def padCheck (t : Team) (off : DWord) (w : Nat) : Option Cause :=
  if off.toInt < 0 || decide (t.alloc < off.toNat + w) then some .scratchBounds
  else if t.stationary (off.toNat / 65536) then some .stationaryAccess
  else none

namespace State

/-- Run a scratchpad instruction: alignment at the issuing core, the pass to the base stack with UMASK = `act` (R446), then
the checks and the lanes in ascending order, after the part's posted requests to that home (R22, R66, R111, R258, R263). -/
def padRun (s : State) (pid : Nat) (ins : MemIns) (lsi : Nat) (ops : BitVec 32) (one : Bool)
    (perf : Part → State → Nat → Nat → Nat → LaneRes) (ents : Part → List (Nat × Nat × Nat) → List OEntry)
    (fin : Part → State → List (Nat × Nat) → State) : Eff :=
  let p := s.part pid
  match (if ins.rel then s.releaseWait pid else none) with
  | some s1 => .stay s1
  | none =>
  match (if ins.clears then s.clearWait pid else none) with
  | some s1 => .stay s1
  | none =>
    let todo := (lanesOf (p.umask &&& ~~~deniedLanes p)).filter (fun l => !p.mi.fails.any (fun f => f.1 == l))
    let ls := if one then todo.take 1 else todo
    let spread := fun (l : Nat) (c : Cause) => (spreadTo p one l).map (fun j => (j, c, p.mi.addr l))
    let bad := ls.filter (fun l => (p.mi.addr l).toNat % ins.w != 0)
    let good := ls.filter (fun l => (p.mi.addr l).toNat % ins.w == 0)
    let fs0 := p.mi.fails ++ p.mi.denied.map (fun d => (d.1, Cause.protection, d.2)) ++
      bad.flatMap (fun l => spread l .misaligned)
    if good.isEmpty then s.failTrap pid fs0
    else if p.unit ≠ p.base then
      match s.passWait pid lsi with
      | some s1 => .stay s1
      | none => .stay ((s.mapPart pid (fun q => { q with mi := { q.mi with fails := fs0 } })).passTo pid (.unit p.base) lsi ops)
    else if s.postedAhead pid p.unit then .stay s
    else
      let t := s.team p.team
      let cs := good.map (fun l => (l, padCheck t (p.mi.addr l) ins.w))
      let oks := cs.filterMap (fun c => match c.2 with | none => some (c.1, (p.mi.addr c.1).toNat, 0) | some _ => none)
      let es := ents p oks
      if !s.orderAllowsAll p.prt p.unit es then .stay s
      else
        let s1 := es.foldl (fun (s : State) e => s.order p.prt p.unit e) s
        let r := doLanes (perf p) s1 oks
        let s2 := (fin p (r.1.sampleLanes pid p.unit (oks.flatMap (fun o => (spreadTo p one o.1).map (fun l => (l, o.2.1))))) r.2.1).evalWaits p.team
        let fs := fs0 ++ cs.flatMap (fun c => match c.2 with | some x => spread c.1 x | none => []) ++
          r.2.2.flatMap (fun f => spread f.1 f.2)
        if fs.isEmpty then .done (s2.sampleDone pid false []) else s2.failTrap pid fs

/-- A scratchpad read of `w` bytes (R259). -/
def padLoad (s : State) (tk off w : Nat) : LaneRes :=
  if s.padErr tk off then .fail .poison else .val s (s.padPeek tk off w)

/-- A scratchpad write; an error there is overwritten (R259). -/
def padStore (s : State) (tk off w x : Nat) : State :=
  let s1 := s.padPoke tk off w x
  { s1 with ecc := Store.set false s1.ecc (s1.padSpa tk off / 32) false }

end State

/-- `lds` (R262). -/
def execLds (h : Hdr) (m : Acc) (d a : Opnd) (disp : Word) (s : State) : Out :=
  let w := widthBytes m.t.w
  let w64 := m.t.w == .w64
  issueM h [(a, false)] [(d, w64)] false (fun _ => false)
    (fun s p act =>
      let s1 := s.latch s.cur act ((lanesOf act).map (fun l => (l, padAddr p a disp l))) 0x200 0
      s1.padRun s.cur ⟨⟨.load, false⟩, w, ordArSc m.ord, false, 0x200⟩ h.lsi.val (opMask [(a, false), (d, w64)])
        (Opnd.isS' d)
        (fun p s _ off _ => s.padLoad p.team off w) (fun _ _ => [])
        (fun _ s rs => s.landLater s.cur d w64 (ordAcq m.ord) (rs.map (fun r => (r.1, extend m.t r.2))))) s

/-- `sts` (R263). -/
def execSts (h : Hdr) (m : Acc) (a b : Opnd) (disp : Word) (s : State) : Out :=
  let w := widthBytes m.t.w
  let w64 := m.t.w == .w64
  issueM h [(a, false), (b, w64)] [] false (fun _ => false)
    (fun s p act =>
      let s1 := s.latch s.cur act ((lanesOf act).map (fun l => (l, padAddr p a disp l))) 0x201 0
      s1.padRun s.cur ⟨⟨.store, false⟩, w, ordRel m.ord, m.ord == .rel || m.ord == .sc, 0x201⟩ h.lsi.val
        (opMask [(a, false), (b, w64)]) false
        (fun p s l off _ => .val (s.padStore p.team off w (p.val 0 w64 b l)) 0) (fun _ _ => []) (fun _ s _ => s)) s

/-- `ats` (R266). -/
def execAts (h : Hdr) (m : AMod) (d a b : Opnd) (disp : Word) (s : State) : Out :=
  let w := if m.w64 then 8 else 4
  issueM h [(a, false), (b, m.w64)] [(d, m.w64)] false (fun _ => false)
    (fun s p act =>
      let s1 := s.latch s.cur act ((lanesOf act).map (fun l => (l, padAddr p a disp l))) 0x202 0
      s1.padRun s.cur ⟨⟨.atomic, false⟩, w, ordRel m.ord, true, 0x202⟩ h.lsi.val
        (opMask [(a, false), (b, m.w64), (d, m.w64)]) false
        (fun p s l off _ =>
          match s.padLoad p.team off w with
          | .fail c => .fail c
          | .val s1 x => .val (s1.padStore p.team off w
              (atomicNew m x (if aopCombines m.op then p.val 0 m.w64 b l else p.valF 0 .f32 b l))) x)
        (atomEnts false) (fun _ s rs => s.landLater s.cur d m.w64 (ordAcq m.ord) rs)) s

/-! ### Barriers (R162, R273) -/

def Team.exitedOf (t : Team) (sq : Nat) : Mask := Store.get 0 t.exited sq
def Team.squadEnded (t : Team) (sq : Nat) : Bool := t.ended.contains sq || t.exitedOf sq == 0xFFFF

/-- Every squad has arrived in the next phase or has ended (R162). -/
def Team.barFull (t : Team) (b : Bar) : Bool :=
  !b.arr0.isEmpty && (List.range t.sqn).all (fun q =>
    t.squadEnded q || (Store.get 0 b.arr0 q ||| t.exitedOf q) == 0xFFFF)

/-- Complete the phases that are complete: at most the two that lanes are recorded for. -/
def Team.barStep (t : Team) (b : Bar) : Bar :=
  let one := fun (b : Bar) => if t.barFull b then { b with done := b.done + 1, arr0 := b.arr1, arr1 := [] } else b
  one (one b)

/-- Complete phases of every barrier (R162). -/
def Team.barAll (t : Team) : Team :=
  let step := fun (m : Store Bar) (i : Nat) => Store.set Bar.fresh m i (t.barStep (Store.get Bar.fresh t.bars i))
  { t with bars := (List.range 8).foldl step t.bars }

/-- Record lanes of a squad for their next phases (R162).  When the lanes of one arrival fall in two phases, the squad's most
recent arrival is in the later one: the spec does not say (log 29). -/
def Bar.record (b : Bar) (sq : Nat) (m : Mask) : Bar :=
  let a0 := Store.get 0 b.arr0 sq
  let again := m &&& a0
  { b with
    arr0 := Store.set 0 b.arr0 sq (a0 ||| m)
    arr1 := Store.set 0 b.arr1 sq (Store.get 0 b.arr1 sq ||| again)
    last := Store.set 0 b.last sq (if again = 0 then b.done + 1 else b.done + 2) }

/-- A lane is recorded for two phases already: the arrival waits (R162). -/
def Bar.fullFor (b : Bar) (sq : Nat) (m : Mask) : Bool := (m &&& Store.get 0 b.arr0 sq &&& Store.get 0 b.arr1 sq) != 0

/-- `bar` (R162, R260, R273): the release condition, then the message to the barrier unit. -/
def execBar (h : Hdr) (id : Fin 8) (_mx : Bool) (s : State) : Out :=
  issueM h [] [] true (fun _ => false)
    (fun s p _ => match s.releaseWait s.cur with
      | some s1 => .stay s1
      | none => .stay ((s.post (.arrive s.cur p.team p.sq id.val p.amask true)).block s.cur (.phase id.val 0 false))) s

/-- `bara` (R162, R260, R273): long; its arrival waits for the release condition, and holds no later instruction. -/
def execBara (h : Hdr) (id : Fin 8) (_mx : Bool) (s : State) : Out :=
  issueM h [] [] false (fun _ => false) (fun s _ _ => .done (s.pendCond s.cur (.arrive id.val) false)) s

/-- `barw` (R162, R273). -/
def execBarw (h : Hdr) (id : Fin 8) (s : State) : Out :=
  issueM h [] [] true (fun _ => false)
    (fun s p _ => .stay ((s.post (.arrive s.cur p.team p.sq id.val 0 true)).block s.cur (.phase id.val 0 true))) s

/-- An earlier message of the same part is still on its way: messages of one part arrive in order (R71). -/
def msgPid : Msg → Option Nat
  | .arrive pid _ _ _ _ _ => some pid
  | .sgo pid _ _ _ => some pid
  | .swt pid _ _ _ _ => some pid
  | .join pid _ => some pid
  | .command pid _ _ => some pid
  | _ => none

namespace State

def earlierMsg (s : State) (k pid : Nat) : Bool :=
  s.fab.msgs.any (fun e => decide (e.1 < k) && (match e.2 with | some m => msgPid m == some pid | none => false))

end State

/-- BARRIER_ARRIVAL (R162). -/
def execBarrierArrival (k : Nat) (s : State) : Out :=
  match s.msg k with
  | some (.arrive pid tk sq id m wait) =>
    let t := s.team tk
    let b := Store.get Bar.fresh t.bars id
    if !s.arrives k then .next s
    else if s.earlierMsg k pid || b.fullFor sq m then .next (s.landed k)
    else
      let b1 := if m = 0 then b else b.record sq m
      let n := Store.get 0 b1.last sq
      let s1 := (s.dropMsg k).setTeam tk ({ t with bars := Store.set Bar.fresh t.bars id b1 }).barAll
      let s2 := if !wait then s1 else s1.mapPart pid (fun p => match p.st with
        | .blocked (.phase i 0 w) r => if i == id then
            { p with st := .blocked (.phase i n w) (r || n == 0) } else p
        | _ => p)
      .next (s2.evalWaits tk)
  | _ => .next s

/-! ### Stage rings (R159, R274) -/

/-- `sgo` (R159, R260, R274): long; its message waits for the release condition. -/
def execSgo (h : Hdr) (ring : Fin 8) (_mx : Bool) (a : Opnd) (s : State) : Out :=
  issueM h [(a, false)] [] false (fun _ => false)
    (fun s p act =>
      if (s.team p.team).rings ≤ ring.val then
        .trap s .scratchBounds act ((lanesOf act).map (fun l => (l, BitVec.ofNat 64 ring.val)))
      else
        .done (s.pendCond s.cur (.go ring.val (p.val 0 false a 0 % 8)) false)) s

/-- `swt` (R159, R274). -/
def execSwt (h : Hdr) (ring : Fin 8) (a b : Opnd) (s : State) : Out :=
  issueM h [(a, false), (b, false)] [] true (fun _ => false)
    (fun s p act =>
      if (s.team p.team).rings ≤ ring.val then
        .trap s .scratchBounds act ((lanesOf act).map (fun l => (l, BitVec.ofNat 64 ring.val)))
      else
        let k := p.val 0 false a 0 % 8
        let f := p.val 0 false b 0 % 2 == 1
        .stay ((s.post (.swt s.cur p.team ring.val k f)).block s.cur (.stage ring.val k f))) s

/-- STAGE_GO (R159): the phase bit is inverted, and waiting `swt` compare again. -/
def execStageGo (k : Nat) (s : State) : Out :=
  match s.msg k with
  | some (.sgo pid tk r st) =>
    if !s.arrives k then .next s
    else if s.earlierMsg k pid then .next (s.landed k)
    else .next (((s.dropMsg k).mapTeam tk (fun t =>
      { t with stages := t.stages ^^^ BitVec.ofNat 64 (2 ^ (8 * r + st)) })).evalWaits tk)
  | _ => .next s

/-- STAGE_WAIT (R159): the unit compares an `swt` against the phase bit. -/
def execStageWait (k : Nat) (s : State) : Out :=
  match s.msg k with
  | some (.swt pid tk _ _ _) =>
    if !s.arrives k then .next s
    else if s.earlierMsg k pid then .next (s.landed k)
    else .next ((s.dropMsg k).evalWaits tk)
  | _ => .next s

/-! ### Waking (R143, R163) -/

/-- The part after a wait has completed. -/
def Part.awake (p : Part) (cyc : Nat) (pc : Word) : Part :=
  { p with st := if p.pend.isEmpty then .ready else .switched, pc := pc, umask := 0, mi := MemOp.idle, restrict := none, flushed := false
           bpPass := none, issues := p.issues + 1, lastIssue := cyc }

/-- The part READY at the instruction at which it waited, which runs again (R350). -/
def Part.again (p : Part) (cyc : Nat) : Part :=
  { p with
    st := if p.pend.isEmpty then .ready else .switched
    recWake := false
    umask := 0
    mi := MemOp.idle
    restrict := none
    flushed := false
    lastIssue := cyc }

/-- A record formed for an engine command (R344, R350). -/
def FRec.engine (r : FRec) : Bool := decide (3 ≤ r.kind)

/-- The end of an `mwait` or `qwait`: the squad's unassigned engine records raise the part's DEFER count (R350), and
`mwait` copies the status word (R295). -/
def State.cmdsDone (s : State) (pid : Nat) (mw : Bool) : State :=
  let p := s.part pid
  let t := s.team p.team
  let mine := fun (r : FRec) => r.sq == p.sq && r.engine && !r.assigned
  let q := { p.awake s.cyc (p.pc + 1) with
    defer := p.defer + (t.recs.filter mine).length
    mstat := if mw then t.mstat else p.mstat
    cmds := if mw then [] else p.cmds }
  (s.setPart pid q).setTeam p.team { t with recs := t.recs.map (fun r => if mine r then { r with assigned := true } else r) }

/-- PART_WAKE (R163, R295, R301, R350): a reported wake reaches a BLOCKED part, which continues after its instruction.  No
wake is reported for a squad that the barrier unit has killed (R313). -/
def execPartWake (pid : Nat) (s : State) : Out :=
  let p := s.part pid
  if !p.live || (s.team p.team).frozen || (s.team p.team).ended.contains p.sq then .next s
  else
    match p.st with
    | .blocked w true =>
      (match w with
      | .held _ _ cont none => .next (s.setPart pid (p.awake s.cyc cont))
      | .held _ _ _ (some _) => .next s
      | .cmds _ mw => .next (s.cmdsDone pid mw)
      | .tick _ => .next s
      | .remote _ _ => .next s
      | _ => .next (s.setPart pid (p.awake s.cyc (p.pc + 1))))
    | _ => .next s

/-- SLEEP_WAKE and TWAIT_WAKE (R316, R317): the tick has reached the target; on a stopped package no time passes (R408). -/
def wakeTick (pid : Nat) (s : State) : State :=
  let p := s.part pid
  match p.st with
  | .blocked (.tick t) _ =>
    if p.live && !(s.team p.team).frozen && !s.pkgStopped (unitPkg p.unit) && decide (t.toNat ≤ (s.tickAt p.unit).toNat) then
      s.setPart pid (p.awake s.cyc (p.pc + 1))
    else s
  | _ => s

def execSleepWake (pid : Nat) (s : State) : Out := .next (wakeTick pid s)
def execTwaitWake (pid : Nat) (s : State) : Out := .next (wakeTick pid s)

end Sys2Proof.Machine
end

