-- ==== Sys2Proof/Machine/Passing.lean ====
section
/-! DEFINITION. Events of context passing (R49 to R74): departure, frames, arrival, frame fetch, growth, and the merge of
parts at a huddle host (R60, R152, R153). -/

namespace Sys2Proof.Machine

/-- Set the bits of `m` in the dead marks, and zero the registers of the window it names (R56). -/
def Part.kill (p : Part) (m : BitVec 32) : Part :=
  { p with
    dead := p.dead ||| (m &&& BitVec.ofNat 32 (2 ^ p.w - 1))
    vregs := p.vregs.filter (fun e =>
      let r := e.1 / 16
      !(decide (4 * p.depth ≤ r) && decide (r < 4 * p.depth + p.w) && m.getLsbD (r - 4 * p.depth))) }

/-- What a frame carries (R51, R157): the live set and the operands, or every register for an eviction or `cpy` frame. -/
def Part.carried (p : Part) : BitVec 32 :=
  match p.dest with
  | .evict _ => 0xFFFFFFFF
  | .hold _ _ _ _ _ => 0xFFFFFFFF
  | _ => p.carry

/-- CARRY of the frame (R54). -/
def Part.carryMask (p : Part) : BitVec 32 := p.carried &&& BitVec.ofNat 32 (2 ^ p.w - 1) &&& ~~~p.dead

/-- The number of 1 bits. -/
def ones (x : Nat) : Nat := ((List.range 32).filter (fun i => x.testBit i)).length

/-- Flits of a frame (R53, R70), its sample flit included (R400). -/
def Part.flits (p : Part) : Nat :=
  2 + (4 * ones p.carryMask.toNat * ones p.amask.toNat + 63) / 64 + (if p.sample.isSome then 1 else 0)

/-- The control record (R57). -/
def Part.control (p : Part) : List Byte :=
  leBytes 4 p.tpc.toNat ++ leBytes 2 p.tlm.toNat ++ leBytes 1 p.tcause ++ leBytes 1 0 ++
    lanes16.flatMap (fun l => leBytes 8 (Store.get 0 p.tva l).toNat) ++ List.replicate 120 0

namespace State

/-- Limiter key of a core and partition. -/
def c0Key (u c n : Nat) : Nat := (u * 8 + c) * 8 + n

def c0Burst (s : State) (u c n : Nat) : Nat := bitsOf (s.ureg u (c0Off u c n)).toNat 31 16

end State

/-- Register groups below the window and, in a handler, the control record, as spill-area writes: of each only the bytes of the
part's own lanes (R51, R57). -/
def Part.burst (p : Part) : List PElem :=
  ((List.range p.depth).filter (fun g => decide (p.resLo ≤ g))).flatMap (State.groupElems p) ++
    (if !p.h then [] else ((p.control.zipIdx).filter (fun b => decide (b.2 < 8) || decide (136 ≤ b.2) ||
      p.amask.getLsbD ((b.2 - 8) / 8))).map (fun b =>
      (⟨0, p.spill * 2 ^ 16 + b.2, 1, none, [(0, b.1.setWidth 64)], 0⟩ : PElem)))

/-- The part as its frame holds it: the registers of its window, and of its predicates the lanes of AMASK (R54).  No frame
field carries MSTAT, nor TCAUSE, TPC, TLM and TVA outside a handler: the model keeps them with the part (log 28). -/
def Part.framed (p : Part) : Part :=
  { p with
    vregs := p.vregs.filter (fun e => decide (4 * p.depth ≤ e.1 / 16) && decide (e.1 / 16 < 4 * p.depth + p.w))
    preds := (List.range 8).foldl (fun m n => Store.set 0 m n (Store.get 0 p.preds n &&& p.amask)) []
    resLo := p.depth }

/-- The frame header (R54). -/
def Part.frameHeader (p : Part) : List Byte :=
  leBytes 4 p.pc.toNat ++ leBytes 2 p.amask.toNat ++ leBytes 2 p.umask.toNat ++ leBytes 4 p.carryMask.toNat ++
    leBytes 1 p.lsi ++ leBytes 1 (p.w / 8 - 1 + (if p.h then 12 else 0)) ++ leBytes 2 p.depth ++ leBytes 4 p.split.toNat ++
    leBytes 4 p.launch.toNat ++ leBytes 2 p.tx.toNat ++ leBytes 2 p.ty.toNat ++ leBytes 2 p.tz.toNat ++ leBytes 1 p.sq ++
    leBytes 1 (p.prt + (if p.world then 8 else 0) + (if p.lat then 16 else 0) + 32 * p.prio) ++ leBytes 2 0xFFFF ++
    ((List.range 7).flatMap (fun n => leBytes 2 (Store.get 0 p.preds (n + 1) &&& p.amask).toNat)) ++
    leBytes 2 p.fpstat.toNat ++ leBytes 1 p.fpctl.toNat ++ leBytes 1 0 ++ leBytes 4 p.gang.toNat ++
    leBytes 5 p.spill ++ leBytes 1 p.spillu ++ leBytes 2 0

/-- The vector block of a frame: carried registers in ascending order, lanes of AMASK in ascending order, padded to a
multiple of 64 bytes (R53). -/
def Part.vectorBlock (p : Part) : List Byte :=
  let bs := ((List.range 32).filter (fun n => p.carryMask.getLsbD n)).flatMap (fun n =>
    (lanesOf p.amask).flatMap (fun l => leBytes 4 (Store.get 0 p.vregs (vkey (p.absReg n) l)).toNat))
  bs ++ List.replicate ((64 - bs.length % 64) % 64) 0

/-- The bytes of a part's frame: header, uniform block, vector block (R53). -/
def Part.frame (p : Part) : List Byte :=
  p.frameHeader ++ lanes16.flatMap (fun n => leBytes 4 (Store.get 0 p.sregs n).toNat) ++ p.vectorBlock

/-- A part that has left its core: what its frame does not carry is dead (R56). -/
def Part.atRest (p : Part) : Part := { p with carry := 0xFFFFFFFF }

/-- First byte of a slot of the arrival parking area (R13, R16). -/
def parkSpa (u prt n : Nat) : Nat :=
  unitBase u + (if isStack u then 0x000FC0000000 else 0x02FFC0000000 + prt * 2 ^ 26) + n * 4096

/-- First byte of a slot of the `cpy` hold area (R13). -/
def holdSpa (u n : Nat) : Nat := unitBase u + 0x000FF0000000 + n * 4096

namespace State

/-- Write bytes under a key, each data unit read, changed and written back (R390); errors there are overwritten. -/
def pokeBytesK (s : State) (key : Nat) : Nat → List Byte → State
  | _, [] => s
  | a, b :: bs =>
    let s1 := s.pokeK key a 1 b.toNat
    ({ s1 with ecc := Store.set false s1.ecc (a / 32) false } : State).pokeBytesK key (a + 1) bs

/-- Write a part's frame at `a`, under key slot 0 of its partition (R61, R301). -/
def writeFrame (s : State) (p : Part) (a : Nat) : State := s.pokeBytesK (s.keyAt a p.prt 0) a p.atRest.frame

/-- An uncorrectable error lies in the bytes of a part's frame at `a` (R63). -/
def frameErr (s : State) (p : Part) (a : Nat) : Bool :=
  (List.range (p.atRest.frame.length / 32)).any (fun i => Store.get false s.ecc (a / 32 + i))

end State

/-- DEPART (R51): with no result pending, FLUSH goes to each home with outstanding requests, and a buffer entry is sought. -/
def execDepart (pid : Nat) (s : State) : Out :=
  let p := s.part pid
  if p.live && p.st == .departing 0 && p.pend.isEmpty && !s.pkgStopped (unitPkg p.unit) then
    .next (((s.flushAll pid p).trace p.unit p 4 p.pc (p.dest.unitOf * 32 + (match p.dest with
      | .host _ c _ => c
      | _ => 0))).mapPart pid (fun p => { p with st := .departing 1 }))
  else .next s

/-- DEPARTURE_BUFFER_GRANT (R51, R52, R53, R57): the frame is built, the slot freed and the spill burst sent. -/
def execDepartureBufferGrant (pid : Nat) (s : State) : Out :=
  let p := s.part pid
  let used := (s.parts.filter (fun e => e.2.unit == p.unit && e.2.core == p.core && e.2.st == .departing 2)).length
  if p.live && p.st == .departing 1 && decide (used < 32) && !s.pkgStopped (unitPkg p.unit) then
    let s1 := if p.burst.isEmpty then s else s.postReq pid p p.base .spill p.pc p.burst
    let q := { (p.kill (~~~p.carried)).framed with st := .departing 2 }
    .next ((s1.setPart pid q).flushAll pid q)
  else .next s

/-- FRAME_INJECT (R51, R72, R74): every request is acknowledged, the class is not stopped and the limiter allows. -/
def execFrameInject (pid : Nat) (s : State) : Out :=
  let p := s.part pid
  let cls0 := s.sends0 p
  let key := State.c0Key p.unit p.core p.prt
  let lvl := Store.get 0 s.fab.level key
  let burst := s.c0Burst p.unit p.core p.prt
  let f := p.flits
  let ok := !cls0 || decide (f ≤ lvl) || (decide (burst < f) && decide (burst ≤ lvl))
  let v : Via := ⟨p.unit, p.dest.unitOf, p.prt, frameClass cls0⟩
  if p.live && p.st == .departing 2 && (s.outstanding pid).isEmpty && ok && !s.pkgStopped (unitPkg p.unit) &&
      (v.src == v.dst || (!s.stopped v.src v.dst v.prt v.cls && s.hasSlots v)) then
    let s1 := if cls0 then { s with fab := { s.fab with level := Store.set 0 s.fab.level key (lvl - f) } } else s
    let s2 := s1.setVia s.ids (some v)
    .next { s2.setPart pid { p with st := .travelling, cls0 := cls0, seq := s.ids } with ids := s.ids + 1 }
  else .next s

namespace State

/-- A bucket gains RATE flits for each period of 1024 cycles that has passed, up to BURST (R74). -/
def refill (s : State) (u core prt : Nat) : State :=
  let key := c0Key u core prt
  let n := s.cycAt u / 1024
  let r := (s.ureg u (c0Off u core prt)).toNat % 65536
  let lvl := Store.get 0 s.fab.level key
  let lvl' := min (s.c0Burst u core prt) (lvl + r * (n - Store.get 0 s.fab.gained key))
  if n ≤ Store.get 0 s.fab.gained key then s
  else { s with fab := { s.fab with
    level := Store.set 0 s.fab.level key (if r = 0 then lvl else lvl')
    gained := Store.set 0 s.fab.gained key n } }

end State

/-- C0_LIMITER_REFILL (R74): each 1024 cycles the bucket gains RATE flits, up to BURST. -/
def execC0LimiterRefill (u core part : Nat) (s : State) : Out := .next (s.refill u core part)

/-- FLOW_STOP (R72): a sender ceases to start flits of a class towards a receiver.  The model has one link for each route; when
buffers fill is timing (log 26). -/
def execFlowStop (link : Ends) (part cls : Nat) (s : State) : Out :=
  .next { s with fab := { s.fab with stops := Store.set false s.fab.stops (State.stopKey link.src link.dst part cls) true } }

/-- FLOW_GO (R72). -/
def execFlowGo (link : Ends) (part cls : Nat) (s : State) : Out :=
  .next { s with fab := { s.fab with stops := Store.set false s.fab.stops (State.stopKey link.src link.dst part cls) false } }

/-! ### Growth (R156, R157) and frame fetch (R59) -/

namespace State

/-- A placed part that has its storage: READY, waiting for its control record (R59), or in the wait it was saved in, whose
condition is evaluated at once (R163, R360). -/
def settle (s : State) (pid : Nat) : State :=
  let p := s.part pid
  let q := { p with
    after := none
    ask := 0
    lastIssue := s.cyc }
  match p.after with
  | some w =>
    let s1 := s.setPart pid { q with st := .blocked w.1 w.2 }
    (if p.h then s1.askFetch pid p.depth p.depth p.amask else s1).evalWaits p.team
  | none =>
    let s1 := s.setPart pid { q with st := .ready }
    if p.h then s1.startFetch pid p.depth p.depth p.amask else s1

end State

/-- GROWTH_REQUEST (R143, R157): requests of a core are served in the order made; groups are spilled until the request fits, or
the part is evicted.  A part that waited at an instruction executes it anew: its groups are reserved until then, since no later
request of the core is served before. -/
def execGrowthRequest (pid : Nat) (s : State) : Out :=
  let p := s.part pid
  match p.st with
  | .growing d w k arrived =>
    if !p.live || s.growAhead p || s.pkgStopped (unitPkg p.unit) then .next s
    else
      let out : State := ((s.spillAll pid 4096).mapPart pid (fun q => { q with ask := 0, shed := 0 })).evict pid
      if arrived then
        let r := s.growFits pid
        .next (if r.2 then r.1.settle pid else out)
      else if ((s.setPart pid (State.asking p d w k)).growFits pid).2 then .next (s.setPart pid { p with
        st := .ready
        lastIssue := s.cyc })
      else .next out
  | _ => .next s

/-- A frame fetch is answered once the squad's spill writes are performed (R59, R156). -/
def State.spillAhead (s : State) (p : Part) : Bool :=
  s.fab.posted.any (fun e => match e.2 with
    | some r => r.kind == .spill && r.phase == .flight && r.team == p.team && r.sq == p.sq
    | none => false)

namespace State

/-- The message of a part's frame fetch, or of its data, oldest first. -/
def fetchMsg (s : State) (pid : Nat) : Option (Nat × Nat × Nat × Mask) :=
  s.fab.msgs.findSome? (fun e => match e.2 with
    | some (.frameFetch q lo hi ctl) => if q == pid then some (e.1, lo, hi, ctl) else none
    | _ => none)

/-- An uncorrectable error lies in what a frame fetch reads (R353). -/
def fetchErr (s : State) (p : Part) (lo hi : Nat) (ctl : Mask) : Bool :=
  let base := p.spill * 2 ^ 16
  (ctl != 0 && (List.range 5).any (fun i => Store.get false s.ecc (base / 32 + i))) ||
    (List.range (hi - lo)).any (fun i => (lanesOf p.amask).any (fun l =>
      Store.get false s.ecc ((base + 0x100 + (lo + i) * 0x100 + l * 16) / 32)))

end State

/-- FRAME_FETCH (R59): the groups and the control record of a part are read at the base stack.  A read that meets an
uncorrectable error gives no data: the context is lost (R353, CONTEXT_LOSS). -/
def execFrameFetch (pid : Nat) (s : State) : Out :=
  let p := s.part pid
  match s.fetchMsg pid with
  | some (k, lo, hi, ctl) =>
    if !s.arrives k then .next s
    else if s.spillAhead p || s.fetchErr p lo hi ctl then .next (s.landed k)
    else
      let base := p.spill * 2 ^ 16
      let key := s.keyAt base p.prt 0
      let gs := (List.range (hi - lo)).map (fun i => lo + i)
      let vals := gs.flatMap (fun g => (lanesOf p.amask).flatMap (fun l => (List.range 4).map (fun j =>
        (vkey (4 * g + j) l, BitVec.ofNat 32 (s.peekK key (base + 0x100 + g * 0x100 + l * 16 + 4 * j) 4)))))
      let rec' := if ctl = 0 then [] else leBytes 136 (s.peekK key base 136)
      .next { s.answerMsg k pid (.fetchData pid lo hi ctl vals rec') with ctr := s.ctr + 1 }
  | none => .next s

/-- Fetched groups and control record enter a part's registers (R57, R59); groups that no longer join the resident ones are
fetched again. -/
def Part.fetched (p : Part) (k lo hi : Nat) (ctl : Mask) (vals : List (Nat × Word)) (rec' : List Byte) : Part :=
  let p := { p with pend := p.pend.filter (fun e => e.id != k), fetching := 0 }
  if ctl ≠ 0 then { p with
    tpc := BitVec.ofNat 32 (fieldOf rec' 0 4)
    tlm := BitVec.ofNat 16 (fieldOf rec' 4 2)
    tcause := fieldOf rec' 6 1
    tva := (lanesOf ctl).foldl (fun m l => Store.set 0 m l (BitVec.ofNat 64 (fieldOf rec' (8 + 8 * l) 8))) p.tva }
  else if p.resLo = hi then { p with
    vregs := vals.foldl (fun m v => Store.set 0 m v.1 v.2) p.vregs
    resLo := lo }
  else p

/-- FRAME_FETCH_DATA (R59): the data arrives and the part's pending result lands. -/
def execFrameFetchData (pid : Nat) (s : State) : Out :=
  match s.fab.msgs.find? (fun e => match e.2 with | some (.fetchData q _ _ _ _ _) => q == pid | _ => false) with
  | some (k, some (.fetchData _ lo hi ctl vals rec')) =>
    let p := s.part pid
    if !s.arrives k then .next s
    else if !p.live then .next (s.dropMsg k)
    else
      let q := p.fetched k lo hi ctl vals rec'
      let q := if q.pend.isEmpty && q.st == .switched then { q with st := .ready, lastIssue := s.cyc } else q
      .next ((s.dropMsg k).setPart pid q)
  | _ => .next s

/-! ### Merging (R60, R152, R153) -/

/-- The merge of an arriving part into the JOINING part (R153).  R153 does not list the team's status words and the trap state: the
model takes each lane's TVA from the part that owned the lane, and the rest as it takes s0 to s15 (log 28). -/
def mergeParts (a b : Part) : Part :=
  let lo := if (lanesOf a.amask).headD 16 ≤ (lanesOf b.amask).headD 16 then a else b
  { a with
    amask := a.amask ||| b.amask
    preds := (List.range 8).foldl (fun m n => Store.set 0 m n
      ((Store.get 0 a.preds n &&& a.amask) ||| (Store.get 0 b.preds n &&& b.amask))) []
    vregs := b.vregs.foldl (fun m e => Store.set 0 m e.1 e.2) a.vregs
    dead := a.dead &&& b.dead
    sregs := lo.sregs
    fpctl := lo.fpctl
    gang := lo.gang
    fpstat := a.fpstat ||| b.fpstat
    mstat := lo.mstat
    tcause := lo.tcause
    tpc := lo.tpc
    tlm := lo.tlm
    tva := (lanesOf b.amask).foldl (fun m l => Store.set 0 m l (Store.get 0 b.tva l)) a.tva
    defer := a.defer + b.defer
    rmHold := max a.rmHold b.rmHold
    tmHit := a.tmHit.or b.tmHit
    cmds := a.cmds ++ b.cmds
    restartable := a.restartable && b.restartable }

namespace State

/-- Spill every resident group below a part's window. -/
def spillBelow (s : State) (pid : Nat) : State :=
  if (s.part pid).depth = 0 then s else s.spillTo pid ((s.part pid).depth - 1)

/-- Requests, remote requests and notices of a merged part belong to the merged one (R346, R377). -/
def reown (s : State) (old new : Nat) : State :=
  { s with
    net := { s.net with remotes := s.net.remotes.map (fun e => (e.1, e.2.map (fun r =>
      if r.pid == old then { r with pid := new } else r))) }
    fab := { s.fab with
      posted := s.fab.posted.map (fun e => (e.1, e.2.map (fun r => { r with
        pid := if r.pid == old then new else r.pid
        owners := if r.owners.contains old then (r.owners.map (fun i => if i == old then new else i)).eraseDups
          else r.owners })))
      msgs := s.fab.msgs.map (fun e => (e.1, e.2.map (fun m => match m with
        | .frec t r k (some q) => if q == old then .frec t r k (some new) else m
        | .notice q k => if q == old then .notice new k else m
        | .deferral q => if q == old then .deferral new else m
        | m => m))) } }

/-- The JOINING part continues once the final ARRIVED mask is known and its AMASK covers it (R152). -/
def huddleDone (s : State) (pid : Nat) : State :=
  let p := s.part pid
  match p.st with
  | .joining _ level (some m) =>
    if m &&& ~~~p.amask = 0 ∧ !(s.team p.team).frozen then
      s.setPart pid { p with
        st := if p.pend.isEmpty then .ready else .switched
        pc := p.pc + 1
        umask := 0
        restrict := none
        split := (p.split &&& BitVec.ofNat 32 (2 ^ (4 + level) - 1) &&& 0xFFFFFFF0) ||| BitVec.ofNat 32 level
        issues := p.issues + 1
        lastIssue := s.cyc }
    else s
  | _ => s

/-- Merge part `pid` into the JOINING part `hpid` (R60, R153); groups held differently are spilled first.  When a frame brings it in
a trap handler, the control record of its lanes is fetched (R59). -/
def merge (s : State) (pid hpid : Nat) (frame : Bool) : State :=
  let s1 := if (s.part pid).resLo == (s.part hpid).resLo then s else (s.spillBelow pid).spillBelow hpid
  let b := s1.part pid
  let m := mergeParts (s1.part hpid) b
  let s2 := (s1.setPart hpid m).endPart pid
  let s3 := (s2.reown pid hpid).trace m.unit m 5 m.pc 1
  (if frame && b.h then s3.askFetch hpid m.depth m.depth b.amask else s3).huddleDone hpid

/-! ### Arrival (R60 to R62) -/

/-- Cores of a unit a partition may use: all of a stack's; a hub's as assigned (R60). -/
def coresOf (s : State) (u prt : Nat) : List Nat :=
  if isStack u then List.range 8
  else (List.range 4).filter (fun c =>
    (Store.get 0 (s.partition prt).hubCores (unitPkg u)).getLsbD ((if unitHome u = 17 then 4 else 0) + c))

/-- The core with the fewest parts among those with a free slot, ties to the lowest (R60). -/
def pickCore (s : State) (u prt : Nat) : Option Nat :=
  (s.coresOf u prt).foldl (fun (a : Option Nat) c =>
    if (usedSlots (s.onCore u c)).length ≥ 256 then a
    else
      match a with
      | none => some c
      | some b => if (s.onCore u c).length < (s.onCore u b).length then some c else a) none

/-- Place a frame on a core (R60, R156, R346, R354): READY when its registers fit at once, GROWING otherwise. -/
def place (s : State) (pid u c : Nat) : State :=
  let p := s.part pid
  let used := usedSlots (s.onCore u c)
  let slot := ((List.range 256).find? (fun k => !used.contains k)).getD 0
  let q := { p with
    unit := u
    core := c
    slot := slot
    dest := .none
    st := .ready
    lastIssue := s.cyc
    ask := 0
    shed := 0
    issueAt := 0
    restartable := (s.team p.team).restartable }
  let s1 := (s.setPart pid q).bumpUreg u 0x10020 64 1
  let s2 := s1.trace u q 5 q.pc 0
  if decide (s2.usedGroups u c ≤ 2048) && !s2.growAhead q then s2.settle pid
  else { s2.setPart pid { q with st := .growing q.depth q.w 0 true, ask := s2.ids } with ids := s2.ids + 1 }

def arrQueue (s : State) (u : Nat) : List Nat := Store.get [] s.fab.queue u
def setQueue (s : State) (u : Nat) (q : List Nat) : State :=
  { s with fab := { s.fab with queue := Store.set [] s.fab.queue u q } }
def parking (s : State) (u : Nat) : List Nat := Store.get [] s.fab.park u
def setParking (s : State) (u : Nat) (q : List Nat) : State :=
  { s with fab := { s.fab with park := Store.set [] s.fab.park u q } }

/-- The frames of a list that R61 orders: those that do not wait for an entry of an order log (R415). -/
def inOrder (s : State) (l : List Nat) : List Nat := l.filter (fun i => !(s.part i).unlogged)

/-- Frames of a class in a list. -/
def ofClass (s : State) (l : List Nat) (c0 : Bool) : List Nat := l.filter (fun i => (s.part i).cls0 == c0)

/-- Frames that share queue entries with a partition's: all at a stack, the partition's own at a hub (R383). -/
def ofShare (s : State) (u prt : Nat) (l : List Nat) : List Nat :=
  if isStack u then l else l.filter (fun i => (s.part i).prt == prt)

/-- Room in the arrival queue for a class: 1024 entries, 256 of them reserved for class 0, or at a hub 128 and 32 for
each partition (R61, R383). -/
def queueRoom (s : State) (u prt : Nat) (c0 : Bool) : Bool :=
  let q := s.ofShare u prt (s.arrQueue u)
  let n := if isStack u then 1024 else 128
  if c0 then decide (q.length < n) else decide ((s.ofClass q false).length < n / 4 * 3) && decide (q.length < n)

/-- Class-0 frames in the entries reserved for them: 256 at a stack, 32 of each partition at a hub (R61, R64, R383). -/
def reserved0 (s : State) (u : Nat) : Nat :=
  if isStack u then min 256 (s.ofClass (s.arrQueue u) true).length
  else ((List.range 8).map (fun n => min 32 (s.ofClass (s.ofShare u n (s.arrQueue u)) true).length)).sum

/-- Frames in the parking area, or in a partition's share at a hub (R62). -/
def parkCount (s : State) (u prt : Nat) : Nat := (s.ofShare u prt (s.parking u)).length

/-- PKHIGH.HIGH as it acts (R64). -/
def pkHigh (s : State) (u prt : Nat) : Nat :=
  let o := pkOff u prt
  min o.2.2 (max 8192 ((s.ureg u o.1).toNat % 2 ^ 18))

/-- Raise a management interrupt. -/
def irq (s : State) (u : Nat) (i : Irq) : State := { s with mg := { s.mg with irqs := s.mg.irqs ++ [(u, i)] } }

/-- Stops and their status after the parking area has changed (R62): class 1 stops when HIGH is reached, with HIWAT and an
interrupt, and goes below HIGH − 4096; class 0 stops when the area is full, with FULL. -/
def parkStops (s : State) (u prt : Nat) : State :=
  let o := pkOff u prt
  let n := s.parkCount u prt
  let hi := s.pkHigh u prt
  let st := (s.ureg u o.2.1).toNat
  let was1 := st.testBit 0
  let stop1 := if was1 then decide (hi - 4096 ≤ n) else decide (hi ≤ n)
  let full := decide (o.2.2 ≤ n)
  let begins := stop1 && !was1
  let epis := (bitsOf st 31 16 + (if begins then 1 else 0)) % 65536
  let s1 := s.setUreg u o.2.1 (BitVec.ofNat 64 ((if stop1 then 1 else 0) + (if full then 2 else 0) +
    (if begins || st.testBit 2 then 4 else 0) + (if (full && !st.testBit 1) || st.testBit 3 then 8 else 0) + 65536 * epis))
  if begins then s1.irq u .parking else s1

/-- A free slot of the parking area, the lowest (R61; log 28). -/
def freePark (s : State) (u prt : Nat) : Nat :=
  let used := (s.ofShare u prt (s.parking u)).map (fun i => (s.part i).pslot)
  ((List.range (used.length + 1)).find? (fun n => !used.contains n)).getD 0

/-- The parking area, or a partition's share of it, has room for `n` frames more (R62). -/
def parkRoom (s : State) (u prt n : Nat) : Bool := decide (s.parkCount u prt + n ≤ (pkOff u prt).2.2)

/-- A frame that cannot be placed waits: in the queue, or written to a slot of the parking area (R61). -/
def enqueue (s : State) (pid u : Nat) : State :=
  let p := s.part pid
  let q := { p with
    st := .queued
    unit := u
    pslot := s.freePark u p.prt }
  let s1 := s.setPart pid q
  if (s.ofClass (s.ofShare u p.prt (s.inOrder (s.parking u))) p.cls0).isEmpty && s.queueRoom u p.prt p.cls0 then
    s1.setQueue u (s.arrQueue u ++ [pid])
  else
    let s2 := (s1.writeFrame q (parkSpa u p.prt q.pslot)).setParking u (s.parking u ++ [pid])
    (s2.bumpUreg u 0x10028 64 1).parkStops u p.prt

/-- A frame leaves the queue or the parking area of a unit. -/
def leaveQueue (s : State) (pid u : Nat) : State :=
  let s1 := if (s.arrQueue u).contains pid then s.setQueue u ((s.arrQueue u).erase pid) else s
  if (s1.parking u).contains pid then (s1.setParking u ((s1.parking u).erase pid)).parkStops u (s1.part pid).prt else s1

/-- A new arrival: placed, queued or parked (R60, R61). -/
def arrive (s : State) (pid u : Nat) : State :=
  let p := s.part pid
  let ahead := (s.ofShare u p.prt (s.inOrder (s.arrQueue u ++ s.parking u))).any (fun i => p.cls0 == false || (s.part i).cls0)
  match (if ahead || (s.team p.team).frozen then none else s.pickCore u p.prt) with
  | some c => s.place pid u c
  | none => (s.setPart pid { p with dest := .none }).enqueue pid u

/-- The squad of a frame has been killed, or its team is gone (R60). -/
def orphan (s : State) (p : Part) : Bool :=
  let t := s.team p.team
  p.dying || !t.v || t.launch != p.launch || t.ended.contains p.sq

/-- A parked or held frame has an uncorrectable error: it is never placed (R63). -/
def badFrame (s : State) (pid : Nat) : Bool :=
  let p := s.part pid
  match p.st with
  | .queued => (s.parking p.unit).contains pid && s.frameErr p (parkSpa p.unit p.prt p.pslot)
  | .blocked (.held _ _ _ (some n)) _ => s.frameErr p (holdSpa p.unit n)
  | _ => false

/-- Free a slot of the `cpy` hold area (R301). -/
def freeHold (s : State) (u slot : Nat) : State :=
  { s with fab := { s.fab with hold := Store.set 0 s.fab.hold (u * 8192 + slot) 0 } }

/-- What the dispatcher does with a frame it has accepted (R60).  A frame that is held has the continuation PC; beside it the base
stack keeps the PC of the `cpy`, as the part has it (R301, R350). -/
def accept (s : State) (pid : Nat) : State :=
  let p := s.part pid
  match p.dest with
  | .host u _ hpid => if (s.team p.team).frozen then s.enqueue pid u else s.merge pid hpid true
  | .hold u slot off m cont =>
    let q := { p with st := .blocked (.held off m cont (some slot)) false, unit := u, dest := .none }
    ((s.setPart pid q).writeFrame { q with pc := cont } (holdSpa u slot)).evalWaits p.team
  | .unit u => s.arrive pid u
  | .evict u => s.arrive pid u
  | .none => s

end State

/-- FRAME_ARRIVAL (R60 to R62, R71, R152, R301, R414, R415): the frame is next on its route and its class is not stopped.  A frame
that is not the next entry of the log its unit follows waits in the queue or the parking area until it is. -/
def execFrameArrival (pid : Nat) (s : State) : Out :=
  let p := s.part pid
  let u := p.dest.unitOf
  let waits := p.st == .queued && p.unlogged
  if !p.live || p.dest == .none || s.pkgStopped (unitPkg u) then .next s
  else if !waits && (p.st != .travelling || !s.arrives p.seq || s.arrStopped u p.prt p.cls0) then .next s
  else
    let s1 := ((s.setVia p.seq none).leaveQueue pid u).setPart pid { p with unlogged := false }
    if s.orphan p then
      match p.dest with
      | .hold u slot _ _ _ => .next ((s1.freeHold u slot).endPart pid)
      | _ => .next (s1.endPart pid)
    else
      let ent := State.orderEntry p 0 p.amask (match p.dest with | .hold _ _ _ _ c => c | _ => p.pc)
      if s.orderAllows p.prt u ent then .next ((s1.order p.prt u ent).accept pid)
      else if waits then .next s
      else .next ((s1.setPart pid { p with unlogged := true }).enqueue pid u)

/-- A frame merges at its host and needs no slot (R60). -/
def Dest.merges : Dest → Bool
  | .host _ _ _ => true
  | _ => false

/-- The frames of an arrival queue in the order in which the dispatcher serves them (R61): class 0 first, oldest first; no class-1
frame while a class-0 frame is parked that shares entries with it.  Frames of a frozen team stay (R357). -/
def State.serveOrder (s : State) (u : Nat) : List Nat :=
  let moves := fun (i : Nat) => !(s.team (s.part i).team).frozen
  let q := (s.inOrder (s.arrQueue u)).filter moves
  let held := (s.inOrder (s.ofClass (s.parking u) true)).filter moves
  s.ofClass q true ++ (s.ofClass q false).filter (fun i => (s.ofShare u (s.part i).prt held).isEmpty)

/-- FRAME_DISPATCH (R60, R61): a waiting frame is merged or placed. -/
def execFrameDispatch (u : Nat) (s : State) : Out :=
  let q := s.arrQueue u
  match (s.serveOrder u).find? (fun i => s.orphan (s.part i) || (s.part i).dest.merges ||
      (s.pickCore u (s.part i).prt).isSome) with
  | none => .next s
  | some i =>
    let s1 := s.setQueue u (q.erase i)
    if s.pkgStopped (unitPkg u) then .next s
    else if s.orphan (s.part i) then .next (s1.endPart i)
    else
      match (s.part i).dest with
      | .host _ _ hpid => .next (s1.merge i hpid true)
      | _ =>
        match s1.pickCore u (s.part i).prt with
        | some c => .next (s1.place i u c)
        | none => .next s

/-- FRAME_UNPARK (R61 to R63): the oldest parked frame whose class has room returns to the queue; one with an uncorrectable
error never does (CONTEXT_LOSS discards it). -/
def execFrameUnpark (u : Nat) (s : State) : Out :=
  match (s.inOrder (s.parking u)).find? (fun i => s.queueRoom u (s.part i).prt (s.part i).cls0) with
  | none => .next s
  | some i =>
    if s.badFrame i then .next s
    else .next (((s.setParking u ((s.parking u).erase i)).setQueue u (s.arrQueue u ++ [i])).parkStops u (s.part i).prt)

/-- CPY_HOLD_RELEASE (R301, R350): a held frame whose condition holds enters the arrival queue, or with the PC of its `cpy` one to
which a record has been assigned. -/
def execCpyHoldRelease (pid : Nat) (s : State) : Out :=
  let p := s.part pid
  match p.st with
  | .blocked (.held _ _ cont (some slot)) rep =>
    if !p.live || (s.team p.team).frozen || s.badFrame pid || !s.parkRoom p.unit p.prt 1 then .next s
    else if p.recWake then .next (((s.freeHold p.unit slot).setPart pid (p.again s.cyc)).arrive pid p.unit)
    else if rep then .next (((s.freeHold p.unit slot).setPart pid (p.awake s.cyc cont)).arrive pid p.unit)
    else .next s
  | _ => .next s

end Sys2Proof.Machine
end

