-- ==== Sys2Proof/Machine/Squads.lean ====
section
/-! DEFINITION. Events of squads: creation and start (R336, R333), huddles (R152, R154), exits and kills (R313), the end
of a team (R139), and failing latch entries (R161). -/

namespace Sys2Proof.Machine

namespace State

/-- Write zero to a macro and its side array, with its marks (R82, R139). -/
def zeroMacro (s : State) (u m : Nat) : State :=
  let s1 := (s.zeroBytes (macroSpa u m) 0x10000).zeroBytes (sideSpa u m) 0x1000
  let out := fun (lo n unit k : Nat) => !(decide (lo ≤ k * unit) && decide (k * unit < lo + n))
  { s1 with
    poisonMark := s1.poisonMark.filter (fun e => out (sideSpa u m) 0x1000 1 e.1)
    ecc := s1.ecc.filter (fun e => out (macroSpa u m) 0x10000 32 e.1 && out (sideSpa u m) 0x1000 32 e.1) }

/-- Write zero to every macro of a team's allocation. -/
def zeroAlloc (s : State) (tk : Nat) : State :=
  (List.range (s.team tk).mcount).foldl (fun (s : State) i =>
    s.zeroMacro (tk / 256) (s.macroEntry (tk / 256) ((s.team tk).mbase + i))) s

/-- Write one entry of the macro map table (R335). -/
def setMacroEntry (s : State) (u e m : Nat) : State :=
  let off := 0x68000 + 8 * (e / 4)
  let w := (s.ureg u off).toNat
  let sh := 16 * (e % 4)
  s.setUreg u off (BitVec.ofNat 64 (w - w / 2 ^ sh % 65536 * 2 ^ sh + m * 2 ^ sh))

/-- Zero the entries of a team's span (R335). -/
def freeEntries (s : State) (u : Nat) (t : Team) : State :=
  (List.range t.mcount).foldl (fun (s : State) i => s.setMacroEntry u (t.mbase + i) 0) s

/-- Parts of a team. -/
def teamParts (s : State) (tk : Nat) : List (Nat × Part) := s.parts.filter (fun e => e.2.live && e.2.team == tk)

/-- Trace the end of a squad, by its exits (0) or by a kill (1) (R403). -/
def traceEnd (s : State) (tk sq how : Nat) : State :=
  let t := s.team tk
  s.trace (tk / 256) { Part.absent with
    launch := t.launch
    tx := t.tx
    ty := t.ty
    tz := t.tz
    sq := sq
    prt := t.prt
    world := (s.partition t.prt).secure } 7 0 how

/-- A bind record (R334): START, ENTRY, TSLOT, SQFIRST, SQN. -/
def bindRec (s : State) (u n : Nat) : Nat × Nat × Nat × Nat × Nat :=
  let a := (s.ureg u (0x61000 + 16 * n)).toNat
  let b := (s.ureg u (0x61008 + 16 * n)).toNat
  (a, b % 2 ^ 32, bitsOf b 47 32, bitsOf b 55 48, bitsOf b 63 56)

/-- A bind record is one of a team's: waiting for a slot, or posted. -/
def recOf (tk : Nat) (r : Nat × DWord × DWord) : Bool := r.1 == tk / 256 && r.2.2.toNat / 2 ^ 32 % 256 == tk % 256
def bindOf (s : State) (tk : Nat) (b : Bind) : Bool := b.unit == tk / 256 && (s.bindRec b.unit b.slot).2.2.1 % 256 == tk % 256

/-- Bind records of a team are still pending. -/
def binding (s : State) (tk : Nat) : Bool := s.mg.recs.any (recOf tk) || s.mg.binds.any (s.bindOf tk)

/-- The pending bind records of a team that is killed are dropped: its squads do not come to be (R314). -/
def dropBinds (s : State) (tk : Nat) : State :=
  { s with mg := { s.mg with
    recs := s.mg.recs.filter (fun r => !recOf tk r)
    binds := s.mg.binds.filter (fun b => !s.bindOf tk b) } }

/-- The image that is being laid back in a team's place is given up. -/
def dropLaid (s : State) (tk : Nat) : State :=
  { s with mg := { s.mg with images := s.mg.images.filter (fun e => (e.2.bind Image.laid) != some tk) } }

/-- The end of a team (R139, R351): its squads have ended and nothing of it remains on its way; its records become error
records, its allocation is zeroed and released. -/
def teamEnd (s : State) (tk : Nat) : State :=
  let t := s.team tk
  let busy := !t.ents.isEmpty || s.binding tk || !(s.teamParts tk).isEmpty || s.fab.posted.any (fun e => match e.2 with
      | some r => r.team == tk
      | none => false) || s.fab.msgs.any (fun e => match e.2 with
      | some (.command _ q _) => q == tk
      | some (.frec q _ _ _) => q == tk
      | _ => false)
  if !t.v || !((List.range t.sqn).all t.squadEnded) || busy then s
  else
    let lk := lkey t.prt t.launch
    let s1 := t.recs.foldl (fun (s : State) r => s.errorRecord lk t r.sq 5 0 12 r.pc) s
    let s2 := (List.range t.sqn).foldl (fun (s : State) q =>
      if Store.get 0 t.drops q = 0 then s else s.errorRecord lk t q 5 0 12 0) s1
    let s3 := s2.zeroAlloc tk
    let s4 := s3.freeEntries (tk / 256) t
    let l := s4.launch lk
    (s4.setTeam tk Team.absent).setLaunch lk { l with ended := l.ended + 1 }

/-! ### The rendezvous latch (R161) -/

end State

/-- Squads listed in GANG, ascending. -/
def gangList (g : Word) : List Nat := (List.range 32).filter (fun i => g.getLsbD i)

/-- Every listed squad has arrived or ended. -/
def Latch.settled (e : Latch) (t : Team) : Bool :=
  (gangList e.gang).all (fun q => e.arrived.any (fun a => a.1 == q) || t.squadEnded q)

/-- A listed squad has ended while the entry waits for it. -/
def Latch.broken (e : Latch) (t : Team) : Bool :=
  (gangList e.gang).any (fun q => t.squadEnded q && !e.arrived.any (fun a => a.1 == q))

namespace State

/-- A failed entry traps every part it holds (R161, SCRUM_FAIL). -/
def latchFail (s : State) (e : Latch) : State :=
  e.arrived.foldl (fun (s : State) a =>
    if (s.part a.2.1).live && (s.part a.2.1).st == .latched then
      (s.mapPart a.2.1 (fun p => { p with lastIssue := s.cyc })).trapAt a.2.1 .scrumMismatch a.2.2.1 [] else s) s

/-- The entry holds no part any more: a squad may arrive again under another key (R161). -/
def releaseHeld (e : Latch) : Latch := { e with arrived := e.arrived.map (fun a => (a.1, 0, a.2.2)) }

/-- Fail the entries whose squads have ended, and close settled failed entries (R161). -/
def latchSweep (s : State) (tk : Nat) : State :=
  let t := s.team tk
  let es := t.latch.map (fun e => if e.broken t then { e with failed := true } else e)
  let s1 := s.mapTeam tk (fun t => { t with
    latch := (es.map (fun e => if e.failed then releaseHeld e else e)).filter (fun e => !(e.failed && e.settled t)) })
  (es.filter (fun e => e.failed)).foldl (fun (s : State) e => s.latchFail e) s1


/-! ### Exits (R154) -/

/-- Check an open huddle after lanes have left (R154). -/
def huddleExit (s : State) (tk sq h : Nat) (m : Mask) : State :=
  let t := s.team tk
  let k := sq * 16 + h
  let e := Store.get Huddle.closed t.huddles k
  if e.isOpen && (e.expect &&& m) != 0 && (e.expect &&& ~~~(e.arrived ||| t.exitedOf sq)) == 0 then
    let s1 := s.setTeam tk { t with huddles := Store.set Huddle.closed t.huddles k Huddle.closed }
    if e.hostv then s1.post (.finalMask e.hpid e.arrived e.level) else s1
  else s

/-- Lanes of a squad have exited: EXITED, huddles, barriers, the latch, and the end of the team. -/
def exitLanes (s : State) (tk sq : Nat) (m : Mask) : State :=
  let s1 := s.mapTeam tk (fun t => { t with exited := Store.set 0 t.exited sq (t.exitedOf sq ||| m) })
  let s2 := lanes16.foldl (fun (s : State) h => s.huddleExit tk sq h m) s1
  let s3 := s2.mapTeam tk Team.barAll
  ((s3.latchSweep tk).evalWaits tk).teamEnd tk

end State

/-- EXIT_NOTICE (R154, R139, R161, R162). -/
def execExitNotice (k : Nat) (s : State) : Out :=
  match s.msg k with
  | some (.exitMask tk sq m) =>
    if !s.arrives k then .next s else
    let s1 := s.dropMsg k
    let t := s1.team tk
    let whole := !t.squadEnded sq && (t.exitedOf sq ||| m) == 0xFFFF
    let s2 := if whole then s1.traceEnd tk sq 0 else s1
    .next (s2.exitLanes tk sq m)
  | _ => .next s

/-! ### Huddles (R152) -/

/-- SPLIT after a join: depth `level`, path bits at and above 4 + level cleared (R152). -/
def splitJoined (x : Word) (level : Nat) : Word :=
  (x &&& BitVec.ofNat 32 (2 ^ (4 + level) - 1) &&& 0xFFFFFFF0) ||| BitVec.ofNat 32 level

/-- JOIN_REQUEST (R152): the barrier unit handles one JOIN. -/
def execJoinRequest (k : Nat) (s : State) : Out :=
  match s.msg k with
  | some (.join pid h) =>
    let p := s.part pid
    let e := s.huddle p h
    let hp := s.part e.hpid
    if !s.arrives k then .next s
    else if s.earlierMsg k pid then .next (s.landed k)
    else if !p.live then .next (s.dropMsg k)
    else if !e.isOpen then .next (s.answerMsg k pid (.joinReply pid h 0 0 0))
    else if e.level + 1 ≠ p.sdepth || (e.hostv && (hp.w != p.w || hp.depth != p.depth || hp.h != p.h)) then
      .next (s.answerMsg k pid (.joinReply pid h 1 0 0))
    else
      let e1 := { e with arrived := e.arrived ||| p.amask }
      if (e1.expect &&& ~~~(e1.arrived ||| (s.team p.team).exitedOf p.sq)) == 0 then
        let s1 := s.setHuddle p h Huddle.closed
        if e.hostv then
          .next ((s1.answerMsg k pid (.joinReply pid h 4 e.level e.hpid)).post (.finalMask e.hpid e1.arrived e.level))
        else .next (s1.answerMsg k pid (.joinReply pid h 2 e.level 0))
      else if !e.hostv then
        .next ((s.setHuddle p h { e1 with hostv := true, host := coreKey p.unit p.core, hpid := pid }).answerMsg k pid
          (.joinReply pid h 3 e.level 0))
      else .next ((s.setHuddle p h e1).answerMsg k pid (.joinReply pid h 4 e.level e.hpid))
  | _ => .next s

/-- JOIN_REPLY (R152): the core continues, holds or passes the part; a pass reads the live set first (R51, R55).  A part whose
live-set entry cannot be fetched traps at its `hjoin`, though its lanes were counted in ARRIVED: R223 does not say (log 37). -/
def execJoinReply (pid : Nat) (s : State) : Out :=
  match s.fab.msgs.find? (fun e => match e.2 with | some (.joinReply q _ _ _ _) => q == pid | _ => false) with
  | some (k, some (.joinReply _ h kind level hpid)) =>
    let s1 := s.dropMsg k
    let p := { s.part pid with pend := [] }
    let hp := s.part hpid
    if !s.arrives k then .next s
    else if !p.live then .next s1
    else if kind = 0 then .next (s1.setPart pid (p.awake s.cyc (p.pc + 1)))
    else if kind = 1 then 
      .next ((s1.setPart pid { p with st := .ready, lastIssue := s.cyc }).trapAt pid .branchNonuniform p.amask [])
    else if kind = 2 then
      .next (s1.setPart pid { p.awake s.cyc (p.pc + 1) with split := splitJoined p.split level })
    else if kind = 3 then .next (s1.setPart pid { p with st := .joining h level none, restrict := none })
    else if hp.unit = p.unit ∧ hp.core = p.core then .next ((s1.setPart pid p).merge pid hpid false)
    else if p.st != .switched || s.xlatWait (.part pid) then .next (s.landed k)
    else if !p.mi.denied.isEmpty then
      .next ((s1.setPart pid { p with st := .ready, lastIssue := s.cyc }).trapAt pid .protection (State.deniedLanes p) p.mi.denied)
    else
      match s.liveMask pid p.lsi with
      | .inl _ => .next ((s1.setPart pid { p with restrict := none }).passTo pid (.host hp.unit hp.core hpid) p.lsi 0)
      | .inr (.chk va at' (.fail c)) =>
        .next ((s1.setPart pid { p with st := .ready, lastIssue := s.cyc }).fetchFail pid (.chk va at' (.fail c)))
      | .inr f => .next ((s.landed k).fetchFail pid f)
  | _ => .next s

/-- HUDDLE_FINAL_MASK (R152): the final ARRIVED mask reaches the host. -/
def execHuddleFinalMask (pid : Nat) (s : State) : Out :=
  match s.fab.msgs.find? (fun e => match e.2 with | some (.finalMask q _ _) => q == pid | _ => false) with
  | some (k, some (.finalMask _ m _)) =>
    let p := s.part pid
    if !s.arrives k then .next s
    else if !p.live then .next (s.dropMsg k)
    else
      match p.st with
      | .joining h level _ =>
        .next (((s.dropMsg k).setPart pid { p with st := .joining h level (some m) }).huddleDone pid)
      | _ => .next (s.landed k)
  | _ => .next s

/-! ### Kills (R313, R314) -/

namespace State

/-- End a part by a kill; a held frame frees its slot (R301, R313). -/
def killPart (s : State) (pid : Nat) : State :=
  let p := s.part pid
  let s1 := match p.st, p.dest with
    | .blocked (.held _ _ _ (some slot)) _, _ => s.freeHold p.unit slot
    | .queued, .hold u slot _ _ _ => s.freeHold u slot
    | _, _ => s
  ((s1.leaveQueue pid p.unit).clearXlats (.part pid)).endPart pid

/-- A kill reaches a part on a core or in a dispatcher (R313): it ends now, or at its next boundary. -/
def killAt (s : State) (pid : Nat) : State :=
  let p := s.part pid
  match p.st with
  | .ready => s.setPart pid { p with dying := true }
  | .switched => s.setPart pid { p with dying := true }
  | .departing _ => s.setPart pid { p with dying := true }
  | .travelling => s.setPart pid { p with dying := true }
  | .growing _ _ _ _ => s.setPart pid { p with dying := true }
  | _ => s.killPart pid

/-- The barrier unit's part of a kill of one squad (R313 steps 2 and 5). -/
def killBase (s : State) (tk sq : Nat) : State :=
  let t := s.team tk
  let s1 := s.setTeam tk { t with ended := if t.ended.contains sq then t.ended else t.ended ++ [sq] }
  let s2 := if t.squadEnded sq then s1 else s1.traceEnd tk sq 1
  let s3 := s2.keepMsgs (fun m => match m with
    | .command _ q c => !(q == tk && c.squads.all (fun i => i == sq || t.ended.contains i))
    | _ => true)
  s3.exitLanes tk sq 0xFFFF

end State

/-- KILL_DELIVERY (R313, R314): at the barrier unit (unit 0), then at each unit (one more than its number); a squad
number of 64 kills the team. -/
def execKillDelivery (k : Nat) (s : State) : Out :=
  match s.msg k with
  | some (.kill tk sq 0) =>
    if !s.arrives k then .next s else
    let t := s.team tk
    let s1 := if sq < 64 then s.dropMsg k else ((s.dropMsg k).dropBinds tk).dropLaid tk
    let sqs := if sq < 64 then [sq] else List.range t.sqn
    let us := ((s1.parts.filter (fun e => e.2.live && e.2.team == tk && sqs.contains e.2.sq)).map
      (fun e => e.2.unit)).eraseDups
    let s2 := us.foldl (fun (s : State) u => s.post (.kill tk sq (u + 1))) s1
    let s3 := if sq < 64 then s2 else s2.mapTeam tk (fun t => { t with
      killed := true, ents := t.ents.filter (fun e => e.begun) })
    .next ((sqs.foldl (fun (s : State) q => s.killBase tk q) s3).teamEnd tk)
  | some (.kill tk sq (u + 1)) =>
    if !s.arrives k then .next s else
    let ps := s.parts.filter (fun e => e.2.live && e.2.team == tk && (sq ≥ 64 || e.2.sq == sq) && e.2.unit == u)
    .next ((ps.foldl (fun (s : State) e => s.killAt e.1) (s.dropMsg k)).teamEnd tk)
  | _ => .next s

/-! ### Creation and start (R138, R325, R336) -/

namespace State

/-- The launch's latency class and priority (R325). -/
def launchClass (l : Launch) : Bool × Nat :=
  let c := fieldOf l.packet 15 1
  let pr := fieldOf l.packet 14 1
  ((if c = 0 then fieldOf l.header 44 1 % 2 == 1 else c == 2), (if pr = 255 then fieldOf l.header 45 1 else pr))

/-- A squad as its bind record creates it (R138, R336). -/
def newSquad (s : State) (u : Nat) (tk sq win : Nat) (entry : Word) (start : DWord) : Part :=
  let t := s.team tk
  let l := s.launch (lkey t.prt t.launch)
  let c := launchClass l
  let id := t.tx.toNat + fieldOf l.packet 8 2 * (t.ty.toNat + fieldOf l.packet 10 2 * t.tz.toNat)
  let sr := [(0, fieldOf l.packet 16 4), (1, fieldOf l.packet 20 4), (2, id), (3, sq)]
  { Part.absent with
    live := true
    launch := t.launch
    tx := t.tx
    ty := t.ty
    tz := t.tz
    sq := sq
    prt := t.prt
    world := (s.partition t.prt).secure
    lat := c.1
    prio := c.2
    team := tk
    st := .queued
    unit := u
    pc := entry
    amask := 0xFFFF
    w := win
    sregs := sr.foldl (fun m e => Store.set 0 m e.1 (BitVec.ofNat 32 e.2)) []
    spill := t.spillbase + sq * t.spillu
    spillu := t.spillu
    start := start
    opens := some (start.setWidth 32) }

/-- Create squads in ascending SQID and enter each in the dispatcher; a squad that has been killed does not come to be (R60,
R336). -/
def createSquads (s : State) (u tk win : Nat) (entry : Word) (start : DWord) : Nat → Nat → State
  | _, 0 => s
  | sq, n + 1 =>
    let pid := s.ids
    let p := s.newSquad u tk sq win entry start
    let s1 := { s.setPart pid p with ids := pid + 1 }
    (if s.orphan p then s else s1.arrive pid u).createSquads u tk win entry start (sq + 1) n

/-- Write waiting bind records to free slots and post them (R334). -/
def postRecs (s : State) : List (Nat × DWord × DWord) → State
  | [] => { s with mg := { s.mg with recs := [] } }
  | (u, a, b) :: rest =>
    match (List.range 256).find? (fun n => !s.mg.binds.any (fun x => x.unit == u && x.slot == n)) with
    | none =>
      let s1 := s.postRecs rest
      { s1 with mg := { s1.mg with recs := (u, a, b) :: s1.mg.recs } }
    | some n =>
      let s1 := (s.setUreg u (0x61000 + 16 * n) a).setUreg u (0x61008 + 16 * n) b
      let s2 : State := { s1 with mg := { s1.mg with binds := s1.mg.binds ++ [⟨u, n⟩] } }
      s2.postRecs rest

end State

/-- STPOST (R334): GO posts a bind record, or sets LOST when it is pending already. -/
def execStpost (u rec : Nat) (s : State) : Out :=
  let n := rec % 256
  if s.mg.binds.any (fun b => b.unit == u && b.slot == n) then
    .next (s.setUreg u 0x60008 (s.ureg u 0x60008 ||| 0x200))
  else .next { s with mg := { s.mg with binds := s.mg.binds ++ [⟨u, n⟩] } }

/-- SQUAD_CREATE (R336): the squads of a posted record, at the later of START − 2048 and the posting. -/
def execSquadCreate (u rec : Nat) (s : State) : Out :=
  let n := rec % 256
  let b := s.bindRec u n
  if s.mg.binds.any (fun x => x.unit == u && x.slot == n) && decide (b.1 ≤ (s.tickAt u).toNat + 2048) &&
      s.parkRoom u (s.team (u * 256 + b.2.2.1 % 256)).prt (b.2.2.2.2 % 64) then
    let s1 := { s with mg := { s.mg with binds := s.mg.binds.filter (fun x => !(x.unit == u && x.slot == n)) } }
    let s2 := s1.createSquads u (u * 256 + b.2.2.1 % 256) (8 * (b.2.2.2.2 / 64 + 1)) (BitVec.ofNat 32 b.2.1)
      (BitVec.ofNat 64 b.1) (b.2.2.2.1 % 32) (b.2.2.2.2 % 64)
    .next (s2.postRecs s2.mg.recs)
  else .next s

/-- SQUAD_START (R333): the tick at the core has reached START, and the squad becomes eligible. -/
def execSquadStart (pid : Nat) (s : State) : Out :=
  let p := s.part pid
  if p.live && p.start != 0 && decide (p.start.toNat ≤ (s.tickAt p.unit).toNat) then
    .next (s.setPart pid { p with start := 0, lastIssue := s.cyc })
  else .next s

end Sys2Proof.Machine
end

