-- ==== Sys2Proof/Machine/System.lean ====
section
/-! DEFINITION. Class 0xB: special registers (R308 to R310), `trap`, `brkpt` and `eret` (R311, R312), ending squads and
teams (R313, R314), waiting (R315 to R317), `smark` and `icinv` (R318, R319). -/

namespace Sys2Proof.Machine

/-- Number of elements a special register is indexed by, and the element named (R309). -/
def elemOf (p : Part) : Option Opnd → Nat
  | none => 0
  | some o => p.val 0 false o 0

namespace State

/-- STACKID: the virtual number of a unit in a partition's VMAP (R337, R361). -/
def stackId (s : State) (u prt : Nat) : Nat :=
  (s.ureg u (0x18000 + 0x1000 * prt + 8 * (u / 4))).toNat / 2 ^ (16 * (u % 4)) % 2048

/-- Records of a squad in its team's collector, oldest first (R348). -/
def squadRecs (t : Team) (sq : Nat) : List FRec := t.recs.filter (fun r => r.sq == sq)

/-- The value `srd` reads for lane `l` (R308, R309). -/
def specVal (s : State) (p : Part) (r : SReg) (w64 : Bool) (e l : Nat) : Nat :=
  match r with
  | .laneid => l
  | .sqid => p.sq
  | .teamid =>
    let k := (s.launchOf p).packet
    (p.tx.toNat + fieldOf k 8 2 * (p.ty.toNat + fieldOf k 10 2 * p.tz.toNat)) % 2 ^ 32
  | .teamx => p.tx.toNat
  | .teamy => p.ty.toNat
  | .teamz => p.tz.toNat
  | .launchid => p.launch.toNat
  | .stackid => s.stackId p.unit p.prt
  | .partid => p.prt + (if p.world then 8 else 0)
  | .amask => p.amask.toNat
  | .gang => (match p.pend.find? (fun e => match e.cond with | .gang _ => true | _ => false) with
    | some e => (match e.cond with
      | .gang old => if Config.pendBit e.id p.issues l then p.gang.toNat else old.toNat
      | _ => p.gang.toNat)
    | none => p.gang.toNat)
  | .ticklo => if w64 then (s.tickAt p.unit).toNat else (s.tickAt p.unit).toNat % 2 ^ 32
  | .tickhi => (s.tickAt p.unit).toNat / 2 ^ 32
  | .fpstat => p.fpstat.toNat
  | .fpctl => p.fpctl.toNat
  | .tcause => p.tcause
  | .tpc => p.tpc.toNat
  | .tlm => p.tlm.toNat
  | .tva => if e < 16 then (Store.get 0 p.tva e).toNat else 0
  | .sfqhead => match squadRecs (s.team p.team) p.sq with | [] => 0xFFFFFFFF | x :: _ => x.slot
  | .sfqcount => (squadRecs (s.team p.team) p.sq).length
  | .mstat => if e < 8 then (Store.get 0 p.mstat e).toNat else 0

end State

/-- `srd` (R309). -/
def execSrd (h : Hdr) (w64 : Bool) (d : Opnd) (r : SReg) (e : Option Opnd) (s : State) : Out :=
  issueW h [] [(d, w64)] false (fun _ => false)
    (fun s p act => .done (s.setPart s.cur (p.run act d w64 (fun l => (s.specVal p r w64 (elemOf p e) l, 0))))) s

/-- Clear words 1 to 4 of a matrix status word (R296). -/
def clearPoison (m : Store Word) : Store Word := m.filter (fun e => !(decide (1 ≤ e.1) && decide (e.1 ≤ 4)))

/-- The clearing reaches the team's status word (R296). -/
def execMstatClear (k : Nat) (s : State) : Out :=
  match s.msg k with
  | some (.clearMst _ tk) =>
    if !s.arrives k then .next s
    else .next ((s.dropMsg k).mapTeam tk (fun t => { t with mstat := clearPoison t.mstat }))
  | _ => .next s

/-- `swr` (R296, R310). -/
def execSwr (h : Hdr) (w64 : Bool) (r : SReg) (a : Opnd) (e : Option Opnd) (c : Word) (s : State) : Out :=
  issueW h [] [] false (fun _ => false)
    (fun s p act =>
      let x := p.val c w64 a 0
      match r with
      | .fpstat => .done (s.setPart s.cur { p with fpstat := BitVec.ofNat 16 (x % 64) })
      | .fpctl => .done (s.setPart s.cur { p with fpctl := BitVec.ofNat 8 (x % 64) })
      | .tpc => if p.h then .done (s.setPart s.cur { p with tpc := BitVec.ofNat 32 x })
          else .trap s .protection act []
      | .tlm => if p.h then .done (s.setPart s.cur { p with tlm := BitVec.ofNat 16 x })
          else .trap s .protection act []
      | .mstat =>
        if elemOf p e = 1 && x.testBit 31 then
          .done ((s.setPart s.cur { p with mstat := clearPoison p.mstat }).post (.clearMst s.cur p.team))
        else .done s
      | _ => .done s) s

/-! ### Traps and return -/

/-- TVA of `trap n` and `brkpt n`: n for each lane of `act` (R311). -/
def trapNums (act : Mask) (n : BitVec 16) : List (Nat × DWord) := (lanesOf act).map (fun l => (l, n.setWidth 64))

/-- `trap` (R311). -/
def execTrap (h : Hdr) (n : BitVec 16) (s : State) : Out :=
  issueW h [] [] true (fun _ => false)
    (fun s p act => .stay (s.takeTrap s.cur .software (p.pc + 1) act (trapNums act n) p.pc)) s

/-- A squad is held: an entry of its unit's HOLD table names it (R404). -/
def State.heldPart (s : State) (p : Part) : Bool :=
  lanes16.any (fun n =>
    let e := s.ureg p.unit (dbgOff p.unit (0x400 + 8 * n))
    e.getLsbD 38 && e.toNat % 2 ^ 32 == p.launch.toNat && (e.getLsbD 37 || bitsOf e.toNat 36 32 == p.sq))

/-- `brkpt` (R311): a held part stops instead of taking the trap (R406). -/
def execBrkpt (h : Hdr) (n : BitVec 16) (s : State) : Out :=
  issueW h [] [] true (fun _ => false)
    (fun s p act =>
      if s.heldPart p then
        .done ((s.trace p.unit p 2 p.pc n.toNat).setPart s.cur { p with stop := .breakpoint })
      else .stay (s.takeTrap s.cur .breakpoint (p.pc + 1) act (trapNums act n) p.pc)) s

/-- `eret` (R307, R312): registers that are not resident come by frame fetch first, after a growth request (R59, R156). -/
def execEret (h : Hdr) (s : State) : Out :=
  issueW h [] [] true (fun _ => false)
    (fun s p act =>
      if act ≠ p.amask then .trap s .branchNonuniform act []
      else if !p.h then .trap s .protection act []
      else if p.depth < 2 then .trap s .protection act []
      else if p.depth - 2 < p.resLo then .stay (s.fetchGroups s.cur (p.depth - 2))
      else .stay ((s.setPart s.cur { p.trapReturn with
        umask := 0, mi := MemOp.idle, flushed := false, ask := 0, shed := 0, bpPass := none, issues := p.issues + 1, lastIssue := s.cyc }))) s

/-! ### Ending squads and teams -/

/-- `sqkill` (R307, R313). -/
def execSqkill (h : Hdr) (s : State) : Out :=
  issueW h [] [] true (fun _ => false)
    (fun s p act => if act ≠ p.amask then .trap s .branchNonuniform act [] else .stay (s.killSquad s.cur)) s

/-- `tmkill` (R307, R314, R330). -/
def execTmkill (h : Hdr) (s : State) : Out :=
  issueW h [] [] true (fun _ => false)
    (fun s p act =>
      if act ≠ p.amask then .trap s .branchNonuniform act []
      else
        let s1 := s.errorRecord (State.lkey p.prt p.launch) (s.team p.team) p.sq 2 0 0 p.pc
        .stay ((s1.post (.kill p.team 64 0)).endPart s.cur)) s

/-! ### Waiting -/

/-- `relax` (R315). -/
def execRelax (h : Hdr) (n : BitVec 12) (s : State) : Out :=
  issueW h [] [] false (fun _ => false)
    (fun s p _ => .done (s.setPart s.cur { p with relaxTo := s.cycAt p.unit + (if n = 0 then 64 else n.toNat) })) s

/-- `sleep` (R316). -/
def execSleep (h : Hdr) (a : Opnd) (c : Word) (s : State) : Out :=
  issueW h [] [] true (fun _ => false)
    (fun s p _ =>
      let n := p.val c false a 0
      if n = 0 then .done s else .stay (s.block s.cur (.tick (s.tickAt p.unit + BitVec.ofNat 64 n)))) s

/-- `twait` (R317). -/
def execTwait (h : Hdr) (a : Opnd) (c : Word) (s : State) : Out :=
  issueW h [] [] true (fun _ => false)
    (fun s p _ =>
      let t := p.val c true a 0
      if t ≤ (s.tickAt p.unit).toNat then .done s else .stay (s.block s.cur (.tick (BitVec.ofNat 64 t)))) s

/-! ### Marks and the instruction cache -/

/-- `smark` (R318). -/
def execSmark (h : Hdr) (n : BitVec 16) (s : State) : Out :=
  issueW h [] [] false (fun _ => false) (fun s p _ => .done (s.trace p.unit p 0 p.pc n.toNat)) s

/-- `icinv` (R319): long, it holds no later instruction; the lines of its reach leave the caches when the release condition
has come to hold. -/
def execIcinv (h : Hdr) (reach : Fin 4) (s : State) : Out :=
  issueW h [] [] false (fun _ => false) (fun s _ _ => .done (s.pendCond s.cur (.icinv reach.val) false)) s

end Sys2Proof.Machine
end

