-- ==== Sys2Proof/Machine/Launch.lean ====
section
/-! DEFINITION. Launches (R320 to R338): queues and doorbells, checks, admission, placement, bind records, completion. -/

namespace Sys2Proof.Machine

/-- Queue registers of a partition, in block 5 of hub 0 (R322). -/
def lqOff (prt q : Nat) : Nat := 0x51000 + 0x200 * prt + 0x20 * q

/-- LOG of LQCFG as it acts (R322). -/
def lqLog (cfg : DWord) : Nat := min 12 (cfg.toNat % 16)

/-! ### Fields of packets, headers and roles (R320, R321, R324) -/

def Launch.pk (l : Launch) (off n : Nat) : Nat := fieldOf l.packet off n
def Launch.hd (l : Launch) (off n : Nat) : Nat := fieldOf l.header off n
def Launch.teams (l : Launch) : Nat := l.pk 8 2 * l.pk 10 2 * l.pk 12 2
def Launch.timed (l : Launch) : Bool := (l.hd 6 2).testBit 1
/-- Macros of a team's allocation (R20, R328). -/
def Launch.need (l : Launch) : Nat := (l.hd 24 4 + 65535) / 65536 + l.hd 22 2
def Launch.squads (l : Launch) : Nat := l.roles.foldl (fun a r => a + r.squads) 0

/-- Any byte of a range is not zero. -/
def anyByte (bs : List Byte) (off n : Nat) : Bool := ((bs.drop off).take n).any (fun b => b != 0)

/-- The packet checks (R328, PACKET). -/
def packetBad (k : List Byte) : Bool :=
  let f := fieldOf k
  anyByte k 121 3 || decide (2 ≤ f 120 1) || (decide (3 < f 14 1) && f 14 1 != 255) || decide (2 < f 15 1) ||
    f 8 2 == 0 || f 10 2 == 0 || f 12 2 == 0 || f 0 8 % 64 != 0 || f 96 8 % 8 != 0 || f 112 8 % 64 != 0 ||
    [32, 48, 64, 80].any (fun o => f o 8 % 8 != 0)

def winOk (w : Nat) : Bool := w == 8 || w == 16 || w == 24 || w == 32

/-- Limits of a role record (R321). -/
def roleBad (code : Nat) (r : List Byte) : Bool :=
  let f := fieldOf r
  decide (3 < f 0 1) || f 1 1 == 0 || decide (32 < f 1 1) || !winOk (f 2 1) || anyByte r 3 1 || anyByte r 8 8 ||
    decide (code ≤ f 4 4)

/-- Limits of the header (R320, R328). -/
def headerBad (h : List Byte) (roles : List (List Byte)) : Bool :=
  let f := fieldOf h
  let code := f 8 4 / 12
  f 0 4 != 0x37424D4B || f 4 2 != 1 || decide (16 ≤ f 6 2) || f 8 4 == 0 || f 8 4 % 12 != 0 || !winOk (f 12 1) ||
    f 13 1 == 0 || decide (4 < f 13 1) || decide (8 < f 14 1) || decide (32 < f 15 1) || f 16 4 % 4 != 0 ||
    decide (64 < f 20 2) || decide (1024 < f 22 2) || decide (67108864 < f 24 4) || f 28 4 % 16 != 0 ||
    f 32 2 == 0 || decide (255 < f 32 2) || decide (2 ≤ f 44 1) || decide (3 < f 45 1) || anyByte h 46 18 ||
    (f 36 4 != 0xFFFFFFFF && decide (code ≤ f 36 4)) || roles.any (roleBad code) ||
    decide (32 < roles.foldl (fun a r => a + fieldOf r 1 1) 0) || decide (1024 < (f 24 4 + 65535) / 65536 + f 22 2)

/-- A VA at a signed offset from the header (R320). -/
def hdrVa (khdr off : Nat) : Nat := (((khdr : Int) + num off 32 true) % 2 ^ 64).toNat

/-- Split a table of 16-byte records. -/
def chunks16 : Nat → List Byte → List (List Byte)
  | 0, _ => []
  | n + 1, bs => bs.take 16 :: chunks16 n (bs.drop 16)

namespace State

/-! ### Placement (R332 to R336) -/

/-- Teams resident on a stack. -/
def residents (s : State) (u : Nat) : List (Nat × Team) := s.teams.filter (fun e => e.2.v && e.1 / 256 == u)

/-- Packages of the domain, ascending. -/
def domain (s : State) : List Nat := (List.range 64).filter (fun k => s.mg.pkgs.contains k)

/-- Stacks of a partition in ascending (PKG, HOME) order (R337). -/
def partStacks (s : State) (prt : Nat) : List Nat :=
  s.domain.flatMap (fun k => (lanes16.filter (fun h => (Store.get 0 (s.partition prt).homes k).getLsbD h)).map
    (fun h => k * 32 + h))

def freeMacros (s : State) (u : Nat) : Nat := 1024 - (s.residents u).foldl (fun a t => a + t.2.mcount) 0

/-- Macros that no resident team holds. -/
def unusedMacros (s : State) (u : Nat) : List Nat :=
  let used := (s.residents u).flatMap (fun t => (List.range t.2.mcount).map (fun i => s.macroEntry u (t.2.mbase + i)))
  (List.range 1024).filter (fun m => !used.contains m)

/-- A free span of `n` map entries (R335): the lowest that starts at 0 or after a span. -/
def freeSpan (s : State) (u n : Nat) : Option Nat :=
  let ts := (s.residents u).map (fun t => (t.2.mbase, t.2.mcount))
  let free := fun (b : Nat) => decide (b + n ≤ 1024) && ts.all (fun t => decide (b + n ≤ t.1) || decide (t.1 + t.2 ≤ b))
  ((0 :: ts.map (fun t => t.1 + t.2)).filter free).foldl (fun (a : Option Nat) b =>
    match a with | none => some b | some c => some (min b c)) none

def freeTiles (s : State) (u : Nat) : List Nat :=
  let used := (s.residents u).flatMap (fun t => (List.range t.2.acct).map (fun n => t.2.tilemap.toNat / 2 ^ (5 * n) % 32))
  (List.range 32).filter (fun n => !used.contains n)

def freeEntry (s : State) (u : Nat) : Option Nat :=
  (List.range 256).find? (fun t => !(s.team (u * 256 + t)).v)

/-- Indices of the entries of a page table that anything has written. -/
def tableIx (s : State) (tbl : Nat) : List Nat :=
  ((s.mem.filterMap (fun e => if tbl ≤ e.1 ∧ e.1 < tbl + 0x8000 then some ((e.1 - tbl) / 8) else none)) ++
    (s.memKey.flatMap (fun e => if tbl ≤ e.1 * 64 ∧ e.1 * 64 < tbl + 0x8000 then
      (List.range 8).map (fun i => (e.1 * 64 - tbl) / 8 + i) else []))).eraseDups

/-- The 64 KiB frames, by first frame and number, that the table at `tbl` of level `lvl` and those below it use or map
(R33, R34). -/
def tableFrames (s : State) (prt : Nat) : Nat → Nat → Nat → List (Nat × Nat)
  | 0, _, _ => []
  | n + 1, lvl, tbl => (tbl / 65536, 1) :: (s.tableIx tbl).flatMap (fun i =>
      let e := s.pteAt prt (tbl + 8 * i)
      if !e.getLsbD 0 then []
      else if lvl = 4 || e.getLsbD 11 then [(bitsOf e.toNat 55 16, 2 ^ pageBits lvl / 65536)]
      else s.tableFrames prt n (lvl + 1) (bitsOf e.toNat 55 16 * 2 ^ 16 + (if e.getLsbD 15 then 2 ^ 15 else 0)))

/-- Frames of a partition's page tables, as unit `u` holds their root, and those they map. -/
def mappedFrames (s : State) (u prt : Nat) : List (Nat × Nat) :=
  let r := s.ptroot u prt
  if !r.getLsbD 0 then [] else s.tableFrames prt 4 1 (bitsOf r.toNat 55 15 * 2 ^ 15)

/-- Frames of replay storage at the bottom of a stack: those of a partition with a replay mode and no granules, at its first stack
(R412, log 36). -/
def replayFrames (s : State) (u prt : Nat) : List (Nat × Nat) :=
  let p := s.partition prt
  if p.replay == 0 || p.homes.any (fun h => h.2.toNat / 65536 != 0) || (s.partStacks prt).head? != some u then []
  else [(0, Config.replayPages)]

/-- A free run of `n` 64 KiB frames for spill areas (R24): its SPA[55:16].  The pool is the lane-mappable DRAM without the runs
of resident teams, replay storage and the frames of the partition's page tables; the run is taken from the top (log 17). -/
def freeRun (s : State) (u prt n : Nat) : Option Nat :=
  let ts := s.replayFrames u prt ++ (s.residents u).map (fun t => (t.2.spillbase % 2 ^ 29, t.2.spillu * t.2.sqn)) ++
    (s.mappedFrames u prt).filterMap (fun x => if x.1 / 2 ^ 29 = u then some (x.1 % 2 ^ 29, x.2) else none)
  let free := fun (e : Nat) => decide (n ≤ e) && ts.all (fun t => decide (e ≤ t.1) || decide (t.1 + t.2 + n ≤ e))
  (((0xFC000 :: ts.map Prod.fst).filter (fun e => decide (e ≤ 0xFC000) && free e)).foldl (fun (a : Option Nat) b =>
    match a with | none => some b | some c => some (max b c)) none).map (fun e => u * 2 ^ 29 + e - n)

/-- A stack has all that a team of the launch needs (R332). -/
def stackFits (s : State) (l : Launch) (u : Nat) : Bool :=
  decide (l.need ≤ s.freeMacros u) && (s.freeSpan u l.need).isSome && decide (l.hd 15 1 ≤ (s.freeTiles u).length) &&
    (s.freeEntry u).isSome && (s.freeRun u l.prt (l.squads * l.hd 32 2)).isSome

/-- The stack a team goes to: the most free macros, ties to the lowest virtual number (R332). -/
def bestStack (s : State) (l : Launch) : Option Nat :=
  ((s.partStacks l.prt).filter (s.stackFits l)).foldl (fun (a : Option Nat) u =>
    match a with
    | none => some u
    | some b => if s.freeMacros b < s.freeMacros u ||
        (s.freeMacros b == s.freeMacros u && decide (s.stackId u l.prt < s.stackId b l.prt)) then some u else some b) none

/-- The bind records of a team, one for each role (R334): START, then ENTRY, TSLOT, SQFIRST, SQN. -/
def bindWords (start e : Nat) : List Role → Nat → Nat → List (DWord × DWord)
  | [], _, _ => []
  | r :: rs, i, sq =>
    (BitVec.ofNat 64 start, BitVec.ofNat 64 (r.entry.toNat + 2 ^ 32 * (e + 256 * i) + 2 ^ 48 * sq +
      2 ^ 56 * (r.squads + 64 * (r.win / 8 - 1)))) :: bindWords start e rs (i + 1) (sq + r.squads)

/-- Give a new team its span, tiles, spill run and team-table entry on a stack (R20 to R24, R89, R334, R335). -/
def bindTeam (s : State) (l : Launch) (k u : Nat) : State × Nat :=
  let nx := l.pk 8 2
  let ny := l.pk 10 2
  let e := (s.freeEntry u).getD 0
  let base := (s.freeSpan u l.need).getD 0
  let macs := (s.unusedMacros u).take l.need
  let tiles := (s.freeTiles u).take (l.hd 15 1)
  let run := (s.freeRun u l.prt (l.squads * l.hd 32 2)).getD 0
  let t : Team := { Team.absent with
    v := true
    launch := l.id
    tx := BitVec.ofNat 16 (k % nx)
    ty := BitVec.ofNat 16 (k / nx % ny)
    tz := BitVec.ofNat 16 (k / (nx * ny))
    sqn := l.squads
    restartable := (l.hd 6 2).testBit 0
    mbase := base
    mcount := l.need
    acct := l.hd 15 1
    rings := l.hd 14 1
    spillu := l.hd 32 2
    spillbase := run
    bindtick := s.tick
    tilemap := BitVec.ofNat 160 ((tiles.zipIdx).foldl (fun a x => a + x.1 * 2 ^ (5 * x.2)) 0)
    prt := l.prt
    dmac := (l.hd 24 4 + 65535) / 65536 }
  let s1 := (macs.zipIdx).foldl (fun (s : State) m => s.setMacroEntry u (base + m.2) m.1) s
  let s2 := tiles.foldl (fun (s : State) n => s.zeroBytes (tileSpa u n) 0x20000) s1
  (s2.setTeam (u * 256 + e) t, u * 256 + e)

/-- Queue the bind records of a team with a start tick. -/
def queueBinds (s : State) (l : Launch) (tk start : Nat) : State :=
  let ws := (bindWords start (tk % 256) l.roles 0 0).map (fun w => (tk / 256, w.1, w.2))
  { s with mg := { s.mg with
    recs := s.mg.recs ++ ws
    starts := Store.set 0 s.mg.starts (tk / 256) (BitVec.ofNat 64 start) } }

/-- Place the teams of a TIMED launch (R333): every team, or none; returns the teams with their starts. -/
def placeTimed (s : State) (l : Launch) (k : Nat) (cnt : List (Nat × Nat)) : Nat → Option (State × List (Nat × Nat))
  | 0 => some (s, [])
  | n + 1 =>
    match s.bestStack l with
    | none => none
    | some u =>
      let c := ((cnt.find? (fun x => x.1 == u)).map Prod.snd).getD 0
      let r := s.bindTeam l k u
      (r.1.placeTimed l (k + 1) ((u, c + 1) :: cnt.filter (fun x => x.1 != u)) n).map (fun x =>
        (x.1, (r.2, l.pk 24 8 + c * l.hd 34 2) :: x.2))

/-- Teams a partition's stacks can hold when they are empty (R328, TIMED). -/
def capacity (s : State) (l : Launch) : Nat :=
  let per := min (if l.need = 0 then 256 else 1024 / l.need) (min (if l.hd 15 1 = 0 then 256 else 32 / l.hd 15 1)
    (min 256 (0xFC000 / (max 1 (l.squads * l.hd 32 2)))))
  per * (s.partStacks l.prt).length

/-! ### Taking, checking and completing (R323, R327 to R331) -/

def queueOf (s : State) (prt q : Nat) : List (Nat × Launch) :=
  s.mg.launches.filter (fun e => e.2.ex && e.2.prt == prt && e.2.q == q)

/-- The oldest launch of a queue not yet admitted (R326). -/
def queueHead (s : State) (prt q : Nat) : Option Nat :=
  (((s.queueOf prt q).filter (fun e => e.2.st == .queued)).foldl (fun (a : Option (Nat × Launch)) e =>
    match a with
    | none => some e
    | some b => if e.2.seq < b.2.seq then some e else a) none).map Prod.fst

/-- The launch before another in its queue, when it has not completed (R326, SERIAL). -/
def prevOpen (s : State) (l : Launch) : Bool :=
  (s.queueOf l.prt l.q).any (fun e => e.2.pos == (l.pos + 2 ^ 32 - 1) % 2 ^ 32 && decide (e.2.seq < l.seq))

/-- The next launch id of a partition: never 0 and never one in use (R331). -/
def nextLaunchId (s : State) (prt : Nat) : Word :=
  let n := (s.partition prt).nextId.toNat
  BitVec.ofNat 32 ((((List.range (s.mg.launches.length + 2)).map (fun i => (n + i) % 2 ^ 32)).find? (fun i =>
    i != 0 && !(s.launch (prt * 2 ^ 32 + i)).ex)).getD 1)

/-- Take a packet into the launch table (R323, R331, R417). -/
def takePacket (s : State) (prt q : Nat) (bs : List Byte) : State :=
  let id := s.nextLaunchId prt
  let l : Launch := { Launch.absent with
    ex := true
    prt := prt
    q := q
    id := id
    packet := bs
    seq := s.ids
    pos := (s.ureg 16 (lqOff prt q + 0x18)).toNat % 2 ^ 32 }
  let p := s.partition prt
  let s1 := (s.setLaunch (lkey prt id) l).setPartition prt { p with nextId := id + 1 }
  ({ s1 with ids := s.ids + 1 } : State).capture prt (.packet q s.tick bs)

/-- Take the entries of a queue up to TAIL (R323). -/
def takeEntries (s : State) (prt q : Nat) : Nat → State
  | 0 => s
  | n + 1 =>
    let o := lqOff prt q
    let head := (s.ureg 16 (o + 0x18)).toNat % 2 ^ 32
    let cfg := s.ureg 16 (o + 8)
    if head = (s.ureg 16 (o + 0x10)).toNat % 2 ^ 32 then s
    else
      match s.mgmtRead prt ((s.ureg 16 o).toNat + 128 * (head % 2 ^ lqLog cfg)) 0 128 with
      | none => s.setUreg 16 (o + 8) (cfg ||| 64)
      | some bs =>
        ((s.takePacket prt q bs).setUreg 16 (o + 0x18) (BitVec.ofNat 64 ((head + 1) % 2 ^ 32))).takeEntries prt q n

/-- Evaluate the wait events of a launch (R327); none when a counter cannot be read. -/
def evalEvents (s : State) (l : Launch) : Option Launch :=
  (List.range 4).foldl (fun (a : Option Launch) i =>
    match a with
    | none => none
    | some l =>
      let va := l.pk (32 + 16 * i) 8
      if va = 0 ∨ l.met.getD i false then some { l with met := l.met.set i true }
      else (s.mgmtRead l.prt va 0 8).map (fun bs => { l with met := l.met.set i (decide (l.pk (40 + 16 * i) 8 ≤ leNat bs)) }))
    (some l)

/-- The first reason to refuse a launch, with its header and roles (R328). -/
def checkLaunch (s : State) (l : Launch) : Nat × Launch :=
  let k := l.pk 0 8
  if packetBad l.packet then (1, l)
  else
    match s.mgmtRead l.prt k 2 64 with
    | none => (2, l)
    | some h =>
      let rc := if 1 ≤ fieldOf h 13 1 ∧ fieldOf h 13 1 ≤ 4 then fieldOf h 13 1 else 0
      match s.mgmtRead l.prt (hdrVa k (fieldOf h 28 4)) 2 (16 * rc),
          s.mgmtRead l.prt (hdrVa k (fieldOf h 16 4)) 2 (4 * min 64 (fieldOf h 20 2)) with
      | some rb, some _ =>
        let rs := chunks16 rc rb
        let l1 := { l with
          header := h
          roles := rs.map (fun r => ⟨fieldOf r 0 1, fieldOf r 1 1, fieldOf r 2 1, BitVec.ofNat 32 (fieldOf r 4 4)⟩)
          checked := true }
        if headerBad h rs then (3, l1)
        else if (fieldOf h 6 2).testBit 3 && !(s.partition l.prt).secure then (4, l1)
        else if (s.partStacks l.prt).isEmpty then (5, l1)
        else if l1.timed && (l1.pk 24 8 == 0 || decide (s.capacity l1 < l1.teams)) then (6, l1)
        else (0, l1)
      | _, _ => (2, l)

/-- Launches of a partition that run. -/
def running (s : State) (prt : Nat) : Nat :=
  (s.mg.launches.filter (fun e => e.2.ex && e.2.prt == prt && e.2.st == .admitted)).length

/-- A launch of the partition taken before this one has not completed. -/
def earlierOpen (s : State) (l : Launch) : Bool :=
  s.mg.launches.any (fun e => e.2.ex && e.2.prt == l.prt && decide (e.2.seq < l.seq))

/-- The partition may take in a launch: it is not being torn down (R384), and in CAPTURE mode a capture has begun, no launch
runs (R417); in a re-run every entry of the log before the launch's end has been applied (R419). -/
def mayAdmit (s : State) (l : Launch) : Bool :=
  let p := s.partition l.prt
  let x := Store.get Replay.none s.dbg.replay l.prt
  p.closing.isNone && (p.replayNext != 2 || (x.capturing && s.running l.prt == 0 && (x.rerun == 0 ||
    match x.clog[x.rerun - 1]? with
    | some (.checksum _ _ _) => true
    | some (.reply _ _) => true
    | _ => false)))

/-- A launch is the head of its queue (R326); in CAPTURE mode a partition's queues are one (R417). -/
def atHead (s : State) (lk : Nat) (l : Launch) : Bool :=
  s.queueHead l.prt l.q == some lk && ((s.partition l.prt).replayNext != 2 || !s.earlierOpen l)

/-- The replay mode set takes effect (R412): a mode other than the one in effect begins with an empty record. -/
def setReplay (s : State) (prt : Nat) : State :=
  let p := s.partition prt
  let s1 := s.setPartition prt { p with
    replay := p.replayNext
    replayT := p.replayTNext }
  if p.replay = p.replayNext ∨ p.replayNext = 2 then s1
  else { s1 with dbg := { s1.dbg with
    replay := Store.set Replay.none s1.dbg.replay prt Replay.none
    olog := s1.dbg.olog.filter (fun e => e.1 % 8 != prt) } }

/-- A launch is admitted (R326). -/
def admitLaunch (s : State) (lk : Nat) (l : Launch) : State :=
  (s.setReplay l.prt).setLaunch lk { l with st := .admitted }

/-- Refuse a launch: one error record, and it completes (R328). -/
def refuse (s : State) (lk : Nat) (l : Launch) (reason : Nat) : State :=
  (s.setLaunch lk { l with st := .refused }).errorRecord lk Team.absent 0xFF 1 reason 0 0

/-- A TIMED launch has not been placed before START (R328, R333). -/
def late (s : State) (l : Launch) : Bool := l.timed && decide (l.pk 24 8 ≤ s.tick.toNat)

/-- Evaluate the wait events of the queue heads of a partition (R327). -/
def pollEvents (s : State) (prt : Nat) : State :=
  (List.range 16).foldl (fun (s : State) q =>
    match s.queueHead prt q with
    | none => s
    | some lk =>
      let l := s.launch lk
      if !l.checked then s
      else if s.late l then s.refuse lk l 7
      else
        match s.evalEvents l with
        | none => s.refuse lk l 8
        | some l1 => s.setLaunch lk l1) s

/-- Ring a doorbell (R323): nothing until the boot has ended (R420); the write of TAIL is ignored with ERR, or entries are taken. -/
def ring (s : State) (prt q : Nat) (tail : Word) (host : Bool) : State :=
  let o := lqOff prt q
  let cfg := s.ureg 16 (o + 8)
  let n := (tail.toNat + 2 ^ 32 - (s.ureg 16 (o + 0x18)).toNat % 2 ^ 32) % 2 ^ 32
  if s.mg.boot ≠ 9 then s
  else if 2 ^ lqLog cfg < n || !cfg.getLsbD 4 || (host && q == 15) then s.setUreg 16 (o + 8) (cfg ||| 32)
  else (s.setUreg 16 (o + 0x10) (tail.setWidth 64)).takeEntries prt q 4096

end State

/-- DOORBELL (R322, R323): one of the host to a function that does not exist is an Unsupported Request (R363). -/
def execDoorbell (part q : Nat) (tail : Word) (host : Bool) (s : State) : Out :=
  .next (if host && !(s.partition (part % 8)).ex then s else s.ring (part % 8) (q % 16) tail host)

/-- WAIT_EVENT_POLL (R327). -/
def execWaitEventPoll (part : Nat) (s : State) : Out := .next (s.pollEvents (part % 8))

/-- A launch comes before another when both have teams to place (R332): those of one queue as they were taken, others by class,
priority and queue. -/
def launchBefore (a b : Launch) : Bool :=
  let ca := State.launchClass a
  let cb := State.launchClass b
  if a.q == b.q then decide (a.seq < b.seq)
  else if ca.1 != cb.1 then ca.1
  else if ca.2 != cb.2 then decide (cb.2 < ca.2)
  else decide (a.q < b.q)

namespace State

/-- A team of a launch, or with TIMED all its teams, can be placed now (R332, R333). -/
def placeable (s : State) (l : Launch) : Bool :=
  if l.timed then (s.placeTimed l 0 [] l.teams).isSome else (s.bestStack l).isSome

/-- The conditions of admission other than placement (R326, R384, R417). -/
def admitReady (s : State) (l : Launch) : Bool :=
  l.met.all id && !(l.pk 120 1 % 2 == 1 && s.prevOpen l) && decide (s.running l.prt < 256) && s.mayAdmit l

/-- A launch that has a team that can be placed now, with its header and roles: one admitted, or a queue head that could be admitted at
once (R326, R332). -/
def offered (s : State) (lk : Nat) (l0 : Launch) : Option Launch :=
  if l0.ex && l0.st == .admitted then
    (if decide (l0.next < l0.teams) && (s.bestStack l0).isSome then some l0 else none)
  else if l0.ex && l0.st == .queued && s.atHead lk l0 then
    let c := if l0.checked then (0, l0) else s.checkLaunch l0
    if c.1 != 0 || s.late c.2 then none
    else (s.evalEvents c.2).filter (fun l => s.admitReady l && s.placeable l)
  else none

/-- The launches of a partition other than `lk` that have a team to place. -/
def rivals (s : State) (lk prt : Nat) : List Launch :=
  s.mg.launches.filterMap (fun e => if e.2.prt == prt && e.1 != lk then s.offered e.1 e.2 else none)

/-- A launch that ranks higher has a team that can be placed: an earlier one of the same queue, or the first such of another queue
(R332). -/
def outranked (s : State) (lk : Nat) (l : Launch) : Bool :=
  let rs := s.rivals lk l.prt
  rs.any (fun r => launchBefore r l && (r.q == l.q || !rs.any (fun x => x.q == r.q && decide (x.seq < r.seq))))

/-- A launch whose other conditions hold is admitted when it can be placed: a TIMED one with all its teams (R326, R332,
R333). -/
def admitNow (s : State) (lk : Nat) (l : Launch) : State :=
  if !l.timed then (if s.placeable l then s.admitLaunch lk l else s)
  else if s.outranked lk l then s
  else
    match s.placeTimed l 0 [] l.teams with
    | none => s
    | some (s2, ts) =>
      let s3 := ts.foldl (fun (s : State) t => s.queueBinds l t.1 t.2) s2
      (s3.admitLaunch lk { l with next := l.teams }).postRecs s3.mg.recs

end State

/-- LAUNCH_ADMIT (R326 to R328, R331 to R333): the head of a queue is checked once, refused with the first reason that
applies, or admitted. -/
def execLaunchAdmit (lk : Nat) (s : State) : Out :=
  let l0 := s.launch lk
  if !l0.ex || l0.st != .queued || !s.atHead lk l0 then .next s
  else
    let c := if l0.checked then (0, l0) else s.checkLaunch l0
    if c.1 ≠ 0 then .next (s.refuse lk c.2 c.1)
    else if s.late c.2 then .next (s.refuse lk c.2 7)
    else
      match s.evalEvents c.2 with
      | none => .next (s.refuse lk c.2 8)
      | some l =>
        let s1 := s.setLaunch lk l
        .next (if s1.admitReady l then s1.admitNow lk l else s1)

/-- TEAM_PLACE (R332, R333): the next team of an admitted launch goes to the stack the rule gives, unless a launch that
ranks higher has a team that fits. -/
def execTeamPlace (lk k u : Nat) (s : State) : Out :=
  let l := s.launch lk
  if l.ex && l.st == .admitted && (s.partition l.prt).closing.isNone && l.next == k && decide (k < l.teams) &&
      s.bestStack l == some u && !s.outranked lk l then
    let prev := (Store.get 0 s.mg.starts u).toNat
    let start := max (max (l.pk 24 8) s.tick.toNat) (if prev = 0 then 0 else prev + l.hd 34 2)
    let r := s.bindTeam l k u
    let s1 := (r.1.queueBinds l r.2 start).setLaunch lk { l with next := k + 1 }
    .next (s1.postRecs s1.mg.recs)
  else .next s

namespace State

/-- Add CINC at CDONE (R329); `none` when the addition faults. -/
def addDone (s : State) (l : Launch) : Option State :=
  let va := l.pk 96 8
  if va = 0 then some s
  else
    match s.mgmtRead l.prt va 0 8 with
    | some bs =>
      if s.mgmtCanWrite l.prt va 8 then some (s.mgmtWrite l.prt va (leBytes 8 (leNat bs + l.pk 104 8))) else none
    | none => none

end State

end Sys2Proof.Machine
end

