-- ==== Sys2Proof/Machine/Engine.lean ====
section
/-! DEFINITION. Queues of the engines (R275 to R277, R294), tensor records (R278 to R280), the walk-ahead translator
(R41, R42), issue of commands, joins and completions. -/

namespace Sys2Proof.Machine

/-! ### Tensor records (R278, R279, R447) -/

/-- The fields of a tensor record. -/
structure TRec where
  base : Nat
  fmt : Nat
  space : Bool
  conv : Bool
  ndim : Nat
  sparse : Bool
  ext : List Nat
  bs : List Int
  tile0 : Nat
  tile1 : Nat
  aux : Nat
  deriving DecidableEq, Repr

/-- Extent of dimension `d`: 1 at or above NDIM (R279). -/
def TRec.e (r : TRec) (d : Nat) : Nat := if d < r.ndim then r.ext.getD d 1 else 1
def TRec.stride (r : TRec) (d : Nat) : Int := if d = 0 ∨ r.ndim ≤ d then 0 else r.bs.getD (d - 1) 0
def TRec.mx (r : TRec) : Bool := decide (7 ≤ r.fmt) && decide (r.fmt ≤ 11)

/-- The floating-point format of FMT 4 to 11. -/
def TRec.fp (r : TRec) : Option Fmt := if r.fmt < 4 then none else fmts[r.fmt - 4]?

/-- Elements in a packing group, and its bytes: 6-bit elements go four to three bytes, E2M1 two to a byte (R84, R278). -/
def grpOf : Nat → Nat × Nat
  | 0 => (1, 1) | 1 => (1, 2) | 2 => (1, 4) | 3 => (1, 8) | 4 => (1, 4) | 5 => (1, 2) | 6 => (1, 2)
  | 9 => (4, 3) | 10 => (4, 3) | 11 => (2, 1) | _ => (1, 1)
def TRec.grp (r : TRec) : Nat × Nat := grpOf r.fmt

/-- Bits of an element in memory. -/
def TRec.ebits (r : TRec) : Nat := r.grp.2 * 8 / r.grp.1

/-- Bytes of one packed row of dimension 0. -/
def TRec.rowBytes (r : TRec) : Nat := (r.e 0 * r.ebits + 7) / 8

/-- Rows of dimensions 1 to 3. -/
def TRec.nrows (r : TRec) : Nat := r.e 1 * r.e 2 * r.e 3

/-- Stream bytes of a copy (R279). -/
def TRec.streamBytes (r : TRec) : Nat := r.nrows * (r.e 0 * r.ebits / 8)

/-- Scale blocks of a row. -/
def TRec.rowBlocks (r : TRec) : Nat := (r.e 0 + 31) / 32

/-- Byte address of byte `j` of group `g` of dimension 0 in row (i1, i2, i3). -/
def TRec.addr (r : TRec) (g j i1 i2 i3 : Nat) : Int :=
  (r.base : Int) + g * r.grp.2 + j + i1 * r.stride 1 + i2 * r.stride 2 + i3 * r.stride 3

/-- Group and row coordinates of the `n`-th group of the stream (R279), in tile order. -/
def TRec.place (r : TRec) (n : Nat) : Nat × Nat × Nat × Nat :=
  let gs := r.grp.1
  let e0 := r.e 0 / gs
  let e1 := r.e 1
  let t0 := if r.tile0 = 0 then e0 else r.tile0 / gs
  let t1 := if r.tile1 = 0 then e1 else r.tile1
  let plane := e0 * e1
  let q := n / plane
  let m := n % plane
  let band := m / (t1 * e0)
  let h := min t1 (e1 - band * t1)
  let m1 := m % (t1 * e0)
  let col := m1 / (t0 * h)
  let w := min t0 (e0 - col * t0)
  let m2 := m1 - col * (t0 * h)
  (col * t0 + m2 % w, band * t1 + m2 / w, q % r.e 2, q / r.e 2)

/-- Address of stream byte `k`: a VA modulo 2⁶⁴, or a scratchpad offset. -/
def TRec.streamAddr (r : TRec) (k : Nat) : Nat :=
  let p := r.place (k / r.grp.2)
  ((r.addr p.1 (k % r.grp.2) p.2.1 p.2.2.1 p.2.2.2) % 2 ^ 64).toNat

/-- Position in the stream of element (i0, i1) of a 2-D record. -/
def TRec.streamIndex (r : TRec) (i0 i1 : Nat) : Nat :=
  let t0 := if r.tile0 = 0 then r.e 0 else r.tile0
  let t1 := if r.tile1 = 0 then r.e 1 else r.tile1
  let band := i1 / t1
  let h := min t1 (r.e 1 - band * t1)
  let col := i0 / t0
  let w := min t0 (r.e 0 - col * t0)
  band * t1 * r.e 0 + col * t0 * h + (i1 - band * t1) * w + (i0 - col * t0)

/-- Read the fields of 64 bytes. -/
def parseRec (bs : List Byte) : TRec :=
  let f := fieldOf bs
  { base := f 0 8
    fmt := f 8 1
    space := (f 9 1).testBit 0
    conv := (f 9 1).testBit 1
    ndim := f 9 1 / 4 % 4 + 1
    sparse := (f 9 1).testBit 4
    ext := [f 12 4, f 16 4, f 20 4, f 24 4]
    bs := [num (f 28 6) 48 true, num (f 34 6) 48 true, num (f 40 6) 48 true]
    tile0 := f 46 2
    tile1 := f 48 2
    aux := f 50 8 }

/-- KSZ, STRIDE, PAD and DIL of spatial dimension `d` (1 to 3); a dimension that is absent counts one tap (R278). -/
def convOf (bs : List Byte) (ndim d : Nat) : Nat × Nat × Nat × Nat :=
  if ndim ≤ d then (1, 1, 0, 1)
  else
    let a := fieldOf bs (56 + 2 * d) 1
    let b := fieldOf bs (57 + 2 * d) 1
    (a % 16, a / 16, b % 16, b / 16 + 1)

/-- Output extent of a spatial dimension (R280). -/
def convOut (bs : List Byte) (r : TRec) (d : Nat) : Int :=
  let c := convOf bs r.ndim d
  ((r.e d : Int) + 2 * c.2.2.1 - c.2.2.2 * ((c.1 : Int) - 1) - 1) / (c.2.1 : Int) + 1

/-- Reserved fields (R278, R447). -/
def recReserved (bs : List Byte) (r : TRec) : Bool :=
  let f := fieldOf bs
  decide (32 ≤ f 9 1) || f 11 1 != 0 || decide (12 ≤ r.fmt) ||
    (r.space && (f 4 4 != 0 || f 54 4 != 0)) || (!r.mx && !r.sparse && r.aux != 0) ||
    [1, 2, 3].any (fun d => decide (r.ndim ≤ d) && (f (12 + 4 * d) 4 != 0 || f (22 + 6 * d) 6 != 0)) ||
    (r.ndim == 1 && r.tile1 != 0) ||
    (if r.conv then [1, 2, 3].any (fun d => decide (r.ndim ≤ d) && f (56 + 2 * d) 2 != 0) else anyByte bs 58 6)

/-- Lowest and one past the highest byte that a record, its scales and its positions can name (R280 RANGE). -/
def recSpan (r : TRec) : List (Int × Int) :=
  let d := fun (k : Nat) => ((r.e k : Int) - 1) * r.stride k
  let lo := (r.base : Int) + min 0 (d 1) + min 0 (d 2) + min 0 (d 3)
  let hi := (r.base : Int) + max 0 (d 1) + max 0 (d 2) + max 0 (d 3) + r.rowBytes
  let sc := if r.mx then r.nrows * r.rowBlocks else 0
  let pos := if r.sparse then r.nrows * ((r.e 0 + 3) / 4) else 0
  if sc + pos = 0 then [(lo, hi)] else [(lo, hi), ((r.aux : Int), (r.aux : Int) + sc + pos)]

/-- Pattern factor g (R79). -/
def patG : Pat → Nat | .dense => 1 | .s24 => 2 | .s14 => 4

/-- The record checks of R280: the first that fails.  `g` is the pattern factor of a fill; `trec`, which has no pattern,
gives 2 for a sparse record, the smaller of the two (log 18). -/
def recCheck (alloc : Nat) (bs : List Byte) (use : Use) (g : Nat) : Nat :=
  let r := parseRec bs
  let row := use == .row
  let conv := use == .conv
  let six := r.fmt == 9 || r.fmt == 10
  let q := if six then 4 else if r.fmt == 11 then 2 else 1
  let dims := (List.range 4).filter (fun d => decide (d < r.ndim))
  let sp := [1, 2, 3].filter (fun d => decide (d < r.ndim))
  if fieldOf bs 10 1 ≠ 0x5A then 1
  else if recReserved bs r then 2
  else if r.space != (row || conv) then 3
  else if ((use == .fill || row) && decide (r.fmt ≤ 3)) || (conv && !(4 ≤ r.fmt && r.fmt ≤ 6)) ||
      (r.sparse && use != .fill) then 4
  else if dims.any (fun d => r.e d == 0) || ((use == .cpg || use == .fill || row) && r.ndim != 2) ||
      (conv && r.ndim == 1) || r.e 0 % q != 0 || r.tile0 % q != 0 then 5
  else if r.conv != conv || (conv && sp.any (fun d =>
      let c := convOf bs r.ndim d
      c.1 == 0 || c.2.1 == 0 || decide (convOut bs r d < 1))) then 6
  else if (use == .cp && (r.streamBytes == 0 || decide (524288 < r.streamBytes))) ||
      (use == .fill && (decide (4096 < r.e 0 * g) || decide (4096 < r.e 1))) then 7
  else if r.space && (recSpan r).any (fun x => decide (x.1 < 0) || decide ((alloc : Int) < x.2)) then 8
  else 0

/-! ### Queues (R275, R277, R294, R302) -/

/-- An entry stands in queue `q`. -/
def Entry.inQ (e : Entry) (q : Nat) : Bool :=
  match e.cmd with
  | .join qs => qs.getLsbD q
  | _ => e.q == q

/-- The accumulator tile a command names (R294). -/
def Cmd.tile : Cmd → Option Nat
  | .prod _ _ _ _ _ _ t _ _ => some t
  | .zero t => some t
  | .drainN _ _ t _ => some t
  | .drainQ _ _ t _ _ => some t
  | .drainX _ t _ _ => some t
  | _ => none

/-- Size of a queue (R275). -/
def queueCap (q : Nat) : Nat := if q < 4 then 16 else if q = 4 then 64 else 32

/-- The head of a queue. -/
def Team.headOf (t : Team) (q : Nat) : Option Entry := t.ents.find? (fun e => e.inQ q)

/-- Queues with a free entry. -/
def Team.roomFor (t : Team) (e : Entry) : Bool :=
  (List.range 6).all (fun q => !e.inQ q || decide ((t.ents.filter (fun x => x.inQ q)).length < queueCap q))

/-- Replace an entry. -/
def Team.setEntry (t : Team) (e : Entry) : Team := { t with ents := t.ents.map (fun x => if x.id == e.id then e else x) }

/-- No earlier entry of the other queue names the same tile (R294). -/
def Team.tileFree (t : Team) (e : Entry) : Bool :=
  (t.ents.takeWhile (fun x => x.id != e.id)).all (fun x => x.cmd.tile == none || x.cmd.tile != e.cmd.tile || x.q == e.q)

/-- KIND of a command's fault records (R344). -/
def Entry.kindCode (e : Entry) : Nat := if e.q < 4 then 3 else if e.q = 4 then 4 else 5

namespace State

/-- A posted fault record of a command goes to the team's collector (R277, R345). -/
def cmdFault (s : State) (tk : Nat) (e : Entry) (c : Cause) (va : Nat) : State :=
  s.post (.frec tk ⟨0, 0, s.tickAt (tk / 256), BitVec.ofNat 64 va, e.pc, 0, e.squads.foldl min e.sq, causeCode c,
    e.kindCode, false⟩
    none none)

def setEntry (s : State) (tk : Nat) (e : Entry) : State := s.mapTeam tk (fun t => t.setEntry e)

/-- Refuse a command: it writes nothing and completes at once (R277). -/
def refuseCmd (s : State) (tk : Nat) (e : Entry) (c : Cause) (va : Nat) : State :=
  (s.cmdFault tk e c va).setEntry tk { e with begun := true, done := true }

/-- Mark a command as having performed all its writes. -/
def doneCmd (s : State) (tk : Nat) (e : Entry) : State := s.setEntry tk { e with begun := true, done := true }

/-- Cause of a failed record check (R277). -/
def recCause (code : Nat) : Cause := if code = 8 then .scratchBounds else .illegalEncoding

/-- The head of a queue at a base stack whose clock runs (R276, R408). -/
def headAt (s : State) (tk q : Nat) : Option Entry := if s.clocked (tk / 256) then (s.team tk).headOf q else none

/-- The head of a queue, not begun, that may begin in this cycle (R276, R294, R423). -/
def toBegin (s : State) (tk q : Nat) : Option Entry :=
  (s.headAt tk q).filter (fun e => !e.begun && !e.done && (s.team tk).tileFree e && s.unitRuns (tk / 256))

/-! ### Versions (R88) and reuse slots (R105) -/

/-- Zeroise a reuse slot (R105). -/
def zeroSlot (s : State) (u n : Nat) : State :=
  let a := slotSpa u n
  let s1 := s.zeroBytes a 0x100000
  { s1 with
    ecc := s1.ecc.filter (fun e => !(decide (a ≤ e.1 * 32) && decide (e.1 * 32 < a + 0x100000)))
    memKey := s1.memKey.filter (fun e => !(decide (a ≤ e.1 * 64) && decide (e.1 * 64 < a + 0x100000))) }

/-- Advance VSRC; on a wrap every slot of the stack becomes not valid (R88). -/
def bumpVsrc (s : State) (u : Nat) : State × Nat :=
  let v := ((s.ureg u 0x50000).toNat + 1) % 2 ^ 32
  let s1 := s.setUreg u 0x50000 (BitVec.ofNat 64 v)
  if v = 0 then
    ((List.range 256).foldl (fun (s : State) n =>
      s.setByte (slotSpa u n) (s.byte (slotSpa u n) &&& 0xFE)) s1, v)
  else (s1, v)

/-- `mfree` of a region (R82): the version advances, and a region in use or being filled is zeroed and released. -/
def freeRegion (s : State) (tk n : Nat) : State :=
  let u := tk / 256
  let r := s.bumpVsrc u
  let t := r.1.team tk
  let g := Store.get Region.unused t.regions n
  if g.used || g.filling then
    let s1 := (List.range g.count).foldl (fun (s : State) i =>
      s.zeroMacro u (s.macroEntry u (t.mbase + g.mac + i))) r.1
    s1.mapTeam tk (fun t => { t with
      regions := Store.set Region.unused t.regions n { Region.unused with version := r.2 } })
  else r.1.mapTeam tk (fun t => { t with regions := Store.set Region.unused t.regions n { g with version := r.2 } })

/-- A command ends early (R277): a fill acts as `mfree` of its region (R283). -/
def endCmd (s : State) (tk : Nat) (e : Entry) (va : Nat) : State :=
  let s1 := (s.cmdFault tk e .protection va).clearXlats (.entry tk e.id)
  let s2 := match e.cmd with
    | .fill _ _ _ n => if e.begun then s1.freeRegion tk n else s1
    | _ => s1
  s2.setEntry tk { e with begun := true, done := true, chunks := [], parked := false }

/-! ### Pages of a command (R41, R42, R279) -/

end State

/-- Addresses of the stream bytes of a chunk, in stream order: none for a byte of a zero row (R297 to R299). -/
def chunkAddrs (e : Entry) (c : Nat) : List (Option Nat) :=
  let r := parseRec e.recd
  match e.cmd with
  | .gather _ _ _ =>
    let rb := r.rowBytes
    let n := min 512 (e.rows.length * rb - 512 * c)
    (List.range n).map (fun i =>
      let k := 512 * c + i
      let row := e.rows.getD (k / rb) 0
      if row < r.e 1 then some (((r.addr 0 (k % rb) row 0 0) % 2 ^ 64).toNat) else none)
  | _ =>
    let n := min 512 (r.streamBytes - 512 * c)
    (List.range n).map (fun i => some (r.streamAddr (512 * c + i)))

/-- The 64 KiB units of `n` bytes at a VA. -/
def unitSpan (a n : Nat) : List Nat := (List.range ((a % 65536 + n + 65535) / 65536)).map (fun i => (a / 65536 + i) % 2 ^ 48)

/-- The units of a list of addresses. -/
def unitList (l : List (Option Nat)) : List Nat := (l.filterMap id).map (fun a => a / 65536)

/-- The blocks of a fill, by column and number, in the stream order of their first elements (R84, R279). -/
def fillBlocks (r : TRec) : List (Nat × Nat) :=
  let t0 := if r.tile0 = 0 then r.e 0 else r.tile0
  let t1 := if r.tile1 = 0 then r.e 1 else r.tile1
  (List.range ((r.e 1 + t1 - 1) / t1)).flatMap (fun b =>
    (List.range ((r.e 0 + t0 - 1) / t0)).flatMap (fun c =>
      (List.range (min t1 (r.e 1 - b * t1))).flatMap (fun i =>
        ((List.range r.rowBlocks).filter (fun k => decide (c * t0 ≤ 32 * k) && decide (32 * k < c * t0 + t0))).map
          (fun k => (b * t1 + i, k)))))

/-- The bytes a block of a fill reads, as spans of VAs: its elements, its scale, its positions (R84). -/
def blockSpans (r : TRec) (n b : Nat) : List (Nat × Nat) :=
  let len := min 32 (r.e 0 - 32 * b)
  let scs := if r.mx then r.nrows * r.rowBlocks else 0
  let at' := fun (a : Int) => (a % 2 ^ 64).toNat
  (at' (r.addr (32 * b / r.grp.1) 0 n 0 0), (len * r.ebits + 7) / 8) ::
    ((if r.mx then [(at' ((r.aux : Int) + n * r.rowBlocks + b), 1)] else []) ++
      (if r.sparse then [(at' ((r.aux : Int) + scs + n * ((r.e 0 + 3) / 4) + 8 * b), (len + 3) / 4)] else []))

/-- The units that a command in service has still to touch, in the order in which its engine touches them (R41). -/
def Entry.units (e : Entry) : List Nat :=
  match e.cmd with
  | .fill _ _ _ _ =>
    let r := parseRec e.recd
    ((fillBlocks r).drop e.pos).flatMap (fun x => (blockSpans r x.1 x.2).flatMap (fun y => unitSpan y.1 y.2))
  | _ =>
    match e.chunks with
    | [] => []
    | c :: cs => unitList ((chunkAddrs e c).drop e.pos) ++ cs.flatMap (fun c => unitList (chunkAddrs e c))

/-- The page that a command has translated for a unit. -/
def Entry.pageOf (e : Entry) (g : Nat) : Option Page := e.pages.find? (fun p => g * 65536 / 2 ^ p.size == p.va)
def Entry.hasPage (e : Entry) (g : Nat) : Bool := (e.pageOf g).isSome

/-- A unit's page by size and number; of a unit not translated, the unit itself. -/
def Entry.pageKey (e : Entry) (g : Nat) : Nat × Nat :=
  match e.pageOf g with
  | some p => (p.size, p.va)
  | none => (16, g)

/-- The first 65 distinct pages of a list of units: the one in use and 64 beyond it (R41). -/
def Entry.firstPages (e : Entry) : List Nat → List (Nat × Nat) → List (Nat × Nat)
  | [], seen => seen
  | g :: gs, seen =>
    if 65 ≤ seen.length then seen
    else if seen.contains (e.pageKey g) then e.firstPages gs seen
    else e.firstPages gs (seen ++ [e.pageKey g])

/-- The window of the walk-ahead translator (R41). -/
def Entry.window (e : Entry) : List (Nat × Nat) := e.firstPages e.units []

/-- The command after its engine has moved on: translations outside the window are given up (R41). -/
def Entry.slide (e : Entry) : Entry :=
  let w := e.window
  { e with pages := e.pages.filter (fun p => w.contains (p.size, p.va)) }

/-- The units the engine stands at: those of the block a fill installs next, or the one a copy touches next (R41, R84). -/
def Entry.front (e : Entry) : List Nat :=
  match e.cmd with
  | .fill _ _ _ _ =>
    let r := parseRec e.recd
    (((fillBlocks r).drop e.pos).take 1).flatMap (fun x => (blockSpans r x.1 x.2).flatMap (fun y => unitSpan y.1 y.2))
  | _ => e.units.take 1

/-- The engine has reached a unit (R41, R42). -/
def Entry.reached (e : Entry) (g : Nat) : Bool := e.front.contains g

/-- The units of the window that are not translated, in order. -/
def Entry.wants (e : Entry) : List Nat :=
  (e.window.filter (fun k => k.1 == 16 && !e.hasPage k.2)).map Prod.snd

/-- The kind of a command's global accesses (R47). -/
def Entry.kind (e : Entry) : AKind :=
  match e.cmd with
  | .fill _ _ _ _ => .fill
  | .copy true _ _ => .ewrite
  | _ => .eread

namespace State

/-- Queue a translation fault of a command, which waits (R46 to R48): `va` is the faulting page's. -/
def parkEntry (s : State) (tk : Nat) (e : Entry) (va r l : Nat) : State :=
  let t := s.team tk
  let u := tk / 256
  let q := s.xfq u
  let f : XFault :=
    { prt := t.prt, launch := t.launch, sq := e.squads.foldl min e.sq, va := va, reason := r, level := l, kind := e.kind,
      who := .entry tk e.id, lanes := 0, core := 8, tick := s.tickAt u }
  ((s.clearXlats (.entry tk e.id)).setXfq u { q with wait := q.wait ++ [f] }).setEntry tk { e with parked := true }

/-- The walk-ahead translator can act on a unit now: a result that takes effect only when the engine reaches the page waits
for that (R36, R41, R42). -/
def walkable (s : State) (tk : Nat) (e : Entry) (g : Nat) : Bool :=
  let t := s.team tk
  let va := g * 65536
  e.reached g ||
    (match tlbFind (s.wtlb (tk / 256)) t.prt (s.partition t.prt).secure va with
    | none => (s.xlatFor (.entry tk e.id) va).isNone
    | some x => (match s.checkLeaf t.prt ⟨e.kind, false⟩ x va with
      | .ok _ _ => true
      | _ => false))

/-- Take up one unit of a command: a translation already held, or a lookup; a fault, and the setting of D, once the engine
has reached it (R36, R41, R42). -/
def walkPage (s : State) (tk : Nat) (e : Entry) (g : Nat) : State :=
  let t := s.team tk
  let u := tk / 256
  let world := (s.partition t.prt).secure
  let va := g * 65536
  let who : Asker := .entry tk e.id
  let ended := fun (x : Option Xlat) (setD : Option Nat) =>
    match x with
    | none => s.askXlat u 8 t.prt world va e.kind who 0 setD
    | some x => match x.st with
      | .failed r l => s.parkEntry tk e va r l
      | .unres => s.endCmd tk e va
      | _ => s
  if !s.walkable tk e g then s
  else
    match tlbFind (s.wtlb u) t.prt world va with
    | none => ended (s.xlatFor who va) none
    | some x =>
      let page := x.va * 2 ^ x.size
      match s.checkLeaf t.prt ⟨e.kind, false⟩ x va with
      | .ok _ slot => (s.setWtlb u (tlbPut 1024 x (s.wtlb u))).setEntry tk
          { e with pages := e.pages ++ [⟨x.size, x.va, x.spa, slot, x.n⟩] }
      | .needD d => ended (s.xlatFor who va) (some d)
      | .fault r l _ => s.parkEntry tk e page r l
      | _ => s.endCmd tk e page

end State

/-- WALK_AHEAD_TRANSLATE (R41, R42): the next page in the window of a queue's head entry. -/
def execWalkAheadTranslate (tk q : Nat) (s : State) : Out :=
  match s.headAt tk q with
  | some e =>
    if !e.begun || e.done || e.parked || s.xlatWait (.entry tk e.id) then .next s
    else
      match e.wants.find? (s.walkable tk e) with
      | some g => .next (s.walkPage tk e g)
      | none => .next s
  | none => .next s

/-! ### Answers to translation faults (R48) -/

namespace State

/-- Deliver an answer; one that names no outstanding record sets ERR (R47). -/
def answer (s : State) (u park : Nat) (deny : Bool) : State :=
  match s.xfSlot u park with
  | none => s.setXfq u { s.xfq u with err := true }
  | some (i, sl) =>
    let s0 := s.xfFree u i sl
    let s1 : State := { s0 with mg := { s0.mg with
      service := s0.mg.service.filter (fun e => !(e.2.1 == u && e.2.2.1 == park)) } }
    match sl.who with
    | .part pid => ((if deny then s1.denyPart pid sl else s1).unpark u pid)
    | .entry tk id =>
      match (s1.team tk).ents.find? (fun e => e.id == id) with
      | none => s1
      | some e => if deny then s1.endCmd tk e sl.va else s1.setEntry tk { e with parked := false }

end State

/-- XFRESP_RETRY (R48). -/
def execXfrespRetry (u park : Nat) (s : State) : Out := .next (s.answer u (park % 65536) false)
/-- XFRESP_DENY (R48, R277, R283). -/
def execXfrespDeny (u park : Nat) (s : State) : Out := .next (s.answer u (park % 65536) true)

/-! ### Issue of commands (R276) -/

/-- The uniform value of an operand. -/
def Part.uval (p : Part) (o : Opnd) : Nat := p.val 0 false o 0

/-- An issue check: a trap for every lane of `act` when it fails. -/
inductive Issue where
  | ok
  | bad (c : Cause) (tva : Nat)
  deriving DecidableEq, Repr

/-- The first failed check. -/
def firstBad : List Issue → Issue
  | [] => .ok
  | .ok :: rest => firstBad rest
  | x :: _ => x

/-- Alignment and bounds of a scratchpad offset an operand gives (R276, R281). -/
def chkOff (t : Team) (off al n : Nat) : Issue :=
  if off % al ≠ 0 then .bad .misaligned off else if t.alloc < off + n then .bad .scratchBounds off else .ok

/-- The tile number of an operand, and its check (R23). -/
def tileOf : Opnd → Nat | .acc n => n.val | _ => 0
/-- The macro an offset names is stationary: a lane-path access of the base stack traps (R22, R83). -/
def chkStat (t : Team) (off : Nat) : Issue := if t.stationary (off / 65536) then .bad .stationaryAccess off else .ok
def chkTile (t : Team) (o : Opnd) : Issue := if t.acct ≤ tileOf o then .bad .scratchBounds (tileOf o) else .ok

/-- The squad with copy-issue rights (R141): the lowest of the first copy role, else 0. -/
def rightsSquad : List Role → Nat → Nat
  | [], _ => 0
  | r :: rs, n => if r.kind = 0 then n else rightsSquad rs (n + r.squads)

def State.chkRights (s : State) (p : Part) : Issue :=
  if p.sq = rightsSquad (s.launchOf p).roles 0 then .ok else .bad .copyRights 0

/-- A squad's role kind (R140). -/
def roleKind : List Role → Nat → Option Nat
  | [], _ => none
  | r :: rs, n => if n < r.squads then some r.kind else roleKind rs (n - r.squads)

/-- A new queue entry of a part. -/
def newEntry (p : Part) (q : Nat) (cmd : Cmd) (recOff : Option Nat) : Entry :=
  { id := 0, q := q, cmd := cmd, sq := p.sq, squads := [p.sq], pc := p.pc, recOff := recOff, recd := [], begun := false
    pos := 0, hurt := false, done := false, pages := [], chunks := [], rows := [], statRec := false, poisRec := []
    parked := false
    reuse := none }

/-- An entry counts as matrix-queue or drain-queue work for `mwait` (R295). -/
def Entry.isMat (e : Entry) : Bool := e.inQ 4 || e.inQ 5

namespace State

/-- Send a command to the base stack: the part has a pending result until it is appended, and while its record has not been
read it holds later instructions, as an acquire does (R126, R145, R260, R276). -/
def sendCmd (s : State) (pid : Nat) (e : Entry) : State :=
  let k := s.ids
  let e1 := { e with id := k }
  (s.post (.command pid (s.part pid).team e1)).mapPart pid (fun p => { p with
    pend := p.pend ++ [{ Pend.wait k with hold := e.recOff.isSome }]
    cmds := if e1.isMat then p.cmds ++ [k] else p.cmds })

end State

/-- A trap of an issue check: TLM = `act`, TVA the value for each lane. -/
def issueTrap (s : State) (act : Mask) (c : Cause) (v : Nat) : Eff :=
  .trap s c act (if c == .copyRights || c == .scrumMismatch then [] else
    (lanesOf act).map (fun l => (l, BitVec.ofNat 64 v)))

/-- Issue a command that is sent from the core: checks, then the message. -/
def issueCmd (h : Hdr) (srcs : List (Opnd × Bool)) (chk : State → Part → List Issue) (mk : Part → Entry) (s : State) :
    Out :=
  issueM h srcs [] false (fun _ => false)
    (fun s p act =>
      match firstBad (chk s p) with
      | .bad c v => issueTrap s act c v
      | .ok => .done (s.sendCmd s.cur (mk p))) s

namespace State

/-- The record of a command is read: one whose record lies in a stationary macro will be refused (R83, R126). -/
def withRecord (s : State) (tk : Nat) (e : Entry) : Entry :=
  match e.recOff with
  | some o => if s.padStat tk o 64 then { e with statRec := true } else { e with recd := s.padBytes tk o 64 }
  | none => e

/-- Append a command to its queues; one that could not read its record is refused (R276, R277). -/
def append (s : State) (tk k : Nat) (e : Entry) : State :=
  let s1 := (s.dropMsg k).mapTeam tk (fun t => { t with
    ents := t.ents ++ [e]
    inbox := t.inbox.filter (fun i => i != k) })
  if e.statRec then s1.refuseCmd tk e .stationaryAccess (e.recOff.getD 0) else s1

/-- A command has arrived: its record is read, which ends the hold of R260, and it takes its place in the arrival order
(R126, R276). -/
def receiveCmd (s : State) (k pid tk : Nat) (e : Entry) : State :=
  let m := Msg.command pid tk (s.withRecord tk e)
  (((s.putMsg k m (s.msgVia m)).landed k).mapTeam tk (fun t => { t with inbox := t.inbox ++ [k] })).mapPart pid (fun p =>
    { p with pend := p.pend.map (fun x => if x.id == k then { x with hold := false } else x) })

/-- Append command `k` when it is the first that waits and its queues have room (R276). -/
def appendNext (s : State) (tk k : Nat) : State :=
  match s.msg k with
  | some (.command _ _ e) =>
    if ((s.team tk).inbox.find? (fun i => (s.msg i).isSome)) == some k && (s.team tk).roomFor e then s.append tk k e else s
  | _ => s

end State

/-- COMMAND_APPEND (R126, R276, R313): a command arrives, its record is read, and it is appended in the order of arrival when
its queues have room.  One whose squad has been killed is discarded. -/
def execCommandAppend (k : Nat) (s : State) : Out :=
  match s.msg k with
  | some (.command pid tk e) =>
    let t := s.team tk
    if !s.arrives k then .next s
    else if !t.v || e.squads.all (fun q => t.ended.contains q) then .next ((s.dropMsg k).teamEnd tk)
    else .next ((if t.inbox.contains k then s else s.receiveCmd k pid tk e).appendNext tk k)
  | _ => .next s

/-- JOIN_ENTRY (R302): a join at the head of every queue it names completes. -/
def execJoinEntry (tk q : Nat) (s : State) : Out :=
  let t := s.team tk
  match s.headAt tk q with
  | some e =>
    (match e.cmd with
    | .join qs =>
      if (List.range 6).all (fun q => !qs.getLsbD q || (t.headOf q).map (fun x => x.id) == some e.id) then
        .next (((s.setTeam tk { t with ents := t.ents.filter (fun x => x.id != e.id) }).evalWaits tk).teamEnd tk)
      else .next s
    | _ => .next s)
  | none => .next s

/-- A record formed at the base stack has not yet entered the team's collector (R345, R348). -/
def State.recordDue (s : State) (tk : Nat) : Bool :=
  s.fab.msgs.any (fun e => match e.2 with
    | some (.frec q _ none _) => q == tk
    | _ => false)

/-- ENTRY_COMPLETION (R102, R128, R277): a head whose writes have all been performed leaves its queue, once the records
of its failures are in the collector (R350). -/
def execEntryCompletion (tk q : Nat) (s : State) : Out :=
  let t := s.team tk
  match s.headAt tk q with
  | some e =>
    if e.begun && e.done && !s.recordDue tk then
      let s1 := (s.clearXlats (.entry tk e.id)).setTeam tk { t with
        ents := t.ents.filter (fun x => x.id != e.id)
        mstat := match e.reuse with | some w => Store.set 0 t.mstat 0 w | none => t.mstat }
      .next ((s1.evalWaits tk).teamEnd tk)
    else .next s
  | none => .next s

end Sys2Proof.Machine
end

