-- ==== Sys2Proof/Machine/Matrix.lean ====
section
/-! DEFINITION. Classes 0x9 and 0xA at the issuing core (R276, R281 to R305), and the rendezvous latch (R160, R161). -/

namespace Sys2Proof.Machine

/-! ### `gang` and scrums (R160, R282) -/

/-- A listing GANG may hold (R160). -/
def gangOk (roles : List Role) (sq : Nat) (g : Word) : Bool :=
  let l := gangList g
  decide (2 ≤ l.length) && decide (l.length ≤ 6) && l.contains sq &&
    l.all (fun q => roleKind roles q == some 1 || roleKind roles q == some 3)

/-- `gang` (R145, R160, R282): long; until it lands a read of GANG may return the value before it (R146). -/
def execGang (h : Hdr) (a : Opnd) (c : Word) (s : State) : Out :=
  issueM h [(a, false)] [] false (fun _ => false)
    (fun s p act =>
      let g := BitVec.ofNat 32 (p.val c false a 0)
      if g = 0 || gangOk (s.launchOf p).roles p.sq g then .done { s.setPart s.cur { p with
          gang := g
          pend := p.pend ++ [⟨s.ids, [], [], 0, [], false, .gang p.gang⟩] } with ids := s.ids + 1 }
      else .trap s .scrumMismatch act []) s

/-- A scrum arrival needs every lane that has not exited (R160). -/
def chkScrum (s : State) (p : Part) : Issue :=
  if p.gang != 0 && p.amask != ~~~((s.team p.team).exitedOf p.sq) then .bad .scrumMismatch 0 else .ok

/-- The gather indices of a part's lanes: none for a lane outside `act` (R161, R286). -/
def laneIdx (p : Part) (act : Mask) (b : Opnd) : List (Option Nat) :=
  lanes16.map (fun l => if act.getLsbD l then some (p.val 0 false b l) else none)

/-- The command with its indices. -/
def Cmd.withIdx (c : Cmd) (ix : List (Option Nat)) : Cmd :=
  match c with
  | .prod k sh am n g ct t r _ => .prod k sh am n g ct t r ix
  | .drainX m t d _ => .drainX m t d ix
  | c => c

namespace State

/-- A scrum arrival: the part is LATCHED and its message reaches the latch (R161). -/
def arriveScrum (s : State) (pid : Nat) (word : Nat) (ops : List Word) (act : Mask) (idx : List (Option Nat))
    (e : Entry) : State :=
  let p := s.part pid
  let n := (Store.get 0 (s.team p.team).scrum p.sq + 1) % 256
  let s1 := s.mapTeam p.team (fun t => { t with scrum := Store.set 0 t.scrum p.sq n })
  (s1.post (.latchAt pid n word ops act idx e)).setPart pid { p with st := .latched }

end State

/-- A command that is performed where the part is: it passes to the base stack first, with UMASK = `act`, and a scrum waits
at the latch (R49, R160, R161, R276, R446). -/
def stationCmd (s : State) (p : Part) (act : Mask) (h : Hdr) (word : Nat) (ops : List Word) (idx : List (Option Nat))
    (regs : BitVec 32) (chk : List Issue) (e : Entry) : Eff :=
  match firstBad chk with
  | .bad c v => issueTrap s act c v
  | .ok =>
    if p.unit ≠ p.base then
      match s.passWait s.cur h.lsi.val with
      | some s1 => .stay s1
      | none => .stay ((s.setPart s.cur { p with umask := act }).passTo s.cur (.unit p.base) h.lsi.val regs)
    else if !p.pend.isEmpty then .stay (s.setPart s.cur { p with st := .switched })
    else if p.gang = 0 then .done (s.sendCmd s.cur { e with cmd := e.cmd.withIdx idx })
    else .stay (s.arriveScrum s.cur word ops act idx e)

/-! ### Filling, freeing, products (R283 to R288) -/

/-- `mstat` (R81, R283). -/
def execMstat (h : Hdr) (ty : Fmt) (pat : Pat) (a b : Opnd) (region : Fin 64) (s : State) : Out :=
  issueCmd h [(a, false), (b, false)] (fun s p => [chkOff (s.team p.team) (p.uval a) 64 64])
    (fun p => newEntry p 4 (.fill ty pat (p.uval b) region.val) (some (p.uval a))) s

/-- `mfree` (R82, R284). -/
def execMfree (h : Hdr) (region : Fin 64) (s : State) : Out :=
  issueCmd h [] (fun _ _ => []) (fun p => newEntry p 4 (.free region.val) none) s

/-- The common part of the products (R285 to R288). -/
def product (h : Hdr) (m : MMod) (word : Nat) (kind : Part → ProdKind) (sregs : List Nat) (d a b : Opnd) (s : State) : Out :=
  issueM h [(a, false), (b, false)] [] true (fun _ => false)
    (fun s p act =>
      let t := s.team p.team
      let ga := m.amode == .ga
      let cnt := if m.shape == .auto then some (p.readS m.creg.val).toNat else none
      let ops := [BitVec.ofNat 32 (p.uval a)] ++ (if ga then [] else [BitVec.ofNat 32 (p.uval b)]) ++
        (if m.shape == .auto then [p.readS m.creg.val] else []) ++ sregs.map p.readS
      let cmd : Cmd := .prod (kind p) m.shape m.amode cnt m.region.val m.colt.val (tileOf d) (if ga then 0 else p.uval b) []
      stationCmd s p act h word ops (if ga then laneIdx p act b else []) (opMask [(b, false)])
        [chkScrum s p, chkTile t d, chkOff t (p.uval a) 64 64] (newEntry p 4 cmd (some (p.uval a)))) s

/-- `mmx` (R287). -/
def execMmx (h : Hdr) (m : MMod) (d a b : Opnd) (s : State) : Out :=
  product h m (Instr.mmx h m d a b).raw.pack (fun _ => .dense) [] d a b s

/-- `mmxs` (R287). -/
def execMmxs (h : Hdr) (m : MMod) (s14 : Bool) (d a b : Opnd) (s : State) : Out :=
  product h m (Instr.mmxs h m s14 d a b).raw.pack (fun _ => .sparse s14) [] d a b s

/-- `mmxd` (R288). -/
def execMmxd (h : Hdr) (m : MMod) (full : Bool) (sreg : Fin 16) (d a b : Opnd) (s : State) : Out :=
  product h m (Instr.mmxd h m full sreg d a b).raw.pack
    (fun p => .delta full ((p.readS sreg.val).toNat % 256) ((p.readS sreg.val).toNat / 65536)) [sreg.val] d a b s

/-! ### Tiles, slots and drains (R289 to R293) -/

/-- `mzero` (R289). -/
def execMzero (h : Hdr) (d : Opnd) (s : State) : Out :=
  issueCmd h [] (fun s p => [chkTile (s.team p.team) d]) (fun p => newEntry p 4 (.zero (tileOf d)) none) s

/-- Bytes from the first to one past the last of a drain's rows. -/
def drainSpan (m : DMod) (row : Nat) : Nat := (m.rows.toNat - 1) * (16 * m.rstride.toNat) + row

/-- `mdrn` (R291, R292). -/
def execMdrn (h : Hdr) (bf : Bool) (m : DMod) (d a : Opnd) (s : State) : Out :=
  let w := if bf then 2 else 4
  issueCmd h [(d, false)]
    (fun s p => [chkTile (s.team p.team) a, chkOff (s.team p.team) (p.uval d) w (drainSpan m (32 * (m.cb.val + 1) * w))])
    (fun p => newEntry p 5 (.drainN bf m (tileOf a) (p.uval d)) none) s

/-- Bits of a packed element of an MX type (R84). -/
def mxBits (f : Fmt) : Nat := if f == .e2m1 then 4 else if f == .e3m2 || f == .e2m3 then 6 else 8

/-- `mdrq` (R291, R292). -/
def execMdrq (h : Hdr) (fmt : Fmt) (m : DMod) (d a b : Opnd) (s : State) : Out :=
  issueCmd h [(d, false), (b, false)]
    (fun s p => [chkTile (s.team p.team) a,
      chkOff (s.team p.team) (p.uval d) 1 (drainSpan m (4 * (m.cb.val + 1) * mxBits fmt)),
      chkOff (s.team p.team) (p.uval b) 1 (m.rows.toNat * (m.cb.val + 1))])
    (fun p => newEntry p 5 (.drainQ fmt m (tileOf a) (p.uval d) (p.uval b)) none) s

/-- `mdrx` (R291, R293): in a scrum it passes to the base stack and waits at the latch. -/
def execMdrx (h : Hdr) (m : DMod) (d a b : Opnd) (s : State) : Out :=
  issueM h [(d, false), (b, false)] [] false (fun _ => false)
    (fun s p act =>
      let t := s.team p.team
      let chk := [chkScrum s p, chkTile t a,
        chkOff t (p.uval d) 4 4]
      let e := newEntry p 5 (.drainX m (tileOf a) (p.uval d) []) none
      let idx := laneIdx p act b
      if p.gang = 0 then
        match firstBad chk with
        | .bad c v => issueTrap s act c v
        | .ok => .done (s.sendCmd s.cur { e with cmd := e.cmd.withIdx idx })
      else stationCmd s p act h (Instr.mdrx h m d a b).raw.pack [BitVec.ofNat 32 (p.uval d)] idx (opMask [(b, false)]) chk e) s

/-- `mslot.inv` (R290). -/
def execMslotInv (h : Hdr) (a : Opnd) (s : State) : Out :=
  issueCmd h [(a, false)] (fun _ _ => []) (fun p => newEntry p 4 (.slotInv (p.uval a % 256)) none) s

/-- `mslot.nint` (R290). -/
def execMslotNint (h : Hdr) (a b : Opnd) (s : State) : Out :=
  issueCmd h [(a, false), (b, false)] (fun _ _ => [])
    (fun p => newEntry p 4 (.slotNint (p.uval a % 256) (p.uval b)) none) s

/-- `mwait` (R295). -/
def execMwait (h : Hdr) (s : State) : Out :=
  issueM h [] [] true (fun _ => false) (fun s p _ => .stay (s.block s.cur (.cmds p.cmds true))) s

/-! ### Copies and waits (R297 to R303) -/

/-- Issue checks of a copy (R141, R276, R281): offsets whose length is known only at the base stack must lie in the
allocation (log 31). -/
def copyChk (d a b : Opnd) (s : State) (p : Part) : List Issue :=
  [s.chkRights p, chkOff (s.team p.team) (p.uval a) 64 64, chkOff (s.team p.team) (p.uval b) 4 4,
    chkOff (s.team p.team) (p.uval d) 1 1]

/-- `cp.g2s` (R297). -/
def execCpG2s (h : Hdr) (q : Fin 4) (d a b : Opnd) (s : State) : Out :=
  issueCmd h [(d, false), (a, false), (b, false)] (copyChk d a b)
    (fun p => newEntry p q.val (.copy false (p.uval d) (p.uval b)) (some (p.uval a))) s

/-- `cp.s2g` (R297). -/
def execCpS2g (h : Hdr) (q : Fin 4) (d a b : Opnd) (s : State) : Out :=
  issueCmd h [(d, false), (a, false), (b, false)] (copyChk d a b)
    (fun p => newEntry p q.val (.copy true (p.uval d) (p.uval b)) (some (p.uval a))) s

/-- `cpg` (R298). -/
def execCpg (h : Hdr) (q : Fin 4) (d a b cc : Opnd) (s : State) : Out :=
  issueCmd h [(d, false), (a, false), (b, false), (cc, false)]
    (fun s p => copyChk d a b s p ++ [chkOff (s.team p.team) (p.uval cc) 1 1])
    (fun p => newEntry p q.val (.gather (p.uval d) (p.uval b) (p.uval cc)) (some (p.uval a))) s

/-- The bitmap word of `cpw`: val(A) + sext(C), exact, and its checks (R281, R300). -/
def chkWord (t : Team) (off : Int) : Issue :=
  let tva := (off % 2 ^ 64).toNat
  if off % 4 ≠ 0 then .bad .misaligned tva
  else if off < 0 || decide ((t.alloc : Int) < off + 4) then .bad .scratchBounds tva else .ok

/-- `cpw` (R300). -/
def execCpw (h : Hdr) (a b : Opnd) (disp : Word) (s : State) : Out :=
  issueM h [(a, false), (b, false)] [] true (fun _ => false)
    (fun s p act =>
      let off := (p.uval a : Int) + disp.toInt
      match firstBad [chkWord (s.team p.team) off, chkStat (s.team p.team) off.toNat] with
      | .bad c v => issueTrap s act c v
      | .ok => .stay (s.block s.cur (.chunks off.toNat (BitVec.ofNat 32 (p.uval b))))) s

/-- A free slot of a base stack's `cpy` hold area, the lowest (R301, log 39). -/
def State.holdSlot (s : State) (u : Nat) : Option Nat :=
  (List.range 8192).find? (fun n => Store.get 0 s.fab.hold (u * 8192 + n) == 0)

/-- `cpy` (R301): MET, HOLD or WAIT. -/
def execCpy (h : Hdr) (a b : Opnd) (off : Word) (s : State) : Out :=
  issueM h [(a, false), (b, false)] [] true (fun _ => false)
    (fun s p act =>
      let o := p.uval a
      let m := BitVec.ofNat 32 (p.uval b)
      let cont := p.pc + off
      match firstBad [chkOff (s.team p.team) o 4 4, chkStat (s.team p.team) o] with
      | .bad c v => issueTrap s act c v
      | .ok =>
        if m = 0 ∨ BitVec.ofNat 32 (s.padPeek p.team o 4) &&& m = m then .jump s cont
        else
          match s.holdSlot p.base with
          | some n =>
            let s1 := { s with fab := { s.fab with hold := Store.set 0 s.fab.hold (p.base * 8192 + n) (s.cur + 1) } }
            .stay ((s1.depart s.cur (.hold p.base n o m cont)).mapPart s.cur (fun p => { p with
              umask := 0, mi := MemOp.idle, restrict := none, flushed := false }))
          | none => .stay (s.block s.cur (.held o m cont none))) s

/-- `qfence` (R141, R302). -/
def execQfence (h : Hdr) (qset : BitVec 6) (s : State) : Out :=
  issueCmd h [] (fun s p => if qset.toNat % 16 = 0 then [] else [s.chkRights p])
    (fun p => newEntry p 0 (.join qset) none) s

/-- `qwait` (R303). -/
def execQwait (h : Hdr) (qset : BitVec 6) (s : State) : Out :=
  issueM h [] [] true (fun _ => false)
    (fun s p _ =>
      let es := (s.team p.team).ents.filter (fun e => (List.range 6).any (fun q => qset.getLsbD q && e.inQ q))
      .stay (s.block s.cur (.cmds (es.map (fun e => e.id)) false))) s

/-! ### `trec` and `lnch` (R304, R305) -/

/-- The status word of `trec` (R304). -/
def trecStatus (alloc : Nat) (bs : List Byte) (use : Use) : Nat :=
  let r := parseRec bs
  let c := recCheck alloc bs use (if use == .fill && r.sparse then 2 else 1)
  c + (if c = 0 && use == .cp then 256 * ((r.streamBytes + 511) / 512) else 0)

/-- A long result of one value for every lane (R145): it is pending, and holds later instructions when its read is an acquire
(R126, R260). -/
def Part.runHeld (p : Part) (id : Nat) (act : Mask) (d : Opnd) (x : Nat) : Part :=
  let q := { p with pend := [] }.runLong id act d false (fun _ => (x, 0))
  { q with pend := p.pend ++ q.pend.map (fun e => { e with hold := true }) }

/-- `trec` (R126, R304): its read of the record acquires. -/
def execTrec (h : Hdr) (use : Use) (d a : Opnd) (s : State) : Out :=
  issueM h [(a, false)] [(d, false)] false (fun _ => false)
    (fun s p act =>
      let o := p.uval a
      match firstBad [chkOff (s.team p.team) o 64 64, chkStat (s.team p.team) o] with
      | .bad c v => issueTrap s act c v
      | .ok =>
        let x := trecStatus (s.team p.team).alloc (s.padBytes p.team o 64) use
        .done { s.setPart s.cur (p.runHeld s.ids act d x) with ids := s.ids + 1 }) s

/-- `lnch` (R305, R323, R354). -/
def execLnch (h : Hdr) (a : Opnd) (s : State) : Out :=
  issueM h [(a, false)] [] false (fun _ => false)
    (fun s p act =>
      let o := p.uval a
      match firstBad [chkOff (s.team p.team) o 128 128, chkStat (s.team p.team) o] with
      | .bad c v => issueTrap s act c v
      | .ok =>
        match s.releaseWait s.cur with
        | some s1 => .stay s1
        | none =>
          match s.clearWait s.cur with
          | some s1 => .stay s1
          | none =>
            let q := lqOff p.prt 15
            let cfg := s.ureg 16 (q + 8)
            let tail := (s.ureg 16 (q + 0x10)).toNat % 2 ^ 32
            let head := (s.ureg 16 (q + 0x18)).toNat % 2 ^ 32
            if !cfg.getLsbD 4 then .done (s.setUreg 16 (q + 8) (cfg ||| 32))
            else if 2 ^ lqLog cfg ≤ (tail + 2 ^ 32 - head) % 2 ^ 32 then .stay s
            else
              let s1 := s.mgmtWrite p.prt ((s.ureg 16 q).toNat + 128 * (tail % 2 ^ lqLog cfg)) (s.padBytes p.team o 128)
              .done (s1.ring p.prt 15 (BitVec.ofNat 32 (tail + 1)) false)) s

/-! ### The latch (R161) -/

/-- Indices of a settled entry in ascending SQID. -/
def Latch.indices (e : Latch) : List (Option Nat) :=
  (gangList e.gang).flatMap (fun q => ((e.arrived.find? (fun a => a.1 == q)).map (fun a => a.2.2.2)).getD [])

/-- SW of an instruction word (R168). -/
def wordSw (word : Nat) : Bool := word.testBit 81

/-- A part held at the latch continues: its command is pending until it is appended, and SW = 1 makes that a switch point
(R161, R174, R276). -/
def Part.unlatched (p : Part) (cyc k : Nat) (sw : Bool) : Part :=
  let q := p.awake cyc (p.pc + 1)
  { q with
    pend := q.pend ++ [Pend.wait k]
    cmds := q.cmds ++ [k]
    st := if sw then .switched else .ready }

namespace State

/-- Every listed squad has arrived: one command is queued, in the order of that arrival, and the held parts continue. -/
def latchDone (s : State) (tk : Nat) (e : Latch) : State :=
  let k := s.ids
  let ix := e.indices
  let c : Entry := { e.ent with
    id := k
    squads := gangList e.gang
    cmd := if ix.isEmpty then e.ent.cmd else e.ent.cmd.withIdx ix }
  let lead := (e.arrived.headD (0, 0, 0, [])).2.1
  let m := Msg.command lead tk (s.withRecord tk c)
  let s1 := { (s.putMsg k m (s.msgVia m)).landed k with ids := k + 1 }.mapTeam tk (fun t => { t with
    inbox := t.inbox ++ [k]
    latch := t.latch.filter (fun x => !(x.gang == e.gang && x.count == e.count)) })
  (e.arrived.foldl (fun (s : State) a => s.mapPart a.2.1 (fun p => p.unlatched s.cyc k (wordSw e.word))) s1).appendNext tk k

end State

/-- LATCH_ARRIVAL (R161): the arrival opens an entry, joins its entry, or makes it fail. -/
def execLatchArrival (pid : Nat) (s : State) : Out :=
  match s.fab.msgs.find? (fun e => match e.2 with | some (.latchAt q _ _ _ _ _ _) => q == pid | _ => false) with
  | some (k, some (.latchAt _ n word ops act idx e)) =>
    let p := s.part pid
    let t := s.team p.team
    let s1 := s.dropMsg k
    if !s.arrives k then .next s
    else if !p.live || p.st != .latched then .next s1
    else
      let me := (p.sq, pid, act, idx)
      match t.latch.find? (fun x => x.gang == p.gang && x.count == n) with
      | none =>
        if 64 ≤ t.latch.length then .next (s.landed k)
        else .next ((s1.setTeam p.team { t with
          latch := t.latch ++ [⟨p.gang, n, word, ops, e, [me], false⟩] }).latchSweep p.team)
      | some x =>
        let bad := x.failed || x.word != word || x.ops != ops
        let x1 := { x with arrived := x.arrived ++ [me], failed := bad }
        let s2 := s1.setTeam p.team { t with latch := t.latch.map (fun y =>
          if y.gang == x.gang && y.count == x.count then x1 else y) }
        if bad then .next (s2.latchSweep p.team)
        else if (gangList x1.gang).all (fun q => x1.arrived.any (fun a => a.1 == q)) then .next (s2.latchDone p.team x1)
        else .next (s2.latchSweep p.team)
  | _ => .next s

end Sys2Proof.Machine
end

