-- ==== Sys2Proof/Machine/Copies.lean ====
section
/-! DEFINITION. Copies (R297 to R299) and the weight expansion path (R76 to R88, R283, R284) at the base stack. -/

namespace Sys2Proof.Machine

/-! ### Copies -/

namespace State

/-- Begin a copy of `n` stream bytes: ranges and bitmap are checked, then its chunks wait (R277, R297 to R299). -/
def startCopy (s : State) (tk : Nat) (e : Entry) (soff bmp n : Nat) : State :=
  let alloc := (s.team tk).alloc
  let nch := (n + 511) / 512
  let nb := 4 * ((nch + 31) / 32)
  if alloc < soff + n then s.refuseCmd tk e .scratchBounds soff
  else if alloc < bmp + nb then s.refuseCmd tk e .scratchBounds bmp
  else if s.padStat tk bmp nb then s.refuseCmd tk e .stationaryAccess bmp
  else s.setEntry tk { e with begun := true, chunks := List.range nch }

end State

/-- COPY_BEGIN (R277, R279, R280, R297, R298). -/
def execCopyBegin (tk q : Nat) (s : State) : Out :=
  let alloc := (s.team tk).alloc
  match s.toBegin tk q with
  | none => .next s
  | some e =>
    match e.cmd with
    | .copy _ soff bmp =>
      let c := recCheck alloc e.recd .cp 1
      if c ≠ 0 then .next (s.refuseCmd tk e (State.recCause c) 0)
      else .next (s.startCopy tk e soff bmp (parseRec e.recd).streamBytes)
    | .gather soff bmp list =>
      let r := parseRec e.recd
      let c := recCheck alloc e.recd .cpg 1
      let n := s.padPeek tk list 4
      if c ≠ 0 then .next (s.refuseCmd tk e (State.recCause c) 0)
      else if alloc < list + 4 then .next (s.refuseCmd tk e .scratchBounds list)
      else if s.padStat tk list 4 then .next (s.refuseCmd tk e .stationaryAccess list)
      else if n = 0 ∨ 524288 < n * r.rowBytes then .next (s.refuseCmd tk e .illegalEncoding 0)
      else if alloc < list + 4 + 4 * n then .next (s.refuseCmd tk e .scratchBounds list)
      else if s.padStat tk list (4 + 4 * n) then .next (s.refuseCmd tk e .stationaryAccess list)
      else
        let e1 := { e with rows := (List.range n).map (fun k => s.padPeek tk (list + 4 + 4 * k) 4) }
        .next (s.startCopy tk e1 soff bmp (n * r.rowBytes))
    | _ => .next s

/-- What befalls one byte of a chunk; a page by the VA it starts at. -/
inductive Piece where
  | move (val : Byte)
  | poison (page : Nat)
  | denied (page : Nat)
  | stat
  deriving DecidableEq, Repr

def Piece.bad : Piece → Bool | .move _ => false | _ => true

/-- First VA of a page. -/
def Page.base (p : Page) : Nat := p.va * 2 ^ p.size

namespace State

/-- Page, SPA and key of a VA that the command has translated. -/
def pageAt (s : State) (prt : Nat) (e : Entry) (va : Nat) : Page × Nat × Nat :=
  let g := (e.pageOf (va / 65536)).getD ⟨16, 0, 0, 0, true⟩
  let a := g.spa + va % 2 ^ g.size
  (g, a, s.keyAt a prt g.slot)

/-- One byte into scratchpad (R38, R83, R259). -/
def pieceIn (s : State) (tk : Nat) (e : Entry) (dst : Nat) (va : Option Nat) : Piece :=
  let t := s.team tk
  if t.stationary (dst / 65536) then .stat
  else
    match va with
    | none => .move 0
    | some va =>
      let p := s.pageAt t.prt e va
      if p.1.n || p.2.2 == 0 || Store.get false s.ecc (p.2.1 / 32) then .poison p.1.base
      else .move (s.byteK p.2.2 p.2.1)

/-- One byte from scratchpad. -/
def pieceOut (s : State) (tk : Nat) (e : Entry) (src : Nat) (va : Nat) : Piece :=
  let t := s.team tk
  let p := s.pageAt t.prt e va
  if t.stationary (src / 65536) then .stat
  else if s.padErr tk src then .poison p.1.base
  else if p.2.2 == 0 then .denied p.1.base
  else .move (s.byte (s.padSpa tk src))

/-- One record for a stationary conflict, and one for each page of poisoned bytes (R277). -/
def pieceFaults (s : State) (tk : Nat) (e : Entry) (off : Nat) (ps : List Piece) : State × Entry :=
  let s1 := if ps.contains .stat && !e.statRec then s.cmdFault tk e .stationaryAccess off else s
  let pg := (ps.filterMap (fun p => match p with
    | .poison g => some (g, Cause.poison)
    | .denied g => some (g, Cause.protection)
    | _ => none)).eraseDups.filter (fun g => !e.poisRec.contains g.1)
  (pg.foldl (fun (s : State) g => s.cmdFault tk e g.2 g.1) s1,
    { e with statRec := e.statRec || ps.contains .stat, poisRec := e.poisRec ++ pg.map Prod.fst })

/-- Bytes of a chunk that an engine moves, with their places in it: the other bytes of a damaged chunk are each written or
not (R83, R277, log 15). -/
def movePieces (s : State) (tk : Nat) (e : Entry) (out : Bool) (base : Nat) (bad : Bool) :
    List ((Option Nat × Nat) × Piece) → State
  | [] => s
  | ((a, i), .move v) :: rest =>
    (if bad && !Config.damagedWrite s.ctr i then s
    else if out then
      let t := s.team tk
      let p := s.pageAt t.prt e (a.getD 0)
      s.storeK t.prt (lkey t.prt t.launch) p.2.2 p.2.1 1 v.toNat
    else s.padStore tk (base + i) 1 v.toNat).movePieces tk e out base bad rest
  | _ :: rest => s.movePieces tk e out base bad rest

/-- The engine sets a chunk's bit (R128, R299), unless its word has come to lie in a stationary macro (R83). -/
def setChunkBit (s : State) (tk : Nat) (e : Entry) (w c : Nat) : State × Entry :=
  if (s.team tk).stationary (w / 65536) then s.pieceFaults tk e w [.stat]
  else (s.padPoke tk w 4 (s.padPeek tk w 4 ||| 2 ^ (c % 32)), e)

/-- The engine moves bytes `from` up to `upto` of chunk `c`: `hurt` says that the chunk met damage before, `last` that it ends
here, and then its bit is set if all its bytes were moved (R38, R83, R277, R299). -/
def moveChunk (s : State) (tk : Nat) (e : Entry) (out : Bool) (soff bmp c from' upto : Nat) (hurt last : Bool) :
    State × Entry × Bool :=
  let base := soff + 512 * c
  let ix := ((chunkAddrs e c).zipIdx.take upto).drop from'
  let ps := ix.map (fun x => if out then s.pieceOut tk e (base + x.2) (x.1.getD 0) else s.pieceIn tk e (base + x.2) x.1)
  let bad := hurt || ps.any Piece.bad
  let s1 := ({ s with ctr := s.ctr + 1 } : State).movePieces tk e out base bad (ix.zip ps)
  let f := s1.pieceFaults tk e (base + from') ps
  let g := if last && !bad then f.1.setChunkBit tk f.2 (bmp + 4 * (c / 32)) c else f
  (g.1.evalWaits tk, g.2, bad)

end State

/-- Two chunks of a copy to global memory name a byte both: the element later in stream order remains (R297). -/
def chunksMeet (e : Entry) (c d : Nat) : Bool := (chunkAddrs e c).any (fun a => a.isSome && (chunkAddrs e d).contains a)

namespace State

/-- Engine data of a page flows between the base stack and the page's home, on class 3 (R69, R72, R369). -/
def engineFlows (s : State) (tk : Nat) (e : Entry) (out : Bool) (va : Nat) : Bool :=
  let t := s.team tk
  let h := spaUnit (s.pageAt t.prt e va).2.1
  s.flowing (if out then ⟨tk / 256, h, t.prt, 3⟩ else ⟨h, tk / 256, t.prt, 3⟩)

/-- The bytes of a chunk that the engine can move now: up to the first one without a translation, or whose home it does not
reach. -/
def span (s : State) (tk : Nat) (e : Entry) (out : Bool) (c : Nat) : Nat :=
  ((chunkAddrs e c).takeWhile (fun a => match a with
    | some v => e.hasPage (v / 65536) && s.engineFlows tk e out v
    | none => true)).length

/-- The engine performs chunk `c`: whole when every page of it is translated, and of the lowest chunk else what comes before the
first page that is not (R41, R299). -/
def runChunk (s : State) (tk : Nat) (e : Entry) (out : Bool) (soff bmp c : Nat) : State :=
  let low := e.chunks.head? == some c
  let from' := if low then e.pos else 0
  let hurt := low && e.hurt
  let n := (chunkAddrs e c).length
  let upto := max from' (s.span tk e out c)
  let early := out && (e.chunks.takeWhile (fun d => d != c)).any (fun d => chunksMeet e c d)
  if upto = n && !early then
    let r := s.moveChunk tk e out soff bmp c from' n hurt true
    let rest := e.chunks.erase c
    let e1 : Entry := if low then { r.2.1 with chunks := rest, pos := 0, hurt := false } else { r.2.1 with chunks := rest }
    r.1.setEntry tk { e1.slide with done := rest.isEmpty }
  else if low && decide (from' < upto) then
    let r := s.moveChunk tk e out soff bmp c from' upto hurt false
    r.1.setEntry tk ({ r.2.1 with pos := upto, hurt := r.2.2 } : Entry).slide
  else s

end State

/-- CHUNK_COMPLETE (R38, R41, R83, R277, R297 to R299): the engine performs the bytes of a chunk, and sets its bit when all
were. -/
def execChunkComplete (tk q c : Nat) (s : State) : Out :=
  match s.headAt tk q with
  | none => .next s
  | some e =>
    if !e.begun || e.done || e.parked || !e.chunks.contains c then .next s
    else
      match e.cmd with
      | .copy out soff bmp => .next (s.runChunk tk e out soff bmp c)
      | .gather soff bmp _ => .next (s.runChunk tk e false soff bmp c)
      | _ => .next s

/-! ### Regions (R76 to R82) -/

def Region.cols (r : Region) : Nat := if r.ty == .e2m1 then 512 else 256
def Region.kt (r : Region) : Nat := (r.kx + 256 * patG r.pat - 1) / (256 * patG r.pat)
def Region.nt (r : Region) : Nat := (r.nx + r.cols - 1) / r.cols
/-- Weight macros, and weight macros for each metadata macro (R79). -/
def Region.weights (r : Region) : Nat := r.kt * r.nt
def Region.perMeta (r : Region) : Nat := if r.ty == .e2m1 then 2 else 4
def Region.total (r : Region) : Nat :=
  r.weights + (if r.pat == .dense then 0 else (r.weights + r.perMeta - 1) / r.perMeta)

/-- Weight macro of kept row `kk`, column `n` (R79). -/
def Region.macOf (r : Region) (kk n : Nat) : Nat := kk / 256 + r.kt * (n / r.cols)
/-- Allocation offset of byte `o` of the region's macro `j`. -/
def Region.off (r : Region) (j o : Nat) : Nat := (r.mac + j) * 65536 + o
/-- Offset of element (kk, n), and of its scale in the side array (R76). -/
def Region.elemOff (r : Region) (kk n : Nat) : Nat :=
  let n' := n % r.cols
  r.off (r.macOf kk n) (if r.ty == .e2m1 then n' * 128 + kk % 256 / 2 else n' * 256 + kk % 256)
def Region.scaleOff (r : Region) (b n : Nat) : Nat := n % r.cols * 8 + b % 8
/-- Offset of the byte that holds the position of kept element (kk, n) (R80). -/
def Region.posOff (r : Region) (kk n : Nat) : Nat :=
  let j := r.macOf kk n
  r.off (r.weights + j / r.perMeta) (j % r.perMeta * (65536 / r.perMeta) + n % r.cols * 64 + kk % 256 / 4)

namespace State

def region (s : State) (tk n : Nat) : Region := Store.get Region.unused (s.team tk).regions n
def setRegion (s : State) (tk n : Nat) (r : Region) : State :=
  s.mapTeam tk (fun t => { t with regions := Store.set Region.unused t.regions n r })

/-- SPA of the scale of block `b` of column `n`. -/
def scaleSpa (s : State) (tk : Nat) (r : Region) (b n : Nat) : Nat :=
  s.padSide tk (r.mac + r.macOf (32 * b) n) (r.scaleOff b n)

/-- Write an element code. -/
def putWeight (s : State) (tk : Nat) (r : Region) (kk n code : Nat) : State :=
  let o := r.elemOff kk n
  if r.ty == .e2m1 then
    let old := s.padPeek tk o 1
    s.padPoke tk o 1 (if kk % 2 = 0 then old / 16 * 16 + code else old % 16 + 16 * code)
  else s.padPoke tk o 1 code

def weight (s : State) (tk : Nat) (r : Region) (kk n : Nat) : Nat :=
  let x := s.padPeek tk (r.elemOff kk n) 1
  if r.ty == .e2m1 then x / 16 ^ (kk % 2) % 16 else x

/-- Position of a kept element within its group of four (R80). -/
def position (s : State) (tk : Nat) (r : Region) (kk n : Nat) : Nat :=
  s.padPeek tk (r.posOff kk n) 1 / 4 ^ (kk % 4) % 4

def isPoison (s : State) (tk : Nat) (r : Region) (b n : Nat) : Bool :=
  Store.get false s.poisonMark (s.scaleSpa tk r b n)

/-- Note a poison block in the team's status word and MPCNT (R87, R93, R296). -/
def notePoison (s : State) (tk region cause mac block : Nat) : State :=
  let t := s.team tk
  let w := (Store.get 0 t.mstat 1).toNat
  let n := w % 256
  let put := fun (m : Store Word) (i x : Nat) => Store.set 0 m i (BitVec.ofNat 32 x)
  let m := if n = 0 then
      put (put (put (put t.mstat 1 (1 + 256 * region + 65536 * cause)) 2 (mac + 65536 * block)) 3 (s.tickAt (tk / 256)).toNat) 4
        ((s.tickAt (tk / 256)).toNat / 2 ^ 32)
    else put t.mstat 1 (w - n + min 255 (n + 1))
  (s.setTeam tk { t with mstat := m }).bumpUreg (tk / 256) 0x50008 32 1

/-- Install block `b` of column `n` as a poison block (R85). -/
def poisonBlock (s : State) (tk region : Nat) (r : Region) (b n cause block : Nat) (mac : Nat) : State :=
  let s1 := (List.range 32).foldl (fun (s : State) i => s.putWeight tk r (32 * b + i) n 0) s
  let a := s1.scaleSpa tk r b n
  let s2 := { s1.setByte a 0xFF with poisonMark := Store.set false s1.poisonMark a true }
  s2.notePoison tk region cause mac block

/-! ### Fills (R81, R84, R85, R92) -/

/-- A byte of a fill's tensors: value, and the cause that poisons it (R85). -/
def fillByte (s : State) (tk : Nat) (e : Entry) (a : Int) : Byte × Option Nat :=
  let va := (a % 2 ^ 64).toNat
  let p := s.pageAt (s.team tk).prt e va
  (s.byteK p.2.2 p.2.1,
    if p.2.2 == 0 || Store.get false s.ecc (p.2.1 / 32) then some 1 else if p.1.n then some 2 else none)

/-- Element (i0, i1) of a 2-D tensor. -/
def fillElem (s : State) (tk : Nat) (e : Entry) (r : TRec) (i0 i1 : Nat) : Nat × List Nat :=
  let g := r.grp
  let bs := (List.range g.2).map (fun j => s.fillByte tk e (r.addr (i0 / g.1) j i1 0 0))
  (leNat (bs.map Prod.fst) / 2 ^ (r.ebits * (i0 % g.1)) % 2 ^ r.ebits, bs.filterMap Prod.snd)

end State

/-- Pairs of a 2:4 group must ascend strictly (R80). -/
def pairsBad (pat : Pat) (ps : List Nat) : Bool :=
  pat == .s24 && (List.range (ps.length / 2)).any (fun i => decide (ps.getD (2 * i + 1) 0 ≤ ps.getD (2 * i) 0))

namespace State

/-- One block of a fill: its scale, codes, positions, and the lowest cause that poisons it (R84, R85). -/
def fillBlock (s : State) (tk : Nat) (e : Entry) (t : TRec) (g : Region) (n b : Nat) :
    Nat × List Nat × List Nat × Option Nat :=
  let len := min 32 (t.e 0 - 32 * b)
  let els := (List.range len).map (fun i => s.fillElem tk e t (32 * b + i) n)
  let codes := els.map Prod.fst
  let bad := els.flatMap Prod.snd
  let scs := if t.mx then t.nrows * t.rowBlocks else 0
  let q : Nat × List Nat × List Nat :=
    if t.mx then
      let sb := s.fillByte tk e ((t.aux : Int) + n * t.rowBlocks + b)
      (sb.1.toNat, codes, match sb.2 with | some c => [c] | none => [])
    else
      let r := quantBlock g.ty (codes.map (fval (t.fp.getD .f32)))
      (r.1, r.2.1, [])
  let pb := if g.pat == .dense then [] else (List.range ((len + 3) / 4)).map (fun (i : Nat) =>
    s.fillByte tk e ((t.aux : Int) + scs + n * ((t.e 0 + 3) / 4) + 8 * b + i))
  let ps := (List.range len).map (fun i => (pb.getD (i / 4) (0, none)).1.toNat / 4 ^ (i % 4) % 4)
  let causes := (if q.1 = 0xFF then [0] else []) ++ bad ++ q.2.2 ++ pb.filterMap Prod.snd ++
    (if pairsBad g.pat ps then [3] else [])
  (q.1, q.2.1, pb.map (fun x => x.1.toNat), match causes with | [] => none | c :: cs => some (cs.foldl min c))

/-- Install one block. -/
def putBlock (s : State) (tk region : Nat) (g : Region) (n b : Nat) (x : Nat × List Nat × List Nat × Option Nat) : State :=
  let s0 := (x.2.2.1.zipIdx).foldl (fun (s : State) p => s.padPoke tk (g.posOff (32 * b + 4 * p.2) n) 1 p.1) s
  match x.2.2.2 with
  | some c => s0.poisonBlock tk region g b n c (n % g.cols * 8 + b % 8) (g.macOf (32 * b) n)
  | none =>
    let s1 := (x.2.1.zipIdx).foldl (fun (s : State) c => s.putWeight tk g (32 * b + c.2) n c.1) s0
    s1.setByte (s1.scaleSpa tk g b n) (BitVec.ofNat 8 x.1)

/-- Corrected errors that the reads of a block meet are counted in MECC (R85, R93). -/
def countMecc (s : State) (tk : Nat) (e : Entry) (n b : Nat) : State :=
  let prt := (s.team tk).prt
  let sectors := ((blockSpans (parseRec e.recd) n b).flatMap (fun x => (List.range x.2).map (fun i =>
    (s.pageAt prt e ((x.1 + i) % 2 ^ 64)).2.1 / 32))).eraseDups
  ({ s with ctr := s.ctr + 1 } : State).bumpUreg (tk / 256) 0x50020 32
    (sectors.filter (fun a => Config.softErr s.ctr a)).length

/-- The engine reads and installs blocks of a fill, in stream order, as long as their pages are translated and their homes are reached:
the state, and how many (R41, R69, R84, R85). -/
def fillFrom (s : State) (tk region : Nat) (e : Entry) (g : Region) : List (Nat × Nat) → State × Nat
  | [] => (s, 0)
  | (n, b) :: rest =>
    if (blockSpans (parseRec e.recd) n b).all (fun x => (unitSpan x.1 x.2).all (fun g =>
        e.hasPage g && s.engineFlows tk e false (g * 65536))) then
      let r := ((s.putBlock tk region g n b (s.fillBlock tk e (parseRec e.recd) g n b)).countMecc tk e n b).fillFrom
        tk region e g rest
      (r.1, r.2 + 1)
    else (s, 0)

/-- Zero the macros of a region. -/
def zeroRegion (s : State) (tk : Nat) (g : Region) : State :=
  (List.range g.count).foldl (fun (s : State) i =>
    s.zeroMacro (tk / 256) (s.macroEntry (tk / 256) ((s.team tk).mbase + g.mac + i))) s

end State

/-- REGION_FILL_BEGIN (R80, R81, R88, R97, R277, R283). -/
def execRegionFillBegin (tk : Nat) (s : State) : Out :=
  match s.toBegin tk 4 with
  | none => .next s
  | some e =>
    match e.cmd with
    | .fill ty pat mac n =>
      let t := s.team tk
      let r := parseRec e.recd
      let c := recCheck t.alloc e.recd .fill (patG pat)
      let old := s.region tk n
      let g : Region := { Region.unused with
        filling := true, mac := mac, ty := ty, pat := pat, kx := r.e 0 * patG pat, nx := r.e 1, recd := e.recd }
      let cnt := g.total
      let clash := t.regions.any (fun x => x.1 != n && (x.2.used || x.2.filling) && decide (x.2.mac < mac + cnt) &&
        decide (mac < x.2.mac + x.2.count))
      if c ≠ 0 then .next (s.refuseCmd tk e (State.recCause c) 0)
      else if r.sparse != (pat != .dense) then .next (s.refuseCmd tk e .illegalEncoding 0)
      else if !(r.fp == some ty || r.fp == some .f32 || r.fp == some .f16 || r.fp == some .bf16) then
        .next (s.refuseCmd tk e .illegalEncoding 0)
      else if mac < t.dmac || decide (t.mcount < mac + cnt) || clash ||
          (old.used && (old.mac != mac || old.count != cnt)) then
        .next (s.refuseCmd tk e .stationaryAccess 0)
      else
        let v := s.bumpVsrc (tk / 256)
        let g1 : Region := { g with count := cnt, version := v.2 }
        .next (((v.1.setRegion tk n g1).zeroRegion tk g1).setEntry tk { e with begun := true })
    | _ => .next s

/-- The key slot of the first weight page (R97), once it is translated. -/
def Entry.firstKey (e : Entry) : Nat := ((e.units.head?.bind e.pageOf).map (fun p => p.slot)).getD 0

/-- REGION_FILL_END (R41, R81, R84, R85, R97): the engine installs the blocks whose pages are translated; with the last one the
region is in use. -/
def execRegionFillEnd (tk : Nat) (s : State) : Out :=
  match s.headAt tk 4 with
  | none => .next s
  | some e =>
    match e.cmd with
    | .fill _ _ _ n =>
      if !e.begun || e.done || e.parked then .next s
      else
        let todo := (fillBlocks (parseRec e.recd)).drop e.pos
        let g0 := s.region tk n
        let g := if e.pos = 0 then { g0 with key := e.firstKey } else g0
        let r := s.fillFrom tk n e g todo
        let e1 : Entry := { e with pos := e.pos + r.2 }
        if r.2 = todo.length then .next ((r.1.setRegion tk n { g with used := true, filling := false }).doneCmd tk e1)
        else if r.2 = 0 then .next s
        else .next ((r.1.setRegion tk n g).setEntry tk e1.slide)
    | _ => .next s

/-- REGION_FREE (R82, R284). -/
def execRegionFree (tk : Nat) (s : State) : Out :=
  match s.toBegin tk 4 with
  | some e =>
    match e.cmd with
    | .free n => .next ((s.freeRegion tk n).doneCmd tk e)
    | _ => .next s
  | none => .next s

/-! ### The scrub (R86) -/

namespace State

/-- An uncorrectable error in the elements or the scale of a block. -/
def blockErr (s : State) (tk : Nat) (r : Region) (b n : Nat) : Bool :=
  Store.get false s.ecc (s.padSpa tk (r.elemOff (32 * b) n) / 32) ||
    Store.get false s.ecc (s.scaleSpa tk r b n / 32)

/-- An uncorrectable error in the positions of a block. -/
def posErr (s : State) (tk : Nat) (r : Region) (b n : Nat) : Bool :=
  Store.get false s.ecc (s.padSpa tk (r.posOff (32 * b) n) / 32)

/-- The region that holds physical macro `m` of a stack: team, region, macro index. -/
def regionOf (s : State) (u m : Nat) : Option (Nat × Nat × Region × Nat) :=
  (s.residents u).findSome? (fun t => t.2.regions.findSome? (fun g =>
    if !g.2.used then none
    else ((List.range g.2.count).find? (fun i => s.macroEntry u (t.2.mbase + g.2.mac + i) == m)).map (fun i =>
      (t.1, g.1, g.2, i))))

end State

/-- MACRO_SCRUB (R85 to R87, R93): single-bit errors are corrected and counted in MSCOR; a block with an uncorrectable error
becomes a poison block with cause 4.  In a metadata macro `blk` names the blocks whose positions it holds. -/
def execMacScrub (u mac blk : Nat) (s : State) : Out :=
  if (s.ureg u 0x50010).toNat % 65536 = 0 then .next s
  else
    let soft := Config.softErr s.ctr (mac * 4096 + blk)
    let s := ({ s with ctr := s.ctr + 1 } : State).bumpUreg u 0x50018 32 (if soft then 1 else 0)
    match s.regionOf u mac with
    | none => .next s
    | some (tk, n, g, j) =>
      let bad := fun (j : Nat) (k : Nat) (isMeta : Bool) =>
        let col := j / g.kt * g.cols + k / 8
        let b := j % g.kt * 8 + k % 8
        decide (k / 8 < g.cols) && decide (j < g.weights) && !s.isPoison tk g b col &&
          (if isMeta then s.posErr tk g b col else s.blockErr tk g b col)
      if j < g.weights then
        if bad j blk false then
          .next (s.poisonBlock tk n g (j % g.kt * 8 + blk % 8) (j / g.kt * g.cols + blk / 8) 4 blk j)
        else .next s
      else
        let js := (List.range g.perMeta).map (fun i => (j - g.weights) * g.perMeta + i)
        .next ((js.filter (fun i => bad i blk true)).foldl (fun (s : State) i =>
          s.poisonBlock tk n g (i % g.kt * 8 + blk % 8) (i / g.kt * g.cols + blk / 8) 4 0xFFFF j) s)

end Sys2Proof.Machine
end

