-- ==== Sys2Proof/Machine/Products.lean ====
section
/-! DEFINITION. Matrix products (R77, R90 to R92, R286, R287), delta invocations and reuse slots (R94 to R108, R288,
R290), tiles and drains (R89, R289, R291 to R293). -/

namespace Sys2Proof.Machine

/-! ### Tiles (R23, R89) -/

namespace State

/-- SPA of element (i, j) of a team's accumulator tile. -/
def tileEl (s : State) (tk n i j : Nat) : Nat :=
  tileSpa (tk / 256) ((s.team tk).tilemap.toNat / 2 ^ (5 * n) % 32) + (i * 256 + j) * 4
def getTile (s : State) (tk n i j : Nat) : Nat := s.peek (s.tileEl tk n i j) 4
def putTile (s : State) (tk n i j x : Nat) : State := s.poke (s.tileEl tk n i j) 4 x

end State

/-! ### A rows (R91, R286) -/

/-- How the rows of a product are formed: record, mode, first row, indices. -/
structure RowSrc where
  r : TRec
  raw : List Byte
  mode : AMode
  row0 : Nat
  idx : List (Option Nat)

/-- Coordinates in the tensor of A row `i` at logical position `k`; none reads as zero. -/
def RowSrc.at' (x : RowSrc) (i k : Nat) : Option (Nat × Nat × Nat × Nat) :=
  let r := x.r
  match x.mode with
  | .pl => if x.row0 + i < r.e 1 ∧ k < r.e 0 then some (k, x.row0 + i, 0, 0) else none
  | .ga =>
    match x.idx.getD i none with
    | some n => if n < r.e 1 ∧ k < r.e 0 then some (k, n, 0, 0) else none
    | none => none
  | .cv =>
    let cx := convOf x.raw r.ndim 1
    let cy := convOf x.raw r.ndim 2
    let cz := convOf x.raw r.ndim 3
    let ox := (convOut x.raw r 1).toNat
    let oy := (convOut x.raw r 2).toNat
    let oz := (convOut x.raw r 3).toNat
    let p := x.row0 + i
    let c := k % r.e 0
    let tap := k / r.e 0
    let coord := fun (o t : Nat) (q : Nat × Nat × Nat × Nat) => (o * q.2.1 : Int) - q.2.2.1 + t * q.2.2.2
    let ix := coord (p % ox) (tap % cx.1) cx
    let iy := coord (p / ox % oy) (tap / cx.1 % cy.1) cy
    let iz := coord (p / (ox * oy)) (tap / (cx.1 * cy.1)) cz
    let inn := fun (v : Int) (d : Nat) => decide (0 ≤ v) && decide (v < (r.e d : Int))
    if p < ox * oy * oz ∧ tap < cx.1 * cy.1 * cz.1 ∧ inn ix 1 ∧ inn iy 2 ∧ inn iz 3 then
      some (c, ix.toNat, iy.toNat, iz.toNat)
    else none

/-- The tensor row of an A row in plain and gather mode. -/
def RowSrc.row (x : RowSrc) (i : Nat) : Option Nat :=
  let n := match x.mode with | .ga => x.idx.getD i none | _ => some (x.row0 + i)
  n.bind (fun n => if n < x.r.e 1 then some n else none)

/-- One A block: its values before quantisation, and scale and codes when the source is in an MX type. -/
structure ABlk where
  vals : List FV
  mx : Option (Nat × List Nat)

namespace State

/-- Element code at tensor coordinates in the scratchpad. -/
def padElem (s : State) (tk : Nat) (r : TRec) (p : Nat × Nat × Nat × Nat) : Nat :=
  let g := r.grp
  let a := (r.addr (p.1 / g.1) 0 p.2.1 p.2.2.1 p.2.2.2).toNat
  s.padPeek tk a g.2 / 2 ^ (r.ebits * (p.1 % g.1)) % 2 ^ r.ebits

/-- Block `b` of A row `i` over the logical positions below `K`. -/
def aBlock (s : State) (tk : Nat) (x : RowSrc) (K i b : Nat) : ABlk :=
  let ks := (List.range (min 32 (K - 32 * b))).map (fun j => 32 * b + j)
  let codes := ks.map (fun k => (x.at' i k).map (s.padElem tk x.r))
  let f := x.r.fp.getD .f32
  if x.r.mx then
    let sc := match x.row i with
      | some n => if b < x.r.rowBlocks then s.padPeek tk (x.r.aux + n * x.r.rowBlocks + b) 1 else 0
      | none => 0
    let cs := codes.map (fun c => c.getD 0)
    ⟨cs.map (fun c => scaled f c sc), some (sc, cs)⟩
  else ⟨codes.map (fun c => match c with | some c => fval f c | none => .fin false 0 0), none⟩

end State

/-- Scale and codes of a block in the region's type (R287, R92). -/
def ABlk.quant (a : ABlk) (ty : Fmt) : Nat × List Nat :=
  match a.mx with
  | some q => q
  | none => let q := quantBlock ty a.vals; (q.1, q.2.1)

/-! ### Accumulation (R90) -/

/-- An element code that makes its block a poison block (R90). -/
def badCode (ty : Fmt) (c : Nat) : Bool := (fval ty c).isNan || (fval ty c).isInf

/-- The exact value of a code, as a dyadic. -/
def codeDy (ty : Fmt) (c : Nat) : Dy := (fval ty c).dy

/-- Add an exact s × 2^x to an FP32 accumulator with one rounding; an exact zero counts as +0 (R90). -/
def accAdd (acc : Nat) (s : Dy) (x : Int) : Nat :=
  (fsum .f32 .rne false [fval .f32 acc, .fin (decide (s.m < 0)) s.m.natAbs (if s.m = 0 then 0 else s.e + x)] 0).1

/-- Kept elements for each group of four (R79, R80). -/
def keepOf : Pat → Nat | .dense => 4 | .s24 => 2 | .s14 => 1

namespace State

/-- The kept weights of column `n` that A block `b` meets: place within the block, and code (R80, R90). -/
def weightsOf (s : State) (tk : Nat) (r : Region) (n b : Nat) : List (Nat × Nat) :=
  let kp := keepOf r.pat
  (List.range (8 * kp)).map (fun i =>
    let kk := 8 * b * kp + i
    (if r.pat == .dense then i else 4 * (i / kp) + s.position tk r kk n, s.weight tk r kk n))

/-- The weight block that A block `b` meets, and whether it is a poison block or holds a NaN or infinite code (R90). -/
def weightBad (s : State) (tk : Nat) (r : Region) (n wb : Nat) : Bool :=
  s.isPoison tk r wb n || (List.range 32).any (fun i => badCode r.ty (s.weight tk r (32 * wb + i) n))

/-- One block of an accumulation on column `n`: exact block values `d` under the scale exponent `sa` (R90, R100). -/
def accBlock (s : State) (tk : Nat) (r : Region) (n b : Nat) (bad : Bool) (d : List Dy) (sa : Int) (acc : Nat) : Nat :=
  let wb := 8 * b * keepOf r.pat / 32
  if bad || s.weightBad tk r n wb then 0x7FC00000
  else
    let sum := (s.weightsOf tk r n b).foldl (fun (a : Dy) w =>
      a.add ((d.getD w.1 ⟨0, 0⟩).mul (codeDy r.ty w.2))) ⟨0, 0⟩
    accAdd acc sum (sa + ((s.byte (s.scaleSpa tk r wb n)).toNat : Int) - 127)

/-- All blocks of a row against one column, from an accumulator value (R90). -/
def accRow (s : State) (tk : Nat) (r : Region) (n : Nat) (qs : List (Nat × List Nat)) (acc : Nat) : Nat :=
  (qs.zipIdx).foldl (fun a q =>
    s.accBlock tk r n q.2 (q.1.1 == 0xFF || q.1.2.any (badCode r.ty)) (q.1.2.map (codeDy r.ty)) ((q.1.1 : Int) - 127) a) acc

end State

/-! ### Products (R286, R287) -/

def shapeRows : Shape → Nat
  | .m16 => 16 | .m32 => 32 | .m48 => 48 | .m64 => 64 | .m96 => 96 | .m128 => 128 | .auto => 0

/-- A product as it begins: region, source of its rows, and its row count. -/
structure Begun where
  g : Region
  src : RowSrc
  m : Nat

namespace State

/-- The bytes that a product's rows fetch touch a stationary macro (R83): in convolution mode those of the taps inside the
record, else whole rows and their scales. -/
def rowsStat (s : State) (tk : Nat) (x : RowSrc) (m kx : Nat) : Bool :=
  match x.mode with
  | .cv => (List.range m).any (fun i => (List.range kx).any (fun k =>
      match x.at' i k with
      | none => false
      | some p => s.padStat tk (x.r.addr (p.1 / x.r.grp.1) 0 p.2.1 p.2.2.1 p.2.2.2).toNat x.r.grp.2))
  | _ => (List.range m).any (fun i =>
    match x.row i with
    | none => false
    | some n => s.padStat tk (x.r.addr 0 0 n 0 0).toNat x.r.rowBytes ||
        (x.r.mx && s.padStat tk (x.r.aux + n * x.r.rowBlocks) x.r.rowBlocks))

/-- The checks of a product that begins (R83, R91, R277, R286, R287): the cause that refuses it, or what it works on. -/
def beginProduct (s : State) (tk : Nat) (e : Entry) (pat : Option Pat) (shape : Shape) (am : AMode) (count : Option Nat)
    (region colt row0 : Nat) (idx : List (Option Nat)) : Sum Cause Begun :=
  let r := parseRec e.recd
  let g := s.region tk region
  let c := recCheck (s.team tk).alloc e.recd (if am == .cv then .conv else .row) 1
  let src : RowSrc := ⟨r, e.recd, am, row0, idx⟩
  let m := match count with | some n => n | none => shapeRows shape
  if c ≠ 0 then .inl (recCause c)
  else if !g.used || (match pat with | some p => p != g.pat | none => false) || decide (g.nx ≤ 256 * colt) then
    .inl .stationaryAccess
  else if r.mx && r.fp != some g.ty then .inl .illegalEncoding
  else if 128 < m then .inl .scratchBounds
  else if s.rowsStat tk src m g.kx then .inl .stationaryAccess
  else .inr ⟨g, src, m⟩

/-- Blocks along K. -/
def kblocks (g : Region) : Nat := (g.kx + 31) / 32

/-- Blocks of an A row in the region's type. -/
def rowQuant (s : State) (tk : Nat) (b : Begun) (i : Nat) : List (Nat × List Nat) :=
  (List.range (kblocks b.g)).map (fun k => (s.aBlock tk b.src b.g.kx i k).quant b.g.ty)

/-- `mmx` and `mmxs` (R287): add onto rows 0 to m − 1 of the tile. -/
def runProduct (s : State) (tk tile colt : Nat) (b : Begun) : State :=
  (List.range b.m).foldl (fun (s' : State) i =>
    let q := s.rowQuant tk b i
    (List.range 256).foldl (fun (s' : State) j =>
      s'.putTile tk tile i j (s.accRow tk b.g (256 * colt + j) q (s.getTile tk tile i j))) s') s

end State

/-- PRODUCT_BEGIN (R77, R83, R90 to R92, R277, R286, R287). -/
def execProductBegin (tk : Nat) (s : State) : Out :=
  match s.toBegin tk 4 with
  | none => .next s
  | some e =>
    let go := fun (pat : Pat) (sh : Shape) (am : AMode) (n : Option Nat) (g colt tile row0 : Nat)
        (ix : List (Option Nat)) =>
      match s.beginProduct tk e (some pat) sh am n g colt row0 ix with
      | .inl c => (.next (s.refuseCmd tk e c 0) : Out)
      | .inr b => .next ((s.runProduct tk tile colt b).doneCmd tk e)
    match e.cmd with
    | .prod .dense sh am n g colt tile row0 ix => go .dense sh am n g colt tile row0 ix
    | .prod (.sparse s14) sh am n g colt tile row0 ix => go (if s14 then .s14 else .s24) sh am n g colt tile row0 ix
    | _ => .next s

/-! ### Reuse slots (R95, R96) -/

/-- TYPE of a slot header (R96). -/
def slotType : Fmt → Nat
  | .e5m2 => 1 | .e4m3 => 0 | .e3m2 => 3 | .e2m3 => 2 | .e2m1 => 4 | _ => 0

namespace State

/-- A field of a slot's header; FLAGS and OWNER name the key the rest is read under (R95, R96, log 30). -/
def slotField (s : State) (u n off w : Nat) : Nat := s.peek (slotSpa u n + off) w

/-- The key of a slot: that of its KEY field; 0 when it is not live (R95, R391). -/
def slotKeyAt (s : State) (u n prt : Nat) : Nat := s.keyAt (slotSpa u n) prt (s.slotField u n 1 1 / 16)

/-- Bytes of a slot as partition `prt` reads them (R95, R390). -/
def slotRead (s : State) (u n prt off w : Nat) : Nat := s.peekK (s.slotKeyAt u n prt) (slotSpa u n + off) w

/-- Frozen scale, previous code and previous result of a slot (R95). -/
def slotScale (s : State) (u n prt i b : Nat) : Nat := s.slotRead u n prt (0x1000 + i * 128 + b) 1
def slotCode (s : State) (u n prt i k : Nat) : Nat := s.slotRead u n prt (0x80000 + i * 4096 + k) 1
def slotRes (s : State) (u n prt i j : Nat) : Nat := s.slotRead u n prt (0x20000 + (i * 256 + j) * 4) 4

/-- Write a field of a slot under its key. -/
def putSlot (s : State) (u n key off w x : Nat) : State := s.pokeK key (slotSpa u n + off) w x

/-- The slot is valid and owned by a partition in a world (R99). -/
def slotOwned (s : State) (u n prt : Nat) (world : Bool) : Bool :=
  (s.slotField u n 0 1).testBit 0 && s.slotField u n 1 1 % 8 == prt && (s.slotField u n 0 1).testBit 1 == world

/-- A read of a slot's header, frozen scales, previous A or previous result meets an uncorrectable error, or the slot's key is
not live (R99, R393). -/
def slotErr (s : State) (u n prt : Nat) : Bool :=
  let inside := fun (a : Nat) => [(0, 0x100), (0x1000, 0x4000), (0x20000, 0x20000), (0x80000, 0x80000)].any (fun x =>
    decide (slotSpa u n + x.1 ≤ a) && decide (a < slotSpa u n + x.1 + x.2))
  s.slotKeyAt u n prt == 0 || s.ecc.any (fun e => e.2 && inside (e.1 * 32))

end State

/-- Quantisation under a frozen scale `f`, not saturated: the code, and whether it saturates (R99, R100). -/
def frozen (ty : Fmt) (f : Nat) (x : FV) : Nat × Bool :=
  match x with
  | .fin neg m e =>
    let r := rnd ty .rne neg m (e + 127 - (f : Int)) false
    (signBit ty neg + encMag ty r.k r.q, exceeds ty r.k r.q)
  | _ => (0, true)

namespace State

/-- An element that a delta computation cannot take (R99, SATURATE). -/
def saturates (s : State) (tk slot : Nat) (b : Begun) : Bool :=
  let u := tk / 256
  let prt := (s.team tk).prt
  (List.range b.m).any (fun i => (List.range (kblocks b.g)).any (fun k =>
    let f := s.slotScale u slot prt i k
    let xs := (s.aBlock tk b.src b.g.kx i k).vals
    (f == 0xFF && !xs.isEmpty) || xs.any (fun x => (frozen b.g.ty f x).2) ||
      (List.range xs.length).any (fun j => badCode b.g.ty (s.slotCode u slot prt i (32 * k + j)))))

/-- The decision of R99: the reason, 0 for a delta computation. -/
def reuseReason (s : State) (tk slot tag region colt : Nat) (full : Bool) (b : Begun) : Nat :=
  let u := tk / 256
  let t := s.team tk
  let f := s.slotRead u slot t.prt
  let world := (s.partition t.prt).secure
  if !(((s.launch (lkey t.prt t.launch)).hd 6 2).testBit 2) then 9
  else if full then 1
  else if !s.slotOwned u slot t.prt world then 2
  else if s.slotErr u slot t.prt then 8
  else if f 2 2 ≠ tag then 3
  else if f 8 1 ≠ region ∨ f 9 1 ≠ slotType b.g.ty ∨ f 12 2 ≠ b.g.kx ∨ f 10 1 ≠ b.m ∨ f 11 1 ≠ colt then 4
  else if f 4 4 ≠ b.g.version then 5
  else if f 15 1 ≤ f 14 1 then 6
  else if s.saturates tk slot b then 7
  else 0

/-- A row of a delta computation over one column: from the previous result, only the blocks that changed (R100). -/
def deltaEl (s : State) (tk slot colt : Nat) (b : Begun) (i j : Nat) (qs : List (List Nat)) : Nat :=
  let u := tk / 256
  let prt := (s.team tk).prt
  (qs.zipIdx).foldl (fun y q =>
    let f := s.slotScale u slot prt i q.2
    let d := (q.1.zipIdx).map (fun c => (codeDy b.g.ty c.1).add
      (let o := codeDy b.g.ty (s.slotCode u slot prt i (32 * q.2 + c.2)); ⟨-o.m, o.e⟩))
    if d.all (fun x => x.m == 0) then y
    else s.accBlock tk b.g (256 * colt + j) q.2 false d ((f : Int) - 127) y) (s.slotRes u slot prt i j)

/-- Codes of a row under the frozen scales. -/
def frozenRow (s : State) (tk slot : Nat) (b : Begun) (i : Nat) : List (List Nat) :=
  (List.range (kblocks b.g)).map (fun k =>
    (s.aBlock tk b.src b.g.kx i k).vals.map (fun x => (frozen b.g.ty (s.slotScale (tk / 256) slot (s.team tk).prt i k) x).1))

/-- Every code of a block equals the stored one in value. -/
def sameBlock (s : State) (u slot prt i k : Nat) (ty : Fmt) (cs : List Nat) : Bool :=
  (cs.zipIdx).all (fun c => ((codeDy ty c.1).add
    (let o := codeDy ty (s.slotCode u slot prt i (32 * k + c.2)); ⟨-o.m, o.e⟩)).m == 0)

/-- A delta computation (R100): the state and the blocks skipped. -/
def runDelta (s : State) (tk tile slot colt : Nat) (b : Begun) : State × Nat :=
  let u := tk / 256
  let prt := (s.team tk).prt
  let key := s.slotKeyAt u slot prt
  let rows := (List.range b.m).map (fun i => (i, s.frozenRow tk slot b i))
  let skip := rows.foldl (fun a r => a + ((r.2.zipIdx).filter (fun q => s.sameBlock u slot prt r.1 q.2 b.g.ty q.1)).length) 0
  let s1 := rows.foldl (fun (s' : State) r =>
    let s2 := (List.range 256).foldl (fun (s' : State) j =>
      let y := s.deltaEl tk slot colt b r.1 j r.2
      (s'.putTile tk tile r.1 j y).putSlot u slot key (0x20000 + (r.1 * 256 + j) * 4) 4 y) s'
    (r.2.zipIdx).foldl (fun (s' : State) q =>
      if s.sameBlock u slot prt r.1 q.2 b.g.ty q.1 then s'
      else (q.1.zipIdx).foldl (fun (s' : State) c =>
        s'.putSlot u slot key (0x80000 + r.1 * 4096 + 32 * q.2 + c.2) 1 c.1) s') s2) s
  let s3 := s1.putSlot u slot key 14 1 (s.slotRead u slot prt 14 1 + 1)
  ((s3.bumpUreg u 0x80010 64 1).bumpUreg u 0x80020 64 skip, skip)

/-- Write a slot after a full computation (R101, R106).  What R101 does not list, such as rows `m` to 127, the model leaves zero
(log 30).  Nothing is written under a key that is not live (R391). -/
def refresh (s : State) (tk slot tag region colt : Nat) (b : Begun) (rows : List (List (Nat × List Nat)))
    (ys : List (List Nat)) : State :=
  let u := tk / 256
  let prt := (s.team tk).prt
  let world := (s.partition prt).secure
  let valid := (s.slotField u slot 0 1).testBit 0
  let nint0 := if valid then s.slotRead u slot prt 15 1 else s.slotField u slot 15 1
  let nint := if 1 ≤ nint0 && nint0 ≤ 64 && (!valid || s.slotOwned u slot prt world) then nint0 else 16
  let key := s.keyAt (slotSpa u slot) prt b.g.key
  let put := fun (s : State) (x : Nat × Nat × Nat) => s.putSlot u slot key x.1 x.2.1 x.2.2
  if key = 0 then s else
  let s0 := s.zeroSlot u slot
  let s1 := [(0, 1, 1 + (if world then 2 else 0)), (1, 1, prt + 16 * b.g.key), (2, 2, tag), (4, 4, b.g.version),
    (8, 1, region), (9, 1, slotType b.g.ty), (10, 1, b.m), (11, 1, colt), (12, 2, b.g.kx), (14, 1, 1), (15, 1, nint),
    (16, 8, (s.tickAt u).toNat)].foldl put s0
  let s2 := (rows.zipIdx).foldl (fun (s : State) r => (r.1.zipIdx).foldl (fun (s : State) q =>
    (q.1.2.zipIdx).foldl (fun (s : State) c => put s (0x80000 + r.2 * 4096 + 32 * q.2 + c.2, 1, c.1))
      (put s (0x1000 + r.2 * 128 + q.2, 1, q.1.1))) s) s1
  (ys.zipIdx).foldl (fun (s : State) r => (r.1.zipIdx).foldl (fun (s : State) y =>
    put s (0x20000 + (r.2 * 256 + y.2) * 4, 4, y.1)) s) s2

/-- A full computation (R101): rows from +0; the slot is written unless the kernel lacks DELTA (R99, reason 9). -/
def runFull (s : State) (tk tile slot tag region colt : Nat) (b : Begun) (write : Bool) : State :=
  let u := tk / 256
  let rows := (List.range b.m).map (fun i => s.rowQuant tk b i)
  let ys := rows.map (fun q => (List.range 256).map (fun j => s.accRow tk b.g (256 * colt + j) q 0))
  let wrote := write && s.keyAt (slotSpa u slot) (s.team tk).prt b.g.key != 0
  let s1 := if wrote then (s.refresh tk slot tag region colt b rows ys).bumpUreg u 0x80018 64 1 else s
  (ys.zipIdx).foldl (fun (s : State) r => (r.1.zipIdx).foldl (fun (s : State) y => s.putTile tk tile r.2 y.2 y.1) s) s1

end State

/-- DELTA_INVOCATION (R83, R90, R91, R95 to R103, R106, R286, R288, R296); a slot that a dead key leaves unwritten has a record
(R259, R391). -/
def execDeltaInvocation (tk : Nat) (s : State) : Out :=
  match s.toBegin tk 4 with
  | none => .next s
  | some e =>
    match e.cmd with
    | .prod (.delta full slot tag) sh am n g colt tile row0 ix =>
      (match s.beginProduct tk e none sh am n g colt row0 ix with
      | .inl c => .next (s.refuseCmd tk e c 0)
      | .inr b =>
        if b.m = 0 then .next (s.doneCmd tk e)
        else
          let why := s.reuseReason tk slot tag g colt full b
          let word := fun (skip : Nat) => BitVec.ofNat 32 ((if why = 0 then 1 else 0) + 2 * why + 256 * skip + 2 ^ 24 * slot)
          if why = 0 then
            let r := s.runDelta tk tile slot colt b
            .next (r.1.doneCmd tk { e with reuse := some (word r.2) })
          else
            let s1 := s.runFull tk tile slot tag g colt b (why != 9)
            let dead := why != 9 && s.keyAt (slotSpa (tk / 256) slot) (s.team tk).prt b.g.key == 0
            .next ((if dead then s1.cmdFault tk e .protection 0 else s1).doneCmd tk { e with reuse := some (word 0) }))
    | _ => .next s

/-! ### Tiles, `mslot` and RSCMD -/

/-- TILE_ZERO (R289). -/
def execTileZero (tk : Nat) (s : State) : Out :=
  match s.toBegin tk 4 with
  | some e =>
    match e.cmd with
    | .zero t => .next ((s.zeroBytes (s.tileEl tk t 0 0) 0x20000).doneCmd tk e)
    | _ => .next s
  | none => .next s

/-- SLOT_INVALIDATE (R103, R105, R290). -/
def execSlotInvalidate (tk : Nat) (s : State) : Out :=
  match s.toBegin tk 4 with
  | some e =>
    match e.cmd with
    | .slotInv n => .next ((s.zeroSlot (tk / 256) n).doneCmd tk e)
    | _ => .next s
  | none => .next s

/-- SLOT_NINT_WRITE (R103, R106, R290); under a key that is not live nothing is written, and a record says so (R259, R391). -/
def execSlotNintWrite (tk : Nat) (s : State) : Out :=
  match s.toBegin tk 4 with
  | some e =>
    match e.cmd with
    | .slotNint n v =>
      let u := tk / 256
      let prt := (s.team tk).prt
      let f := s.slotField u n 0 1
      let other := f.testBit 0 && f.testBit 1 != (s.partition prt).secure
      if v < 1 ∨ 64 < v then .next (s.refuseCmd tk e .scratchBounds 0)
      else if other then .next (s.doneCmd tk e)
      else if s.slotKeyAt u n prt = 0 then .next ((s.cmdFault tk e .protection 0).doneCmd tk e)
      else .next ((s.putSlot u n (s.slotKeyAt u n prt) 15 1 v).doneCmd tk e)
    | _ => .next s
  | none => .next s

namespace State

/-- RSSTAT.BUSY of a stack (R108). -/
def rsBusy (s : State) (u : Nat) : Bool := isStack u && (s.ureg u 0x80008).getLsbD 0

/-- A command of block 8 zeroises the slots it names and is busy until it completes (R105, R108). -/
def rscmd (s : State) (u : Nat) (slots : List Nat) : State :=
  if s.rsBusy u then s.setUreg u 0x80008 (s.ureg u 0x80008 ||| 2)
  else (slots.foldl (fun (s : State) n => s.zeroSlot u n) s).setUreg u 0x80008 (s.ureg u 0x80008 ||| 1)

/-- Slots whose OWNER is a partition, of one key or of every key, valid or not (R105). -/
def slotsOf (s : State) (u prt : Nat) (key : Option Nat) : List Nat :=
  (List.range 256).filter (fun n =>
    let o := s.slotField u n 1 1
    o % 8 == prt && (match key with | none => true | some k => o / 16 == k))

end State

/-- RSCMD_ONE, RSCMD_PART, RSCMD_KEY and RSCMD_ALL (R105, R108). -/
def execRscmdOne (u slot : Nat) (s : State) : Out := .next (s.rscmd u [slot % 256])
def execRscmdPart (u part : Nat) (s : State) : Out := .next (s.rscmd u (s.slotsOf u (part % 8) none))
def execRscmdKey (u part key : Nat) (s : State) : Out := .next (s.rscmd u (s.slotsOf u (part % 8) (some (key % 16))))
def execRscmdAll (u : Nat) (s : State) : Out := .next (s.rscmd u (List.range 256))

/-- RSCMD_INVALID (R108): a GO with a reserved KIND, or while BUSY, sets LOST. -/
def execRscmdInvalid (u kind : Nat) (s : State) : Out :=
  if 4 ≤ kind || s.rsBusy u then .next (s.setUreg u 0x80008 (s.ureg u 0x80008 ||| 2)) else .next s

/-- A command of block 8 completes: BUSY is 0 and DONE counts it (R108). -/
def State.rsDone (s : State) (u : Nat) : State :=
  let r := (s.ureg u 0x80008).toNat
  s.setUreg u 0x80008 (BitVec.ofNat 64 (r / 2 % 2 * 2 + 65536 * ((r / 65536 + 1) % 65536)))

/-- RSCMD_COMPLETE (R108). -/
def execRscmdComplete (u : Nat) (s : State) : Out := .next (if s.rsBusy u then s.rsDone u else s)

/-! ### Drains (R291 to R293) -/

/-- Pack codes of `w` bits, the first lowest (R84). -/
def packBits (w : Nat) : List Nat → Nat
  | [] => 0
  | c :: cs => c + 2 ^ w * packBits w cs

namespace State

/-- Tile rows of a drain, with the destination offset of each. -/
def drainRows (m : DMod) (dst : Nat) : List (Nat × Nat) :=
  (List.range m.rows.toNat).map (fun i => (m.row0.toNat + i, dst + i * (16 * m.rstride.toNat)))

/-- Any of the row ranges touches a stationary macro. -/
def drainStat (s : State) (tk n : Nat) (rows : List (Nat × Nat)) : Bool := rows.any (fun r => s.padStat tk r.2 n)

/-- Write bytes of a drain, each over whatever error lies there (R259). -/
def padStores (s : State) (tk : Nat) : Nat → List Byte → State
  | _, [] => s
  | off, b :: bs => (s.padStore tk off 1 b.toNat).padStores tk (off + 1) bs

/-- A drained value in FP32 or BF16 (R292). -/
def drainVal (bf : Bool) (x : Nat) : Nat := if bf then (convert .bf16 .rne false (fval .f32 x)).1 else x

/-- The FP32 addition of `mdrx` (R293). -/
def drainAdd (a b : Nat) : Nat := (fAdd .f32 ⟨.rne, false⟩ a b).1

end State

/-- DRAIN_BEGIN (R83, R92, R277, R291 to R293). -/
def execDrainBegin (tk : Nat) (s : State) : Out :=
  match s.toBegin tk 5 with
  | none => .next s
  | some e =>
    match e.cmd with
    | .drainN bf m tile dst =>
      let w := if bf then 2 else 4
      let cols := 32 * (m.cb.val + 1)
      let rows := State.drainRows m dst
      if s.drainStat tk (cols * w) rows then .next (s.refuseCmd tk e .stationaryAccess dst)
      else .next (((rows.foldl (fun (s : State) r => (List.range cols).foldl (fun (s : State) c =>
        s.padStore tk (r.2 + c * w) w (State.drainVal bf (s.getTile tk tile r.1 c))) s) s).evalWaits tk).doneCmd tk e)
    | .drainQ fmt m tile dst sdst =>
      let bytes := 4 * mxBits fmt
      let nb := m.cb.val + 1
      let rows := State.drainRows m dst
      if s.drainStat tk (nb * bytes) rows || s.padStat tk sdst (rows.length * nb) then
        .next (s.refuseCmd tk e .stationaryAccess dst)
      else .next (((rows.foldl (fun (s : State) r => (List.range nb).foldl (fun (s : State) b =>
        let q := quantBlock fmt ((List.range 32).map (fun c => fval .f32 (s.getTile tk tile r.1 (32 * b + c))))
        (s.padStores tk (r.2 + b * bytes) (leBytes bytes (packBits (mxBits fmt) q.2.1))).padStore tk
          (sdst + (r.1 - m.row0.toNat) * nb + b) 1 q.1) s) s).evalWaits tk).doneCmd tk e)
    | .drainX m tile dst idx =>
      let cols := 32 * (m.cb.val + 1)
      let all := (idx.zipIdx).filterMap (fun x => match x.1 with
        | some n => if m.row0.toNat + x.2 < 128 then some (m.row0.toNat + x.2, dst + n * (16 * m.rstride.toNat)) else none
        | none => none)
      let out := all.filter (fun r => !s.padIn tk r.2 (4 * cols))
      let rows := all.filter (fun r => s.padIn tk r.2 (4 * cols))
      if s.drainStat tk (4 * cols) rows then .next (s.refuseCmd tk e .stationaryAccess dst)
      else
        let s0 := match out with | [] => s | r :: _ => s.cmdFault tk e .scratchBounds r.2
        .next (((rows.foldl (fun (s : State) r => (List.range cols).foldl (fun (s : State) c =>
          s.padStore tk (r.2 + 4 * c) 4 (State.drainAdd (s.padPeek tk (r.2 + 4 * c) 4) (s.getTile tk tile r.1 c))) s)
          s0).evalWaits tk).doneCmd tk e)
    | _ => .next s

end Sys2Proof.Machine
end

