-- ==== Sys2Proof/Machine/Remote.lean ====
section
/-! DEFINITION. Remote memory (R25 to R27, R371 to R379): `rrd` and `rwr` (R271, R272), the sender's requests, the
target, rate entries; the servo (R380) and the fabric's links and domain (R9, R368 to R370). -/

namespace Sys2Proof.Machine

/-! ### Requests of a part -/

/-- The hub whose engine sends a part's requests: its own, or hub 0 for homes 0 to 7 and hub 1 for homes 8 to 15 (the
model's choice, log 21). -/
def hubOf (u : Nat) : Nat := if isHub u then u else unitPkg u * 32 + (if unitHome u < 8 then 16 else 17)

/-- Registers of block 7 of a hub (R379). -/
def rmAge (x : DWord) : Nat := (min 0xFFFFFF00 (max 1024 (x.toNat % 2 ^ 32)) + 255) / 256

/-- The firmware data of the hub 0 reserve (R16), and in it a partition's descriptor, peer table and windows (log 32). -/
def firmwareData : Nat := unitBase 16 + 0x02FFE0000000
def descSpa (prt : Nat) : Nat := firmwareData + prt * 0x1000
def peerSpa (prt n : Nat) : Nat := firmwareData + 0x100000 + prt * 0x20000 + n * 32
def winSpa (prt n : Nat) : Nat := firmwareData + 0x200000 + prt * 0x20000 + n * 32

namespace State

/-- Entry `n` of a partition's peer table (R26, R379): byte 0 bit 0 valid, bytes 2 and 3 the port, 4 to 7 the key, 16 to 31
the address (log 32). -/
def peer (s : State) (prt n : Nat) : Peer :=
  let a := peerSpa prt n
  ⟨(s.byte a).getLsbD 0, BitVec.ofNat 128 (s.peek (a + 16) 16), BitVec.ofNat 16 (s.peek (a + 2) 2),
    BitVec.ofNat 32 (s.peek (a + 4) 4)⟩

/-- Window `n` of a partition (R27, R379): byte 0 valid and the read and write permits, bytes 4 to 7 the key, 8 to 15 the
base, 16 to 19 the length (log 32). -/
def win (s : State) (prt n : Nat) : Win :=
  let a := winSpa prt n
  ⟨(s.byte a).getLsbD 0, BitVec.ofNat 64 (s.peek (a + 8) 8 / 65536 * 65536), s.peek (a + 16) 4, (s.byte a).getLsbD 1,
    (s.byte a).getLsbD 2, BitVec.ofNat 32 (s.peek (a + 4) 4)⟩

def remote (s : State) (k : Nat) : Option Remote := Store.get none s.net.remotes k
def setRemote (s : State) (k : Nat) (r : Option Remote) : State :=
  { s with net := { s.net with remotes := Store.set none s.net.remotes k r } }

/-- Requests outstanding at a package. -/
def pkgRemotes (s : State) (k : Nat) : List Remote :=
  (s.net.remotes.filterMap Prod.snd).filter (fun r => unitPkg r.hub == k)

/-- A free request slot of a package, within the partition's share RMSLOTS (R371, R383). -/
def freeReq (s : State) (pkg prt : Nat) : Option Nat :=
  let rs := s.pkgRemotes pkg
  if fieldOf (s.partition prt).desc 2 2 ≤ (rs.filter (fun r => r.prt == prt)).length then none
  else (List.range 4096).find? (fun n => !rs.any (fun r => r.slot == n))

/-- Lanes of a part that are in an outstanding read request. -/
def remoteLanes (s : State) (pid : Nat) : List Nat :=
  s.net.remotes.flatMap (fun e => match e.2 with
    | some r => if r.pid == pid && !r.wr then r.lanes.map Prod.fst else []
    | none => [])

end State

/-- Group lanes by peer and window (R373): address divided by 2⁴⁰, lanes in ascending order. -/
def groupRemote : List (Nat × DWord × DWord) → List (Nat × List (Nat × DWord × DWord))
  | [] => []
  | x :: xs =>
    let g := groupRemote xs
    let k := x.2.1.toNat / 2 ^ 40
    match g.find? (fun e => e.1 == k) with
    | some e => (k, x :: e.2) :: g.filter (fun y => y.1 != k)
    | none => (k, [x]) :: g

/-- What every request of an instruction shares. -/
structure RmReq where
  wr : Bool
  dst : Opnd
  t : IType
  deriving DecidableEq, Repr

namespace State

/-- Form the requests of an instruction's lanes (R271, R272, R373): one slot for each peer and window; a group for which
no slot, or no further posted home, is free is left.  The lanes formed are returned. -/
def formRemotes (s : State) (pid : Nat) (q : RmReq) :
    List (Nat × List (Nat × DWord × DWord)) → State × List Nat
  | [] => (s, [])
  | (k, ls) :: rest =>
    let p := s.part pid
    let hub := hubOf p.unit
    let homes := (s.outHomes pid ++ [hub]).eraseDups
    match (if q.wr && 16 < homes.length then none else s.freeReq (unitPkg hub) p.prt) with
    | none => s.formRemotes pid q rest
    | some slot =>
      let r : Remote := {
        pid := pid, team := p.team, sq := p.sq, pc := p.pc, prt := p.prt, hub := hub, slot := slot
        gen := Store.get 0 s.net.gens (unitPkg hub * 4096 + slot)
        wr := q.wr, dst := q.dst, t := q.t, peer := k / 4096, win := k % 4096, ent := s.peer p.prt (k / 4096)
        lat := p.lat, age := rmAge (s.ureg hub 0x70000)
        lanes := ls.map (fun l => (l.1, BitVec.ofNat 64 (l.2.1.toNat % 2 ^ 40), l.2.2))
        sends := 0, first := s.tickAt hub, lastSend := 0, rto := (s.ureg hub 0x70010).toNat, preq := s.ids }
      let s1 := if q.wr then s.postReq pid p hub .rwr p.pc [⟨0, 0, 0, none, ls.map (fun l => (l.1, l.2.2)), 0⟩] else s
      let x := (({ s1 with ids := s.ids + 2 } : State).setRemote (s.ids + 1) (some r)).formRemotes pid q rest
      (x.1, ls.map Prod.fst ++ x.2)

/-- Form requests for lanes of a part and note them in its sample record (R271, R272, R401). -/
def formLanes (s : State) (pid : Nat) (q : RmReq) (ls : List (Nat × DWord × DWord)) : State × List Nat :=
  let p := s.part pid
  let r := s.formRemotes pid q (groupRemote ls)
  let peer := fun (l : Nat) => (p.mi.addr l).toNat / 2 ^ 52
  ((r.2.map peer).eraseDups.foldl (fun (s : State) h =>
    s.sampleLanes pid h ((r.2.filter (fun l => peer l == h)).map (fun l => (l, (p.mi.addr l).toNat)))) r.1, r.2)

/-- Form requests for the lanes of an `rrd` that have none; a lane for which no slot is free waits (R271). -/
def formReads (s : State) (pid : Nat) (d : Opnd) (t : IType) : State :=
  let p := s.part pid
  let out := s.remoteLanes pid
  (s.formLanes pid ⟨false, d, t⟩
    (((lanesOf p.umask).filter (fun l => !out.contains l)).map (fun l => (l, p.mi.addr l, (0 : DWord))))).1

/-- Form requests for the waiting lanes of a package's parts (R271); a frozen part issues nothing (R357). -/
def formWaiting (s : State) (pkg : Nat) : State :=
  s.parts.foldl (fun (s : State) e =>
    match e.2.st with
    | .blocked (.remote d t) _ =>
      if unitPkg e.2.unit == pkg && !(s.team e.2.team).frozen then s.formReads e.1 d t else s
    | _ => s) s

/-- Free a slot with its generation advanced (R373); waiting lanes may take it. -/
def freeRemote (s : State) (k : Nat) (r : Remote) : State :=
  let i := unitPkg r.hub * 4096 + r.slot
  let s1 := s.setRemote k none
  ({ s1 with net := { s1.net with gens := Store.set 0 s1.net.gens i ((Store.get 0 s1.net.gens i + 1) % 2 ^ 20) } } :
    State).formWaiting (unitPkg r.hub)

/-- The first issue of `rrd` or `rwr`: addresses, and the checks of R26 and R258 on each lane. -/
def latchRemote (s : State) (pid : Nat) (act : Mask) (a : Opnd) (disp : Word) (w op : Nat) (flags : BitVec 16) : State :=
  let p := s.part pid
  if p.mi.on then s
  else
    let as := (lanesOf act).map (fun l => (l, laneAddr p a disp l))
    let bad := as.filterMap (fun x =>
      if x.2.toNat % w ≠ 0 then some (x.1, Cause.misaligned, x.2)
      else if !(s.peer p.prt (x.2.toNat / 2 ^ 52)).v then some (x.1, Cause.protection, x.2)
      else none)
    (s.latch pid act as op flags).mapPart pid (fun p => { p with
      mi := { p.mi with fails := bad }
      umask := maskOf (fun l => act.getLsbD l && !bad.any (fun b => b.1 == l)) })

/-- The trap of an `rrd` (R271): the cause of the lowest lane that failed at issue, then REMOTE_FAULT, then
REMOTE_TIMEOUT; every failed lane. -/
def remoteTrap (s : State) (pid : Nat) : State :=
  let fs := (s.part pid).mi.fails
  let early := fs.filter (fun f => f.2.1 == .misaligned || f.2.1 == .protection)
  let lo := early.foldl (fun (a : Option (Nat × Cause)) f =>
    match a with
    | none => some (f.1, f.2.1)
    | some b => if f.1 < b.1 then some (f.1, f.2.1) else a) none
  let c := match lo with
    | some b => b.2
    | none => if fs.any (fun f => f.2.1 == .remoteFault) then .remoteFault else .remoteTimeout
  (s.mapPart pid (fun p => { p with lastIssue := s.cyc })).trapAt pid c (maskOf (fun l => fs.any (fun f => f.1 == l)))
    (fs.map (fun f => (f.1, f.2.2)))

/-- An `rrd` whose lanes have all settled ends: the part continues, or traps (R271). -/
def finishRemote (s : State) (pid : Nat) : State :=
  let p := s.part pid
  match p.st with
  | .blocked (.remote _ _) _ =>
    if !p.live || p.umask != 0 || (s.team p.team).frozen then s
    else if p.mi.fails.isEmpty then
      (s.sampleDone pid false []).mapPart pid (fun p => p.awake s.cyc (p.pc + 1))
    else s.remoteTrap pid
  | _ => s

end State

/-- `rrd` (R25, R26, R271): the part is BLOCKED until every lane has settled. -/
def execRrd (h : Hdr) (t : IType) (d a : Opnd) (disp : Word) (s : State) : Out :=
  issueM h [(a, true)] [(d, t.w == .w64)] true (fun _ => false)
    (fun s _ act =>
      let s1 := s.latchRemote s.cur act a disp (widthBytes t.w) 0x1C9 16
      let q := s1.part s.cur
      if q.umask ≠ 0 then .stay ((s1.formReads s.cur d t).block s.cur (.remote d t))
      else if q.mi.fails.isEmpty then .done (s1.sampleDone s.cur false [])
      else .stay (s1.remoteTrap s.cur)) s

/-- `rwr` (R25, R26, R272). -/
def execRwr (h : Hdr) (w : Width) (a b : Opnd) (disp : Word) (s : State) : Out :=
  let w64 := w == .w64
  let n := widthBytes w
  issueM h [(a, true), (b, w64)] [] false (fun _ => false)
    (fun s _ act =>
      let s1 := s.latchRemote s.cur act a disp n 0x1CA 17
      let q := s1.part s.cur
      let ls := (lanesOf q.umask).map (fun l =>
        (l, q.mi.addr l, BitVec.ofNat 64 (q.val 0 w64 b l % 2 ^ (8 * n))))
      let r := s1.formLanes s.cur ⟨true, .i false, ⟨w, false⟩⟩ ls
      let mine := (r.1.fab.posted.filter (fun e => match e.2 with
        | some x => x.kind == .rwr && x.pid == s.cur && decide (s1.ids ≤ e.1)
        | none => false)).map Prod.fst
      let s2 := r.1.mapPart s.cur (fun q => { q with
        umask := maskOf (fun l => q.umask.getLsbD l && !r.2.contains l)
        sample := q.sample.map (fun x => { x with reqs := x.reqs ++ mine }) })
      if r.2.length < ls.length then .stay s2
      else if q.mi.fails.isEmpty then
        .done (s2.sampleDone s.cur false ((((s2.part s.cur).sample.map Samp.reqs).getD []).filter (fun k => (s2.preq k).isSome)))
      else s2.failTrap s.cur q.mi.fails) s

/-! ### Datagrams (R372) -/

/-- The header of a datagram. -/
def dgHead (op flags width : Nat) (key : Word) (reqid w mask : Nat) (tick : Nat) (done refused rcause age : Nat) :
    List Byte :=
  leBytes 1 1 ++ leBytes 1 op ++ leBytes 1 flags ++ leBytes 1 width ++ leBytes 4 key.toNat ++ leBytes 4 reqid ++
    leBytes 2 w ++ leBytes 2 mask ++ leBytes 8 tick ++ leBytes 2 done ++ leBytes 2 refused ++ leBytes 1 rcause ++
    leBytes 3 age

/-- WIDTH code (R173). -/
def widthCode : Width → Nat
  | .w32 => 0 | .w8 => 1 | .w16 => 2 | .w64 => 3

def Remote.mask (r : Remote) : Mask := maskOf (fun l => r.lanes.any (fun x => x.1 == l))

namespace State

/-- ADDR and UPORT of a partition (R382). -/
def partAddr (s : State) (prt : Nat) : BitVec 128 := BitVec.ofNat 128 (fieldOf (s.partition prt).desc 16 16)
def partPort (s : State) (prt : Nat) : BitVec 16 := BitVec.ofNat 16 (fieldOf (s.partition prt).desc 32 2)

/-- The datagram of a request at a tick (R372, R378). -/
def reqDgram (s : State) (r : Remote) : Dgram :=
  { addr := s.partAddr r.prt
    uport := s.partPort r.prt
    toAddr := r.ent.addr
    toPort := r.ent.uport
    port := Config.portHash r.ent.addr r.ent.uport % 8
    dscp := BitVec.ofNat 6 (fieldOf (s.partition r.prt).desc (if r.lat then 5 else 6) 1)
    ce := false
    payload := dgHead (if r.wr then 2 else 1) (if r.lat then 2 else 0) (widthCode r.t.w) r.ent.key
        (r.slot + 4096 * r.gen) r.win r.mask.toNat (s.tickAt r.hub).toNat 0 0 0 r.age ++
      r.lanes.flatMap (fun l => leBytes 8 l.2.1.toNat ++ leBytes 8 l.2.2.toNat) }

/-! ### Rate entries (R378) -/

def rateHit (r : Remote) (x : Rate) : Bool := x.hub == r.hub && x.prt == r.prt && x.addr == r.ent.addr && x.lat == r.lat

/-- The rate entry of a request: held, free within the partition's share, or in place of the least recently used. -/
def rateFor (s : State) (r : Remote) : Option (Rate × List Rate) :=
  match s.net.rates.find? (rateHit r) with
  | some x => some (x, s.net.rates.filter (fun y => !rateHit r y))
  | none =>
    let mine := s.net.rates.filter (fun y => y.hub == r.hub && y.prt == r.prt)
    let cap := fieldOf (s.partition r.prt).desc 4 1
    let x : Rate := ⟨r.hub, r.prt, r.ent.addr, r.lat, 200000000000, 0, 0, (s.tickAt r.hub).toNat, false⟩
    if cap = 0 then none
    else if mine.length < cap then some (x, s.net.rates)
    else some (x, s.net.rates.filter (fun y => some y != mine.getLast?))

/-- Ticks that `n` bytes take at a rate in bit/s, at 1.9 GHz. -/
def rateTicks (n rate : Nat) : Nat := n * 8 * 1900000000 / max 1 rate

/-- The servo of a hub is locked (R381). -/
def locked (s : State) (hub : Nat) : Bool := (s.ureg hub 0x80000).getLsbD 0

/-- A re-run of the partition's capture is in progress (R419). -/
def rerunning (s : State) (prt : Nat) : Bool := (Store.get Replay.none s.dbg.replay prt).rerun != 0

/-- Key of an Ethernet port and traffic class of a package (R371, R378): ports 0 to 7. -/
def portKey (hub port : Nat) (lat : Bool) : Nat := (unitPkg hub * 8 + port % 8) * 2 + lat.toNat

/-- Transmit a request, unless the hub is not locked, its rate entry or its port's line rate of 1.6 Tb/s does not allow it (R373,
R378), the partition has no slots of the ports (R387), or it is a read in a re-run, which takes its recorded data (R419). -/
def transmit (s : State) (k : Nat) (r : Remote) : State :=
  match s.rateFor r with
  | none => s
  | some (x, others) =>
    let g := s.reqDgram r
    let port := portKey r.hub g.port r.lat
    if !s.locked r.hub || decide ((s.tickAt r.hub).toNat < x.readyAt) || (!r.wr && s.rerunning r.prt) ||
        decide ((s.tickAt r.hub).toNat < Store.get 0 s.net.portAt port) || !s.ownsSlot r.hub 16 r.prt then s
    else
      let x1 := { x with readyAt := (s.tickAt r.hub).toNat + rateTicks g.payload.length x.rate }
      let r1 := { r with
        sends := r.sends + 1
        first := if r.sends = 0 then s.tickAt r.hub else r.first
        lastSend := s.tickAt r.hub
        rto := if r.sends = 0 then r.rto else min (2 * r.rto) (4 * (s.ureg r.hub 0x70010).toNat) }
      let s1 := s.setRemote k (some r1)
      { s1 with net := { s1.net with
        rates := x1 :: others
        portAt := Store.set 0 s1.net.portAt port ((s.tickAt r.hub).toNat + rateTicks g.payload.length 1600000000000)
        wire := s1.net.wire ++ [g] } }

/-- The tick at which a request times out (R373). -/
def remoteEnd (s : State) (r : Remote) : Nat := r.first.toNat + (s.ureg r.hub 0x70008).toNat

end State

/-- REMOTE_SEND (R373, R378): the first transmission of a request. -/
def execRemoteSend (rid : Nat) (s : State) : Out :=
  match s.remote rid with
  | some r => if r.sends = 0 && decide ((s.tickAt r.hub).toNat < s.remoteEnd r) then .next (s.transmit rid r) else .next s
  | none => .next s

/-- REMOTE_RETRANSMIT (R373): the interval has passed with no reply. -/
def execRemoteRetransmit (rid : Nat) (s : State) : Out :=
  match s.remote rid with
  | some r =>
    let now := (s.tickAt r.hub).toNat
    if 0 < r.sends && decide (r.lastSend.toNat + r.rto ≤ now) && decide (now < s.remoteEnd r) then
      .next (s.transmit rid r)
    else .next s
  | none => .next s

/-! ### Settling lanes (R271, R272, R373) -/

/-- The remote address of a lane of a request. -/
def Remote.va (r : Remote) (woff : DWord) : DWord := BitVec.ofNat 64 (r.peer * 2 ^ 52 + r.win * 2 ^ 40 + woff.toNat)

namespace State

/-- Lanes of an `rrd` settle: with data, or with a cause. -/
def settleReads (s : State) (r : Remote) (vals : List (Nat × Nat)) (bad : List Nat) (c : Cause) : State :=
  let p := s.part r.pid
  if !p.live then s
  else
    let ok := maskOf (fun l => vals.any (fun v => v.1 == l))
    let value := fun l => ((vals.find? (fun v => v.1 == l)).map Prod.snd).getD 0
    let q := (p.run ok r.dst (r.t.w == .w64) (fun l => (extend r.t (value l), 0)))
    let q := if vals.isEmpty then q else q.undead [(r.dst, r.t.w == .w64)]
    let lanes := vals.map Prod.fst ++ bad
    (s.setPart r.pid { q with
      sample := q.sample.map (fun x => { x with last := lanes.foldl max 0 })
      umask := maskOf (fun l => q.umask.getLsbD l && !lanes.contains l)
      mi := { q.mi with fails := q.mi.fails ++ bad.map (fun l => (l, c, q.mi.addr l)) } }).finishRemote r.pid

/-- An `rwr` request is acknowledged, or its failed lanes become one posted fault record (R272, R345, R373). -/
def settleWrite (s : State) (r : Remote) (bad : List Nat) (c : Cause) : State :=
  match s.preq r.preq with
  | none => s
  | some q =>
    if bad.isEmpty then s.acknowledge [(r.preq, q)]
    else
      let m := maskOf (fun l => bad.contains l)
      let va := ((r.lanes.find? (fun l => bad.contains l.1)).map (fun l => r.va l.2.1)).getD 0
      (s.setPreq r.preq (some { q with phase := .performed, doneAt := s.cycAt r.hub, viaRec := true })).post
        (.frec r.team ⟨0, 0, s.tickAt r.hub, va, r.pc, m, r.sq, causeCode c, 2, false⟩ (some r.preq) (some r.pid))

/-- A request has ended: the lifetime its copies keep alive (R377), and its slot. -/
def endRemote (s : State) (k : Nat) (r : Remote) : State :=
  let s1 := s.freeRemote k r
  let owners := match s.preq r.preq with
    | some q => q.owners
    | none => [r.pid]
  if r.sends < 2 then s1
  else owners.foldl (fun (s : State) pid => s.mapPart pid (fun p => if p.live then
    { p with rmHold := max p.rmHold (r.lastSend.toNat + 256 * r.age) } else p)) s1

end State

/-- The timeout of a request has come (R359, R373). -/
def State.timedOut (s : State) (r : Remote) : Bool :=
  decide (s.remoteEnd r ≤ (s.tickAt r.hub).toNat) && (r.wr || !(s.team r.team).frozen) && !s.pkgStopped (unitPkg r.hub)

/-- REMOTE_TIMEOUT (R271, R359, R373): at t0 + RMTOUT every lane not yet settled fails. -/
def execRemoteTimeout (rid : Nat) (s : State) : Out :=
  match s.remote rid with
  | some r =>
    let bad := r.lanes.map Prod.fst
    if !s.timedOut r then .next s
    else if r.wr then .next ((s.endRemote rid r).settleWrite r bad .remoteTimeout)
    else .next ((s.endRemote rid r).settleReads r [] bad .remoteTimeout)
  | none => .next s

/-- Count a discarded datagram (R379 RMDISC). -/
def State.discard (s : State) (hub : Nat) : State := s.bumpUreg hub 0x70020 32 1

/-- The request a reply names: its slot and generation at the hub's package. -/
def State.findRemote (s : State) (hub reqid : Nat) : Option (Nat × Remote) :=
  s.net.remotes.findSome? (fun e => match e.2 with
    | some r => if unitPkg r.hub == unitPkg hub && r.slot == reqid % 4096 && r.gen == reqid / 4096 then some (e.1, r) else none
    | none => none)

/-- The rate entry after a reply (R378): × 7/8 on ECE at most once per 16 µs (30,400 ticks). -/
def State.heardReply (s : State) (r : Remote) (ece : Bool) : State :=
  { s with net := { s.net with rates := s.net.rates.map (fun x =>
      if !State.rateHit r x then x
      else if !ece then { x with heard := true }
      else if (s.tickAt r.hub).toNat < x.cutAt then { x with quietAt := (s.tickAt r.hub).toNat, heard := false }
      else { x with rate := max 1000000000 (x.rate * 7 / 8), cutAt := (s.tickAt r.hub).toNat + 30400
                    quietAt := (s.tickAt r.hub).toNat, heard := false }) } }

/-- Settle the lanes of a request with a reply's payload; a read's reply goes to the capture log (R373, R417). -/
def State.takeReply (s : State) (r : Remote) (bs : List Byte) : State :=
  let done := (lanesOf (BitVec.ofNat 16 (fieldOf bs 24 2))).filter (fun l => r.lanes.any (fun x => x.1 == l))
  let bad := (r.lanes.map Prod.fst).filter (fun l => !done.contains l)
  if r.wr then s.settleWrite r bad .remoteFault
  else (s.capture r.prt (.reply s.tick bs)).settleReads r
    ((done.zipIdx).map (fun x => (x.1, fieldOf bs (32 + 8 * x.2) 8))) bad .remoteFault

/-- REMOTE_REPLY (R372, R373): lanes in DONE settle with their data, lanes in REFUSED fail; the slot is freed.  A reply to a
read of a frozen team is discarded (R359), and one that comes after the timeout. -/
def execRemoteReply (hub : Nat) (g : Dgram) (s : State) : Out :=
  let f := fieldOf g.payload
  if f 0 1 ≠ 1 ∨ f 1 1 < 3 ∨ 5 < f 1 1 then .next (s.discard hub)
  else
    match s.findRemote hub (f 8 4) with
    | none => .next (s.discard hub)
    | some (k, r) =>
      if !r.wr && (s.team r.team).frozen then .next s
      else if s.remoteEnd r ≤ (s.tickAt r.hub).toNat then .next (s.discard hub)
      else .next (((s.endRemote k r).heardReply r ((f 2 1).testBit 0)).takeReply r g.payload)

/-- RATE_INCREASE (R378): 32 µs (60,800 ticks) with replies and no ECE. -/
def execRateIncrease (hub : Nat) (addr : BitVec 128) (lat : Bool) (s : State) : Out :=
  .next { s with net := { s.net with rates := s.net.rates.map (fun x =>
    if x.hub == hub && x.addr == addr && x.lat == lat && x.heard && decide (x.quietAt + 60800 ≤ (s.tickAt hub).toNat) then
      { x with rate := min 1600000000000 (x.rate + 25000000000), quietAt := (s.tickAt hub).toNat, heard := false }
    else x) } }

/-! ### The target (R27, R374 to R376) -/

namespace State

/-- A walk for an access from outside a core: A is set at the leaf, and D when the write passes its checks (R36); a page with
N = 1 passes them for a remote write, not for the control window (`n1`, R366). -/
def walkMark (s : State) (u prt va : Nat) (wr n1 : Bool) : State × Walk :=
  match s.walkAll u prt va with
  | .leaf lvl a pte e =>
    let d : DWord := if wr && e.getLsbD 1 && s.spaOk prt a && (n1 || !e.getLsbD 12) then 1024 else 0
    let e1 := e ||| 512 ||| d
    (if e1 = e then s else (s.pokeK (s.keyAt pte prt 0) pte 8 e1.toNat).noteWrite prt none pte, .leaf lvl a pte e1)
  | w => (s, w)

/-- One lane at the target (R27, R375): the cause of a refusal, or the value read. -/
def targetLane (s : State) (hub prt : Nat) (x : Win) (wr : Bool) (n woff data : Nat) : State × Sum Nat Nat :=
  if !(if wr then x.wr else x.rd) then (s, .inl 3)
  else if x.len * 65536 < woff + n then (s, .inl 4)
  else
    let va := (x.base.toNat + woff) % 2 ^ 64
    let m := s.walkMark hub prt va wr true
    match m.2 with
    | .leaf _ a _ e =>
      let key := m.1.keyAt a prt (bitsOf e.toNat 8 5)
      if (wr && !e.getLsbD 1) || !m.1.spaOk prt a then (m.1, .inl 5)
      else if !wr && e.getLsbD 12 then (m.1, .inl 6)
      else if key == 0 then (m.1, .inl 7)
      else if wr then
        ((m.1.storeFor prt none key a n data).capture prt (.inbound s.tick va (leBytes n data)), .inr 0)
      else if Store.get false m.1.ecc (a / 32) then (m.1, .inl 6)
      else ({ m.1 with ctr := m.1.ctr + 1 }, .inr (m.1.peekK key a n))
    | _ => (m.1, .inl 5)

/-- The lanes of a request in ascending order: lane and value, or lane, cause and offset. -/
def targetLanes (s : State) (hub prt whole : Nat) (x : Win) (wr : Bool) (n : Nat) (body : List Byte) :
    List Nat → Nat → State × List (Nat × Nat) × List (Nat × Nat × Nat)
  | [], _ => (s, [], [])
  | l :: ls, i =>
    let woff := fieldOf body (16 * i) 8
    let r := if whole ≠ 0 then (s, Sum.inl whole) else s.targetLane hub prt x wr n woff (fieldOf body (16 * i + 8) n)
    let t := r.1.targetLanes hub prt whole x wr n body ls (i + 1)
    match r.2 with
    | .inl c => (t.1, t.2.1, (l, c, woff) :: t.2.2)
    | .inr v => (t.1, (l, v) :: t.2.1, t.2.2)

/-- Write an inbound fault record to a hub's queue, or count it dropped; firmware forwards it to the partition (R365,
R376, log 23). -/
def inboundRecord (s : State) (hub prt : Nat) (bs : List Byte) : State :=
  let ptr := (s.ureg hub 0x70018).toNat
  let n := Store.get 0 s.net.rifCount hub
  let tail := bitsOf ptr 15 8
  if 256 ≤ n then
    s.setUreg hub 0x70018 (BitVec.ofNat 64 (ptr % 65536 + 65536 * min 65535 (ptr / 65536 + 1)))
  else
    let s1 := (s.setUregBytes hub (0x71000 + 48 * tail) bs 6).setUreg hub 0x70018
      (BitVec.ofNat 64 (ptr - 256 * tail + 256 * ((tail + 1) % 256)))
    (({ s1 with net := { s1.net with rifCount := Store.set 0 s1.net.rifCount hub (n + 1) } } : State).mailOut (prt + 1)
      (leBytes 2 3 ++ leBytes 2 48 ++ leBytes 4 0 ++ bs)).msixOut (prt + 1) 1

end State

/-- REMOTE_REQUEST_RECEIVE (R27, R372, R374 to R376). -/
def execRemoteRequestReceive (hub : Nat) (g : Dgram) (s : State) : Out :=
  let f := fieldOf g.payload
  let op := f 1 1
  let gap := ((s.tickAt hub).toNat : Int) - f 16 8
  match (List.range 8).find? (fun n => (s.partition n).ex && s.partAddr n == g.toAddr && s.partPort n == g.toPort) with
  | none => .next (s.discard hub)
  | some prt =>
    if f 0 1 ≠ 1 ∨ (op ≠ 1 ∧ op ≠ 2) ∨ !s.locked hub ∨ 256 * (f 29 3 : Int) - 128 ≤ gap ∨ gap < -128 then
      .next (s.discard hub)
    else
      let wr := op == 2
      let x := s.win prt (f 12 2 % 4096)
      let whole := if !x.v then 1 else if x.key.toNat ≠ f 4 4 then 2 else 0
      let n := match f 3 1 % 4 with | 0 => 4 | 1 => 1 | 2 => 2 | _ => 8
      let r := s.targetLanes hub prt whole x wr n (g.payload.drop 32) (lanesOf (BitVec.ofNat 16 (f 14 2))) 0
      let done := maskOf (fun l => r.2.1.any (fun v => v.1 == l))
      let refused := maskOf (fun l => r.2.2.any (fun v => v.1 == l))
      let first := r.2.2.headD (0, 0, 0)
      let rep := if r.2.2.isEmpty then (if wr then 4 else 3) else 5
      let body := if wr then [] else r.2.1.flatMap (fun v => leBytes 8 v.2)
      let reply : Dgram := { g with
        addr := g.toAddr
        uport := g.toPort
        toAddr := g.addr
        toPort := g.uport
        ce := false
        payload := dgHead rep ((if g.ce then 1 else 0) + f 2 1 / 2 % 2 * 2) (f 3 1) (BitVec.ofNat 32 (f 4 4)) (f 8 4)
          (f 12 2) (f 14 2) (f 16 8) done.toNat refused.toNat first.2.1 (f 29 3) ++ body }
      let s1 : State := { r.1 with net := { r.1.net with wire := r.1.net.wire ++ [reply] } }
      if r.2.2.isEmpty then .next s1
      else .next (s1.inboundRecord hub prt (leBytes 8 (s.tickAt hub).toNat ++ leBytes 16 g.addr.toNat ++
        leBytes 2 g.uport.toNat ++ leBytes 2 (f 12 2 % 4096) ++ leBytes 1 prt ++ leBytes 1 first.2.1 ++ leBytes 1 op ++ leBytes 1 0 ++
        leBytes 8 (first.2.2 / 65536 * 65536) ++ leBytes 8 0))

/-! ### Time (R380, R381) -/

namespace State

def anyPartition (s : State) : Bool := (List.range 8).any (fun n => (s.partition n).ex)

/-- Hubs of the domain, in the order of the packages. -/
def hubs (s : State) : List Nat := s.domain.flatMap (fun k => [k * 32 + 16, k * 32 + 17])

end State

/-- PTP_SYNC (R380, R381): the last offset, the slew, LOCK, LOST and the interrupt of a change; a step forward only while no
partition exists (log 22). -/
def execPtpSync (offset : Int) (s : State) : Out :=
  let run := if -16 ≤ offset ∧ offset ≤ 16 then s.net.syncRun + 1 else 0
  let was := s.locked 16
  let now := if offset < -64 ∨ 64 < offset then false else if 16 ≤ run then true else was
  let s1 : State := { s with
    net := { s.net with
      syncRun := run
      slew := if offset < -100 then 100 else if 100 < offset then -100 else -offset }
    tick := if offset < -64 && !s.anyPartition then s.tick + BitVec.ofInt 64 (-offset) else s.tick }
  let s2 := s1.hubs.foldl (fun (s : State) h =>
    let x := (s.ureg h 0x80000).toNat
    s.setUreg h 0x80000 (BitVec.ofNat 64 ((if now then 1 else 0) + (if (was && !now) || x.testBit 1 then 2 else 0)))) s1
  let s3 := s2.setUreg 16 0x80008 (BitVec.ofNat 64 (BitVec.ofInt 32 offset).toNat)
  .next (if was == now then s3 else s3.irq 16 .servo)

/-! ### Links and the domain (R9, R70, R368 to R370) -/

/-- LINK_RETRANSMISSION (R70, R370): RETRY of the port counts up, saturating. -/
def execLinkRetransmission (u port : Nat) (s : State) : Out :=
  let off := 0x30000 + 0x40 * (port % 8)
  let x := (s.ureg u off).toNat
  if isHub u then .next (s.setUreg u off (BitVec.ofNat 64 (x % 65536 + 65536 * min 65535 (x / 65536 + 1)))) else .next s

end Sys2Proof.Machine
end

