-- ==== Sys2Proof/Machine/Faults.lean ====
section
/-! DEFINITION. Posted fault records, notices and the deferred trap (R344 to R352), context loss and restart (R353 to
R356), pre-emption and resume (R357 to R361). -/

namespace Sys2Proof.Machine

/-! ### The fault collector (R348, R350) -/

/-- A wait that a record of an engine command ends (R350). -/
def Wake.endedByRecord : Wake → Bool
  | .chunks _ _ => true
  | .held _ _ _ _ => true
  | .cmds _ _ => true
  | .stage _ _ _ => true
  | .phase _ _ bw => bw
  | _ => false

def PState.endedByRecord : PState → Bool
  | .blocked w _ => w.endedByRecord
  | _ => false

/-- The lowest lane of a mask, 16 when it is empty. -/
def lowLane (m : Mask) : Nat := (lanesOf m).headD 16

/-- The part with the lowest lane. -/
def lowestPart (ps : List (Nat × Part)) : Option (Nat × Part) :=
  ps.foldl (fun (a : Option (Nat × Part)) e =>
    match a with
    | none => some e
    | some b => if lowLane e.2.amask < lowLane b.2.amask then some e else a) none

namespace State

/-- A record is assigned to a part BLOCKED at a wait: its DEFER count rises and it becomes READY at the waiting
instruction (R350); a held frame waits to enter the arrival queue, and a frozen part for the end of the freeze (R357). -/
def wakeForRecord (s : State) (pid : Nat) : State :=
  let p := s.part pid
  let q := { p with defer := p.defer + 1, recWake := true }
  match p.st with
  | .blocked (.held _ _ _ (some _)) _ => s.setPart pid q
  | _ => s.setPart pid (if (s.team p.team).frozen then q else q.again s.cyc)

/-- The collector stores a record in the lowest free slot of 64 (log 39), or counts it dropped (R348). -/
def storeRecord (s : State) (tk : Nat) (r : FRec) : State :=
  let t := s.team tk
  match (List.range 64).find? (fun n => !t.recs.any (fun x => x.slot == n)) with
  | some n => s.setTeam tk { t with
      recs := t.recs ++ [{ r with slot := n, order := t.recOrder }]
      recOrder := t.recOrder + 1 }
  | none => s.setTeam tk { t with
      drops := Store.set 0 t.drops r.sq (min 255 (Store.get 0 t.drops r.sq + 1))
      dropTotal := min 255 (t.dropTotal + 1) }

/-- A stored record of an engine command goes to the BLOCKED part of its squad with the lowest lane (R350). -/
def assignRecord (s : State) (tk : Nat) (r : FRec) : State :=
  let t := s.team tk
  if !r.engine then s
  else
    match lowestPart (s.parts.filter (fun e => e.2.live && e.2.team == tk && e.2.sq == r.sq && e.2.st.endedByRecord &&
        !e.2.recWake)) with
    | none => s
    | some e => (s.setTeam tk { t with recs := t.recs.map (fun x =>
        if x.order + 1 == t.recOrder then { x with assigned := true } else x) }).wakeForRecord e.1

end State

/-- FAULT_RECORD_ARRIVAL (R346, R348, R350): the collector stores or drops the record, and sends the notice; a record that is
stored is assigned. -/
def execFaultRecordArrival (k : Nat) (s : State) : Out :=
  match s.msg k with
  | some (.frec tk r preq pid) =>
    if !s.arrives k then .next s
    else
      let full := (s.team tk).recs.length == 64
      let s1 := (s.dropMsg k).storeRecord tk r
      let s2 := match preq, pid with
        | some q, some p => s1.post (.notice p q)
        | _, _ => s1
      .next ((if full then s2 else s2.assignRecord tk r).teamEnd tk)
  | _ => .next s

/-- A request is acknowledged; the last one of a team whose squads have ended lets the team end (R68, R139). -/
def State.acked (s : State) (k : Nat) : State :=
  match s.preq k with
  | some r => ((s.release k).setVia r.ack none).teamEnd r.team
  | none => s

/-- ACKNOWLEDGEMENT (R67, R68, R71): the part's count falls. -/
def execAcknowledgement (k : Nat) (s : State) : Out :=
  match s.preq k with
  | some r => if r.phase == .acking && s.arrives r.ack then .next (s.acked k) else .next s
  | none => .next s

/-- FAULT_NOTICE (R346, R351): the notice acknowledges its request and raises the part's DEFER count, or becomes a
deferral notice when the part is departing. -/
def execFaultNotice (k : Nat) (s : State) : Out :=
  match s.msg k with
  | some (.notice pid q) =>
    if !s.arrives k then .next s
    else
      let s1 := s.dropMsg k
      let more := s1.fab.msgs.any (fun e => match e.2 with
        | some (.frec _ _ (some j) _) => j == q
        | some (.notice _ j) => j == q
        | _ => false)
      let s2 := if more then s1 else s1.acked q
      let p := s2.part pid
      match p.st with
      | .departing _ => .next (if p.live then s2.post (.deferral pid) else s2)
      | _ => .next (if p.live then s2.setPart pid { p with defer := p.defer + 1 } else s2)
  | _ => .next s

/-- DEFERRAL_NOTICE (R346): it arrives ahead of the frame, which has its count when the dispatcher places it. -/
def execDeferralNotice (k : Nat) (s : State) : Out :=
  match s.msg k with
  | some (.deferral pid) =>
    if !s.arrives k then .next s
    else
      let p := s.part pid
      .next (if p.live then (s.dropMsg k).setPart pid { p with defer := p.defer + 1 } else s.dropMsg k)
  | _ => .next s

/-- The oldest record of a squad. -/
def oldestRecord (t : Team) (sq : Nat) : Option FRec :=
  (t.recs.filter (fun r => r.sq == sq)).foldl (fun (a : Option FRec) r =>
    match a with
    | none => some r
    | some b => if r.order < b.order then some r else a) none

/-- STORE_FAULT_DEFERRED (R347, R349): at a boundary outside a handler a part takes the oldest record of its squad, or the
squad's drop count. -/
def execStoreFaultDeferred (pid : Nat) (s : State) : Out :=
  let p := s.part pid
  let t := s.team p.team
  if !p.live || p.st != .ready || p.h || p.defer == 0 || p.umask != 0 || p.mi.on || p.restrict.isSome then .next s
  else
    let drops := Store.get 0 t.drops p.sq
    let less := fun (recs : List FRec) => (s.setTeam p.team { t with
      recs := recs
      drops := Store.set 0 t.drops p.sq 0 }).setPart pid { p with defer := p.defer - 1 }
    match oldestRecord t p.sq with
    | some r => .next ((less (t.recs.filter (fun x => x.order != r.order))).takeTrap pid .storeFaultDeferred p.pc r.lanes
        [(0, r.va), (1, r.pc.setWidth 64), (2, r.tick), (3, BitVec.ofNat 64 (r.cause + 256 * r.kind + 65536 * drops))]
        r.pc)
    | none =>
      if drops = 0 then .next (s.setPart pid { p with defer := 0 })
      else .next ((less t.recs).takeTrap pid .storeFaultDeferred p.pc 0 [(3, BitVec.ofNat 64 (65536 * drops))] 0)

/-! ### Loss and restart (R353 to R356) -/

namespace State

/-- Remote reads of a team that was frozen at a tick: their timeout did not run meanwhile (R359). -/
def shiftReads (s : State) (tk since : Nat) : State :=
  { s with net := { s.net with remotes := s.net.remotes.map (fun e => (e.1, e.2.map (fun r =>
      if r.team == tk && !r.wr then
        { r with first := BitVec.ofNat 64 (r.first.toNat + ((s.tickAt r.hub).toNat - max since r.first.toNat)) } else r))) } }

/-- Parts of a team to which records were assigned during its freeze wake (R350). -/
def wakeRecorded (s : State) (tk : Nat) : State :=
  (s.teamParts tk).foldl (fun (s : State) e => match e.2.st with
    | .blocked (.held _ _ _ (some _)) _ => s
    | .blocked _ _ => if e.2.recWake then s.setPart e.1 (e.2.again s.cyc) else s
    | _ => s) s

/-- A freeze is cancelled: every frozen part wakes once its condition holds (R357). -/
def thaw (s : State) (tk : Nat) : State :=
  let t := s.team tk
  let s0 := (s.shiftReads tk (t.deadline - (s.partition t.prt).plimit)).setTeam tk { t with frozen := false }
  let s1 := (s0.wakeRecorded tk).evalWaits tk
  let s2 := (s1.teamParts tk).foldl (fun (s : State) e => (s.huddleDone e.1).finishRemote e.1) s1
  s2.domain.foldl formWaiting s2

end State

namespace State

/-- End every part of a team, drop its binds and an image being laid back, and what it has on its way to the base stack (R313,
R355). -/
def endParts (s : State) (tk : Nat) : State :=
  ((((s.teamParts tk).foldl (fun (s : State) e => s.killPart e.1) s).dropBinds tk).dropLaid tk).keepMsgs
    (fun m => msgTeam m != some tk)

/-- A team ends or restarts: it has been killed as a whole, or the kill is on its way (R313, R355). -/
def ending (s : State) (tk : Nat) : Bool :=
  (s.team tk).killed || (s.team tk).restarting || s.fab.msgs.any (fun e => match e.2 with
    | some (.kill q n _) => q == tk && decide (64 ≤ n)
    | _ => false)

/-- Posted requests that a lost core or buffer still held are never performed (R355); which it held is free (log 20). -/
def dropHeld (s : State) (pid : Nat) : State :=
  ((s.outstanding pid).filter (fun r => r.2.phase == .flight && r.2.kind != .rwr && Config.heldRequest r.1)).foldl
    (fun (s : State) r => (s.release r.1).setVia r.1 none) s

/-- End a team as `tmkill` does, with an error record of a kind (R314, R330). -/
def loseTeam (s : State) (tk sq kind : Nat) : State :=
  let t := s.team tk
  (s.errorRecord (lkey t.prt t.launch) t sq kind 0 0 0).post (.kill tk 64 0)

/-- A context is gone, and its team is lost, once (R356). -/
def loseContext (s : State) (pid : Nat) : State :=
  let tk := (s.part pid).team
  let gone := fun (s : State) => (s.dropHeld pid).killPart pid
  if !(s.team tk).v || s.ending tk then (gone s).teamEnd tk else (gone (s.thaw tk)).loseTeam tk (s.part pid).sq 3

end State

/-- CONTEXT_LOSS (R63, R353, R355, R356): of a part, or of a team's barrier-unit state (`bu`).  A lost part, or its frame, is
discarded; the team begins a restart, or is lost, once. -/
def execContextLoss (bu : Bool) (k : Nat) (s : State) : Out :=
  let tk := if bu then k else (s.part k).team
  let t := s.team tk
  if !bu && !(s.part k).live then .next s
  else if !t.v || s.ending tk then .next (if bu then s else s.loseContext k)
  else
    let s1 := s.thaw tk
    let s2 := if bu then s1 else s1.dropHeld k
    if t.restartable && decide (t.restarts < (s.ureg (tk / 256) 0x70010).toNat % 4) then
      .next ((s2.endParts tk).mapTeam tk (fun t => { t with
        ents := t.ents.filter (fun e => e.begun)
        restarting := true }))
    else .next (if bu then s1.loseTeam tk 0xFF 3 else s.loseContext k)

namespace State

/-- A posted request or remote write of a team is not yet performed, or a record of one is on its way. -/
def teamPosting (s : State) (tk : Nat) : Bool :=
  s.fab.posted.any (fun e => match e.2 with | some r => r.team == tk | none => false) ||
    s.fab.msgs.any (fun e => match e.2 with | some (.frec t _ _ _) => t == tk | _ => false)

/-- Physical tiles of a team (R89, R334). -/
def teamTiles (s : State) (tk : Nat) : List Nat :=
  let t := s.team tk
  (List.range t.acct).map (fun n => tileSpa (tk / 256) (t.tilemap.toNat / 2 ^ (5 * n) % 32))

/-- Free every region of a team, advancing its version (R82, R355). -/
def freeRegions (s : State) (tk : Nat) : State :=
  (s.team tk).regions.foldl (fun (s : State) g => s.freeRegion tk g.1) s

end State

namespace State

/-- The state of a team that a restart zeroes (R355). -/
def restarted (t : Team) : Team :=
  { t with
    restarts := t.restarts + 1
    restarting := false
    ended := []
    exited := []
    huddles := []
    bars := []
    stages := 0
    scrum := []
    latch := []
    inbox := []
    mstat := []
    recs := []
    drops := []
    dropTotal := 0 }

/-- Where a team is bound again (R355): on its base stack when that is usable, else where R332 places it. -/
def rebind (s : State) (l : Launch) (tk : Nat) : Option (State × Nat) :=
  let t := s.team tk
  if (s.partStacks t.prt).contains (tk / 256) then some (s, tk)
  else (s.bestStack l).map (fun u =>
    let r := s.bindTeam l (t.tx.toNat + l.pk 8 2 * (t.ty.toNat + l.pk 10 2 * t.tz.toNat)) u
    let s1 := (r.1.mapTeam r.2 (fun x => { x with restarts := t.restarts })).setTeam tk Team.absent
    (s1.freeEntries (tk / 256) t, r.2))

end State

/-- TEAM_RESTART (R355): once nothing of the team's first run remains, its state is zeroed and its bind records posted
again. -/
def execTeamRestart (tk : Nat) (s : State) : Out :=
  let t := s.team tk
  if !t.v || !t.restarting || t.killed || !t.ents.isEmpty || s.teamPosting tk then .next s
  else
    let s1 := (s.freeRegions tk).zeroAlloc tk
    let s2 := (s.teamTiles tk).foldl (fun (s : State) a => s.zeroBytes a 0x20000) s1
    let l := s.launch (State.lkey t.prt t.launch)
    match (s2.mapTeam tk State.restarted).rebind l tk with
    | none => .next s
    | some (s3, k) =>
      let s4 := (s3.bumpUreg (k / 256) 0x70018 32 1).queueBinds l k s.tick.toNat
      .next (s4.postRecs s4.mg.recs)

/-! ### Saving a team (R357 to R359) -/

/-- A part that a freeze has stopped (R143, R357). -/
def PState.still : PState → Bool
  | .blocked _ _ => true
  | .queued => true
  | .joining _ _ _ => true
  | _ => false

/-- The part a message is for or from. -/
def msgPart : Msg → Option Nat
  | .flushMsg p _ _ _ => some p
  | .join p _ => some p
  | .joinReply p _ _ _ _ => some p
  | .finalMask p _ _ => some p
  | .latchAt p _ _ _ _ _ _ => some p
  | .notice p _ => some p
  | .deferral p => some p
  | .clearRst p _ => some p
  | .frameFetch p _ _ _ => some p
  | .fetchData p _ _ _ _ _ => some p
  | _ => none

namespace State

/-- A team's image is being laid back in its place (R360). -/
def resuming (s : State) (tk : Nat) : Bool := s.mg.images.any (fun e => (e.2.bind Image.laid) == some tk)

/-- The image of a frozen team can be completed (R357). -/
def imageReady (s : State) (tk : Nat) : Bool :=
  let t := s.team tk
  let ps := s.teamParts tk
  t.v && t.frozen && !t.killed && !t.restarting && ps.all (fun e => e.2.st.still && e.2.pend.isEmpty && !e.2.dying) &&
    t.ents.isEmpty && !s.fab.posted.any (fun e => match e.2 with | some r => r.team == tk | none => false) &&
    !s.fab.msgs.any (fun e => match e.2 with
      | some m => msgTeam m == some tk || (match m with | .frec q _ _ _ => q == tk | .kill q _ _ => q == tk | _ => false) ||
          (match msgPart m with | some p => ps.any (fun e => e.1 == p) | none => false)
      | none => false) &&
    !s.binding tk && !s.resuming tk

/-- A record of XFQ, or a fault that waits to be written to it, names a squad of a team (R47). -/
def xfNames (s : State) (tk : Nat) : Bool :=
  let names := fun (w : Asker) => match w with
    | .part pid => (s.part pid).live && (s.part pid).team == tk
    | .entry k _ => k == tk
  s.tr.xfq.any (fun x => x.2.wait.any (fun f => names f.who) || x.2.slots.any (fun e => e.2.busy && names e.2.who))

end State

/-- The part as the image holds it: SAVED with its wake condition; a pending `rrd` keeps its unsettled lanes in UMASK and
issues again (R358, R359).  A part to which a record was assigned runs its wait anew (R350). -/
def Part.saved (p : Part) : Part :=
  if p.recWake then { (p.again 0).framed with st := .saved }
  else
  match p.st with
  | .blocked (.remote _ _) _ => { p.framed with st := .saved }
  | .blocked (.held o m c _) r => { p.framed with st := .saved, after := some (.held o m c none, r) }
  | .blocked w r => { p.framed with st := .saved, after := some (w, r) }
  | .queued => (match p.dest with
    | .hold _ _ o m c => { p.framed with st := .saved, dest := .none, unlogged := false, after := some (.held o m c none, false) }
    | _ => { p.framed with st := .saved })
  | _ => p.framed

/-- Bytes of memory in a range, by offset from its base, shifted by `at'`. -/
def rangeBytes (m : Store Byte) (base n at' : Nat) : List (Nat × Byte) :=
  (m.filter (fun e => decide (base ≤ e.1) && decide (e.1 < base + n))).map (fun e => (e.1 - base + at', e.2))

namespace State

/-- Write the register groups and the control record that belong to an image to the spill areas (R358). -/
def spillSaved (s : State) (p : Part) : State := (s.performElems p.prt none p.burst).1

/-- First byte and length of a team's run of spill areas. -/
def spillRun (t : Team) : Nat × Nat := (t.spillbase * 65536, t.spillu * t.sqn * 65536)

/-- Save a team whose image is ready: its image, and the machine without it (R358). -/
def saveTeam (s : State) (tk : Nat) : State × Image :=
  let ps := s.teamParts tk
  let s1 := ps.foldl (fun (s : State) e => s.spillSaved e.2) s
  let t := s1.team tk
  let u := tk / 256
  let r := spillRun t
  let img : Image := {
    team := t
    tk := tk
    vnum := s1.stackId u t.prt
    laid := none
    parts := ps.map (fun e => (e.1, e.2.saved))
    macros := (List.range t.mcount).flatMap (fun i => if t.stationary i then []
      else rangeBytes s1.mem (macroSpa u (s1.macroEntry u (t.mbase + i))) 65536 (65536 * i))
    tiles := ((s1.teamTiles tk).zipIdx).flatMap (fun a => rangeBytes s1.mem a.1 0x20000 (0x20000 * a.2))
    spill := rangeBytes s1.mem r.1 r.2 0 }
  let s2 := ps.foldl (fun (s : State) e => s.killPart e.1) s1
  let s3 := (s2.freeRegions tk).zeroAlloc tk
  let s4 := s3.freeEntries u t
  let s5 := s4.net.remotes.foldl (fun (s : State) e => match e.2 with
    | some r => if r.team == tk then s.freeRemote e.1 r else s
    | none => s) s4
  (s5.setTeam tk Team.absent, img)

end State

/-- The freeze of a checkpoint is in progress (R413). -/
def State.checkpointing (s : State) (prt : Nat) : Bool :=
  (Store.get Replay.none s.dbg.replay prt).freezing.isSome

/-- A freeze reaches a team (R357). -/
def State.freeze (s : State) (tk : Nat) : State :=
  let t := s.team tk
  s.setTeam tk { t with frozen := true, deadline := s.tick.toNat + (s.partition t.prt).plimit }

/-- FREEZE (R47, R357, R358): once every record of XFQ that names it is answered, a team is frozen; once everything of it has
come to rest, its image is completed.  A freeze for new routes saves nothing (R369). -/
def execFreeze (tk : Nat) (s : State) : Out :=
  let t := s.team tk
  if !t.v || s.ending tk || s.checkpointing t.prt || s.mg.relink.contains tk || s.resuming tk then .next s
  else if !t.frozen then .next (if s.xfNames tk then s else s.freeze tk)
  else if s.imageReady tk then
    let r := s.saveTeam tk
    .next { r.1 with
      mg := { r.1.mg with images := Store.set none r.1.mg.images r.1.ids (some r.2) }
      ids := r.1.ids + 1 }
  else .next s

/-- FREEZE_TIMEOUT (R357): the partition's limit has passed; the freeze is cancelled or the team killed. -/
def execFreezeTimeout (tk : Nat) (s : State) : Out :=
  let t := s.team tk
  if !t.v || !t.frozen || s.ending tk || s.checkpointing t.prt || decide (s.tick.toNat < t.deadline) then .next s
  else if (s.partition t.prt).pkill then .next (s.loseTeam tk 0xFF 4)
  else .next (s.thaw tk)

/-! ### Resume (R360, R361) -/

namespace State

/-- The 16-bit entry of a unit in a VMAP table (R361). -/
def vmapEntry (s : State) (u prt n : Nat) : Nat :=
  (s.ureg u (0x18000 + 0x1000 * prt + 8 * (n / 4))).toNat / 2 ^ (16 * (n % 4)) % 65536
def setVmap (s : State) (u prt n x : Nat) : State :=
  let o := 0x18000 + 0x1000 * prt + 8 * (n / 4)
  let w := (s.ureg u o).toNat
  s.setUreg u o (BitVec.ofNat 64 (w - w / 2 ^ (16 * (n % 4)) % 65536 * 2 ^ (16 * (n % 4)) + x % 65536 * 2 ^ (16 * (n % 4))))

/-- Units of the domain, ascending: stacks and hubs. -/
def allUnits (s : State) : List Nat := s.domain.flatMap (fun k => (List.range 18).map (fun h => k * 32 + h))

/-- The new unit takes the old unit's virtual number, and the old unit the new one's, in every table (R361). -/
def swapVmap (s : State) (prt a b : Nat) : State :=
  if a = b then s
  else s.allUnits.foldl (fun (s : State) u =>
    let x := s.vmapEntry u prt a
    let y := s.vmapEntry u prt b
    (s.setVmap u prt a y).setVmap u prt b x) s

/-- Place the host of an open huddle on a core with a free slot, still JOINING, and write its core into HOST (R360 step
3). -/
def placeHost (s : State) (pid u : Nat) : State :=
  let p := s.part pid
  match s.pickCore u p.prt with
  | none => s
  | some c =>
    let used := usedSlots (s.onCore u c)
    let slot := ((List.range 256).find? (fun k => !used.contains k)).getD 0
    let s1 := (s.setPart pid { p with core := c, slot := slot, lastIssue := s.cyc }).growFits pid
    s1.1.mapTeam p.team (fun t => { t with huddles := t.huddles.map (fun h =>
      if h.2.hpid == pid && h.2.isOpen then (h.1, { h.2 with host := coreKey u c }) else h) })

/-- The stack that bears a virtual number of a partition (R361). -/
def bearer (s : State) (prt n : Nat) : Option Nat := (s.partStacks prt).find? (fun u => s.stackId u prt == n)

/-- Lay image `i` back on a stack (R360 steps 1 and 2): macros, tiles, barrier unit, collector, status word and spill areas; its
regions are refilled by fills; and the stack bears the old virtual number (R361). -/
def layBack (s : State) (i : Nat) (img : Image) (u : Nat) : State :=
  let old := img.team
  let l := s.launch (lkey old.prt old.launch)
  let r := s.bindTeam l 0 u
  let tk := r.2
  let nt := r.1.team tk
  let fills := (old.regions.filter (fun g => g.2.used)).map (fun g =>
    { newEntry Part.absent 4 (.fill g.2.ty g.2.pat g.2.mac g.1) none with
      id := r.1.ids + g.1
      recd := g.2.recd })
  let t : Team := { old with
    mbase := nt.mbase
    tilemap := nt.tilemap
    spillbase := nt.spillbase
    frozen := false
    ents := fills
    regions := [] }
  let s1 : State := { r.1.setTeam tk t with ids := r.1.ids + 64 }
  let s2 := img.macros.foldl (fun (s : State) b => s.setByte (s.padSpa tk b.1) b.2) s1
  let s3 := img.tiles.foldl (fun (s : State) b =>
    s.setByte ((s1.teamTiles tk).getD (b.1 / 0x20000) 0 + b.1 % 0x20000) b.2) s2
  let base := (spillRun t).1
  let s4 := img.spill.foldl (fun (s : State) b =>
    s.pokeK (s.keyAt (base + b.1) t.prt 0) (base + b.1) 1 b.2.toNat) s3
  let s5 := match s4.bearer t.prt img.vnum with
    | some b => s4.swapVmap t.prt b u
    | none => s4
  { s5 with mg := { s5.mg with images := Store.set none s5.mg.images i (some { img with laid := some tk }) } }

/-- The hosts of open huddles in an image. -/
def imageHosts (img : Image) : List (Nat × Part) :=
  img.parts.filter (fun e => match e.2.st with | .joining _ _ _ => true | _ => false)

/-- The parts of an image that has been laid back enter its team: hosts on their cores, then the others as QUEUED (R360 steps 3
and 4). -/
def enterParts (s : State) (img : Image) (tk : Nat) : State :=
  let u := tk / 256
  let t := s.team tk
  let s1 := img.parts.foldl (fun (s : State) e => s.setPart e.1 { e.2 with
    team := tk
    unit := u
    spill := t.spillbase + e.2.sq * t.spillu }) s
  let s2 := (imageHosts img).foldl (fun (s : State) e => s.placeHost e.1 u) s1
  let s3 := img.parts.foldl (fun (s : State) e =>
    match e.2.st with
    | .joining _ _ _ => s
    | _ => match e.2.dest with
      | .host _ _ h => (s.setPart e.1 { s.part e.1 with dest := .host u (s.part h).core h }).enqueue e.1 u
      | _ => if e.2.unlogged then (s.setPart e.1 { s.part e.1 with dest := .unit u }).enqueue e.1 u else s.arrive e.1 u) s2
  (imageHosts img).foldl (fun (s : State) e => s.huddleDone e.1) (s3.evalWaits tk)

end State

/-- Free slots of a stack's cores. -/
def State.freeSlots (s : State) (u : Nat) : Nat :=
  ((List.range 8).map (fun c => 256 - (usedSlots (s.onCore u c)).length)).sum

/-- RESUME (R360): the management core lays a saved image back on a stack that has what the team needs; once its regions have been
refilled and the stack has slots, registers and parking for its parts, they enter. -/
def execResume (img u : Nat) (s : State) : Out :=
  match Store.get none s.mg.images img with
  | none => .next s
  | some im =>
    match im.laid with
    | none =>
      if (s.partStacks im.team.prt).contains u && s.stackFits (s.launch (State.lkey im.team.prt im.team.launch)) u then
        .next (s.layBack img im u)
      else .next s
    | some tk =>
      let hosts := (State.imageHosts im).length
      if s.ending tk || !(s.team tk).ents.isEmpty || s.freeSlots (tk / 256) < hosts ||
          !s.parkRoom (tk / 256) im.team.prt (im.parts.length - hosts) then .next s
      else
        let s1 := ({ s with mg := { s.mg with images := Store.set none s.mg.images img none } } : State).enterParts im tk
        if (List.range 8).all (fun c => decide (s1.usedGroups (tk / 256) c ≤ 2048)) then .next s1 else .next s

end Sys2Proof.Machine
end

