-- ==== Sys2Proof/Machine/Keys.lean ====
section
/-! DEFINITION. Key slots of the home and granule controllers (R390 to R393): KMAT, KCMD and KSTAT, and the controllers of a
partition. -/

namespace Sys2Proof.Machine

/-- The key registers of a partition at a controller: block 10 of a stack, block 16 + c of a hub (R391). -/
def keyOff (u ctrl prt : Nat) : Nat := (if isStack u then 10 else 16 + ctrl) * 0x10000 + 0x8000 + 0x1000 * prt

/-- Index of a key slot in the state (R391). -/
def slotKey (u ctrl prt slot : Nat) : Nat := ((u * 16 + ctrl) * 8 + prt) * 16 + slot

/-- The controller number an event names: a stack has one. -/
def ctrlOf (u ctrl : Nat) : Nat := if isStack u then 0 else ctrl % 12

namespace State

/-- A slot of a controller holds a key (KSTAT.LIVE). -/
def keyLive (s : State) (u ctrl prt slot : Nat) : Bool := Store.get 0 s.keys (slotKey u ctrl prt slot) != 0
def setKey (s : State) (u ctrl prt slot x : Nat) : State :=
  { s with keys := Store.set 0 s.keys (slotKey u ctrl prt slot) x }

/-- Index of a partition at a controller. -/
def revIx (u ctrl prt : Nat) : Nat := (u * 16 + ctrl) * 8 + prt

/-- A REVOKE of a partition is in progress at a controller (KSTAT.BUSY). -/
def revokes (s : State) (u ctrl prt : Nat) : Bool := Store.get 0 s.revoking (revIx u ctrl prt) != 0

/-- LIVE of KSTAT: a slot that is being revoked is live until that ends (R393). -/
def liveBits (s : State) (u ctrl prt : Nat) : Nat :=
  (List.range 16).foldl (fun a k =>
    a + (if s.keyLive u ctrl prt k || Store.get 0 s.revoking (revIx u ctrl prt) == k + 1 then 2 ^ k else 0)) 0

/-- A GO of KCMD was ignored. -/
def keyLost (s : State) (u ctrl prt : Nat) : State :=
  let o := keyOff u ctrl prt + 0x808
  s.setUreg u o (s.ureg u o ||| 0x20000)

/-- Bytes of unit registers, eight to a word. -/
def uregBytes (s : State) (u off : Nat) : Nat → List Byte
  | 0 => []
  | n + 1 => s.uregBytes u off n ++ leBytes 8 (s.ureg u (off + 8 * n)).toNat

/-- LOAD: the material in KMAT makes a slot live, and KMAT is zeroed; a live slot or a REVOKE in progress sets LOST (R391). -/
def loadSlot (s : State) (u ctrl prt slot : Nat) : State :=
  if s.keyLive u ctrl prt slot || s.revokes u ctrl prt then s.keyLost u ctrl prt
  else
    let o := keyOff u ctrl prt + 0x40 * slot
    (s.setKey u ctrl prt slot (leNat (s.uregBytes u o 8) + 1)).setUregBytes u o (List.replicate 64 0) 8

/-- REVOKE: the home marks the slot, and no access that begins later is performed under it; slot 0 of a partition that exists, or
a REVOKE in progress, sets LOST (R391, R393 step 1). -/
def revokeSlot (s : State) (u ctrl prt slot : Nat) : State :=
  if (slot = 0 && (s.partition prt).ex) || s.revokes u ctrl prt then s.keyLost u ctrl prt
  else { s.setKey u ctrl prt slot 0 with revoking := Store.set 0 s.revoking (revIx u ctrl prt) (slot + 1) }

/-- A REVOKE ends: the key material is zeroised, LIVE falls, and then BUSY (R393 step 3). -/
def revokeEnd (s : State) (u ctrl prt : Nat) : State :=
  match Store.get 0 s.revoking (revIx u ctrl prt) with
  | 0 => s
  | slot + 1 => { s.setUregBytes u (keyOff u ctrl prt + 0x40 * slot) (List.replicate 64 0) 8 with
      revoking := Store.set 0 s.revoking (revIx u ctrl prt) 0 }

/-- The controllers of a partition: its stacks, and its granules at the hubs (R18, R390). -/
def partCtrls (s : State) (prt : Nat) : List (Nat × Nat) :=
  s.domain.flatMap (fun k =>
    let m := Store.get 0 (s.partition prt).homes k
    ((List.range 16).filter (fun h => m.getLsbD h)).map (fun h => (k * 32 + h, 0)) ++
      ((List.range 12).filter (fun c => m.getLsbD (16 + c))).map (fun c => (k * 32 + 16, c)) ++
      ((List.range 12).filter (fun c => m.getLsbD (28 + c))).map (fun c => (k * 32 + 17, c)))

/-- Load a key at a controller: KMAT, then LOAD (R392). -/
def putKey (s : State) (u ctrl prt slot : Nat) (bs : List Byte) : State :=
  (s.setUregBytes u (keyOff u ctrl prt + 0x40 * slot) bs 8).loadSlot u ctrl prt slot

end State

/-- KCMD_LOAD (R391). -/
def execKcmdLoad (u ctrl part slot : Nat) (s : State) : Out :=
  .next (s.loadSlot u (ctrlOf u ctrl) (part % 8) (slot % 16))

/-- KCMD_REVOKE (R391, R393). -/
def execKcmdRevoke (u ctrl part slot : Nat) (s : State) : Out :=
  .next (s.revokeSlot u (ctrlOf u ctrl) (part % 8) (slot % 16))

/-- The REVOKE at a place of `revoking` ends (R393). -/
def execRevokeEnd (k : Nat) (s : State) : Out := .next (s.revokeEnd (k / 128) (k / 8 % 16) (k % 8))

/-- KCMD_INVALID (R391): a reserved OP sets LOST. -/
def execKcmdInvalid (u ctrl part op : Nat) (s : State) : Out :=
  if 2 ≤ op then .next (s.keyLost u (ctrlOf u ctrl) (part % 8)) else .next s

end Sys2Proof.Machine
end

