-- ==== Sys2Proof/Machine/Host.lean ====
section
/-! DEFINITION. The host link (R363 to R367): mailboxes, fault responses, the control window and the firmware image area. -/

namespace Sys2Proof.Machine

/-- The register unit that holds BAR0 of a function: 0 is PF0, p + 1 the VF of partition p. -/
def fnUnit (fn : Nat) : Nat := 2048 + fn

/-- Opcodes a mailbox takes from the host (R365, R427). -/
def hostOpcode (fn op : Nat) : Bool := if fn = 0 then decide (0x101 ≤ op) && decide (op ≤ 0x10F) else op == 2

/-- The header of a mailbox message (R365). -/
def mailHead (op len seq : Nat) : List Byte := leBytes 2 op ++ leBytes 2 len ++ leBytes 4 seq

namespace State

/-- A function exists: PF0 always, a VF while its partition exists, once the boot has ended (R363, R420). -/
def fnPresent (s : State) (fn : Nat) : Bool :=
  fn == 0 || (decide (fn ≤ 8) && s.mg.boot == 9 && (s.partition (fn - 1)).ex)

def mboxOf (s : State) (fn : Nat) : Mbox := Store.get Mbox.empty s.mg.mbox fn
def setMbox (s : State) (fn : Nat) (b : Mbox) : State :=
  { s with mg := { s.mg with mbox := Store.set Mbox.empty s.mg.mbox fn b } }
def werr (s : State) (fn : Nat) : State := s.setMbox fn { s.mboxOf fn with werr := true }

/-- Header and first payload word of the message in MBH2D. -/
def h2dHead (s : State) (fn : Nat) : Nat := (s.ureg (fnUnit fn) 0x1000).toNat
def h2dPay (s : State) (fn : Nat) : Nat := (s.ureg (fnUnit fn) 0x1008).toNat

/-- The message has been taken: H2DBUSY clears (R364). -/
def taken (s : State) (fn : Nat) : State := s.setMbox fn { s.mboxOf fn with busy := false }

end State

/-- MAILBOX_SEND (R364, R365): the message is handed over, or LOST is set, or it is answered with NAK. -/
def execMailboxSend (fn : Nat) (s : State) : Out :=
  if !s.fnPresent fn then .next s
  else
    let b := s.mboxOf fn
    let h := s.h2dHead fn
    if b.busy then .next (s.setMbox fn { b with lost := true })
    else if hostOpcode fn (h % 65536) && decide (bitsOf h 31 16 ≤ 248) then .next (s.setMbox fn { b with busy := true })
    else .next (s.mailOut fn (mailHead 0xFF 2 (bitsOf h 63 32) ++ leBytes 2 h))

/-- D2H_POST (R364): the oldest waiting message goes to MBD2H, with MSI-X vector 0. -/
def execD2hPost (fn : Nat) (s : State) : Out :=
  let b := s.mboxOf fn
  match b.out with
  | [] => .next s
  | m :: ms =>
    if b.full then .next s
    else
      let s1 := (s.setUregBytes (fnUnit fn) 0x1100 m 32).setMbox fn { b with out := ms, full := true }
      .next { s1 with mg := { s1.mg with msix := s1.mg.msix ++ [(fn, 0)] } }

/-- FAULTRESP (R365): the host's answer to a forwarded fault goes to XFRESP of the unit; one that names no outstanding
record of the partition sets ERR there. -/
def execFaultresp (fn unit park : Nat) (deny : Bool) (s : State) : Out :=
  let h := s.h2dHead fn
  let y := s.h2dPay fn
  if fn = 0 || !s.fnPresent fn || !(s.mboxOf fn).busy || h % 65536 != 2 || y % 65536 / 32 != unit || bitsOf y 31 16 != park ||
      (bitsOf y 39 32 == 1) != deny then .next s
  else
    let s1 := s.taken fn
    if s1.mg.service.any (fun e => e.1 == fn - 1 && e.2.1 == unit && e.2.2.1 == park) then .next (s1.answer unit park deny)
    else .next (s1.setXfq unit { s1.xfq unit with err := true })

/-- FAULT_SERVICE_TIMEOUT (R365): firmware answers DENY once the fault-service limit has passed. -/
def execFaultServiceTimeout (s : State) : Out :=
  match s.mg.service.find? (fun e => decide (e.2.2.2 ≤ s.tick.toNat)) with
  | none => .next s
  | some e => .next (s.answer e.2.1 e.2.2.1 true)

/-! ### The control window (R366, R367) -/

/-- Split a request into naturally aligned accesses of at most 8 bytes, in ascending order: address and width. -/
def splitAcc : Nat → Nat → Nat → List (Nat × Nat)
  | 0, _, _ => []
  | f + 1, a, n =>
    if n = 0 then []
    else
      let w := if a % 8 = 0 ∧ 8 ≤ n then 8 else if a % 4 = 0 ∧ 4 ≤ n then 4 else if a % 2 = 0 ∧ 2 ≤ n then 2 else 1
      (a, w) :: splitAcc f (a + w) (n - w)

namespace State

/-- Where a window access goes: SPA and key, or none when it fails. -/
def windowSpa (s : State) (prt o w : Nat) (wr : Bool) : State × Option (Nat × Nat) :=
  let p := s.partition prt
  if p.cwsize < o + w then (s, none)
  else
    let m := s.walkMark 16 prt ((p.cwbase.toNat + o) % 2 ^ 64) wr false
    match m.2 with
    | .leaf _ a _ e =>
      let key := m.1.keyAt a prt (bitsOf e.toNat 8 5)
      if (wr && !e.getLsbD 1) || e.getLsbD 12 || key == 0 || !m.1.spaOk prt a then (m.1, none) else (m.1, some (a, key))
    | _ => (m.1, none)

/-- The writes of a window request. -/
def windowPut (s : State) (prt base : Nat) (data : List Byte) : List (Nat × Nat) → State
  | [] => s
  | (va, w) :: rest =>
    let o := va - base
    let r := s.windowSpa prt o w true
    let bs := data.take w
    let s1 := match r.2 with
      | none => r.1.werr (prt + 1)
      | some (a, key) => (r.1.storeFor prt none key a w (leNat bs)).capture prt (.window s.tick (va % 2 ^ 64) bs)
    s1.windowPut prt base (data.drop w) rest

/-- The reads of a window request: failed ones return all ones. -/
def windowGet (s : State) (prt base : Nat) : List (Nat × Nat) → State × List Byte
  | [] => (s, [])
  | (va, w) :: rest =>
    let r := s.windowSpa prt (va - base) w false
    let ones' := List.replicate w (0xFF : Byte)
    let x := match r.2 with
      | none => (r.1.werr (prt + 1), ones')
      | some (a, key) =>
        if Store.get false r.1.ecc (a / 32) then (r.1.werr (prt + 1), ones')
        else ({ r.1 with ctr := r.1.ctr + 1 }, leBytes w (r.1.peekK key a w))
    let y := x.1.windowGet prt base rest
    (y.1, x.2 ++ y.2)

end State

/-- WINDOW_WRITE (R366, R367, R417). -/
def execWindowWrite (vf off : Nat) (data : List Byte) (s : State) : Out :=
  if vf = 0 || !s.fnPresent vf then .next s
  else
    let base := (s.partition (vf - 1)).cwbase.toNat
    .next (s.windowPut (vf - 1) base data (splitAcc data.length (base + off) data.length))

/-- WINDOW_READ (R363, R366, R367): the bytes are returned to the host; a function that does not exist answers Unsupported
Request, which returns none. -/
def execWindowRead (vf off n : Nat) (s : State) : Out :=
  if vf = 0 || !s.fnPresent vf then .next { s with hostData := [] }
  else
    let base := (s.partition (vf - 1)).cwbase.toNat
    let r := s.windowGet (vf - 1) base (splitAcc n (base + off) n)
    .next { r.1 with hostData := r.2 }

/-- First byte of the firmware-image area of hub 0 (R16). -/
def imageBase : Nat := unitBase 16 + 0x02FFF0000000

/-- FIRMWARE_IMAGE_WRITE (R14, R363): a host write or read of PF0 BAR2.  Once boot verification has ended, with success or
not, a write is discarded and a read returns zero. -/
def execFirmwareImageWrite (wr : Bool) (off n : Nat) (data : List Byte) (s : State) : Out :=
  let isOpen := s.mg.linkUp && decide (s.mg.boot < 3)
  if wr then
    if isOpen && decide (off + data.length ≤ 0x10000000) then .next (s.pokeBytes (imageBase + off) data) else .next s
  else .next { s with hostData := if isOpen && decide (off + n ≤ 0x10000000) then s.peekBytes (imageBase + off) n
                                  else List.replicate n 0 }

end Sys2Proof.Machine
end

