-- ==== Sys2Proof/Machine/Debugger.lean ====
section
/-! DEFINITION. Requests of PF0 (R427, R428) and the debugger (R402, R404 to R411): holds, comparators, tick matches, package
stops, steps, and the profile ring. -/

namespace Sys2Proof.Machine

/-! ### Requests (R427, R428) -/

namespace State

/-- The first `n` bytes of ARGBUF, with zeros beyond the length the request gives (R427). -/
def argBytes (s : State) (n : Nat) : List Byte :=
  let bs := (s.uregBytes 2048 0x2000 ((min n 4096 + 7) / 8)).take (min n (s.h2dPay 0))
  bs ++ List.replicate (n - bs.length) 0

/-- An argument of the request: each that R427 names takes 8 bytes of ARGBUF, in the table's order (log 23). -/
def argWord (s : State) (i : Nat) : Nat := fieldOf (s.argBytes (8 * i + 8)) (8 * i) 8

/-- ARGBUF holds these arguments, and bytes after them. -/
def argsAre (s : State) (ws : List Nat) (bs : List Byte) : Bool :=
  (ws.zipIdx).all (fun w => s.argWord w.2 == w.1) &&
    (s.argBytes (8 * ws.length + bs.length)).drop (8 * ws.length) == bs

/-- SEQ of the request of an opcode with its arguments that waits in the PF0 mailbox, when firmware runs and no request is in
progress (R427, R428). -/
def request (s : State) (op : Nat) (ws : List Nat) (bs : List Byte) : Option Nat :=
  let h := s.h2dHead 0
  if (s.mboxOf 0).busy && h % 65536 == op && s.mg.serving.isNone && decide (5 ≤ s.mg.boot) && s.argsAre ws bs then
    some (bitsOf h 63 32)
  else none

/-- Answer a request: RESBUF holds the payload, and the reply gives its length (R427). -/
def respond (s : State) (op seq : Nat) (bs : List Byte) : State :=
  (s.setUregBytes 2048 0x3000 bs ((bs.length + 7) / 8)).mailOut 0 (mailHead op 8 seq ++ leBytes 8 bs.length)

/-- Status 1 or 5 for a request that names a partition being torn down, or none. -/
def badPart (s : State) (prt : Nat) : Option Nat :=
  if (s.partition prt).closing.isSome then some 1 else if !(s.partition prt).ex || 8 ≤ prt then some 5 else none

/-- Units on which a partition has something: its stacks, and the hubs where it holds granules or cores (R405). -/
def partUnits (s : State) (prt : Nat) : List Nat :=
  s.domain.flatMap (fun k =>
    let m := Store.get 0 (s.partition prt).homes k
    let c := Store.get 0 (s.partition prt).hubCores k
    ((List.range 16).filter (fun h => m.getLsbD h)).map (fun h => k * 32 + h) ++
      (if bitsOf m.toNat 27 16 != 0 || c.toNat % 16 != 0 then [k * 32 + 16] else []) ++
      (if bitsOf m.toNat 39 28 != 0 || c.toNat / 16 != 0 then [k * 32 + 17] else []))

end State

/-- Bytes of a status reply. -/
def statusBytes (n : Nat) : List Byte := leBytes 4 n

/-- Serve a request: take it, do it, and answer it. -/
def serve (op : Nat) (ws : List Nat) (bs : List Byte) (f : State → State × List Byte) (s : State) : Out :=
  match s.request op ws bs with
  | none => .next s
  | some seq =>
    let r := f (s.taken 0)
    .next (r.1.respond op seq r.2)

/-- Serve a request that names a partition, and more, and is answered with a status. -/
def serveFor (op prt : Nat) (ws : List Nat) (bs : List Byte) (f : State → State × Nat) (s : State) : Out :=
  serve op (prt :: ws) bs (fun s =>
    match s.badPart prt with
    | some n => (s, statusBytes n)
    | none => ((f s).1, statusBytes (f s).2)) s

/-! ### Holds, comparators and tick matches (R404 to R407) -/

/-- HOLD (R404): the HOLD table in every unit of the partition. -/
def execHold (part : Nat) (entries : List DWord) (s : State) : Out :=
  serveFor 0x108 part (lanes16.map (fun n => (entries.getD n 0).toNat)) [] (fun s =>
    ((s.partUnits part).foldl (fun (s : State) u =>
      lanes16.foldl (fun (s : State) n =>
        s.setUreg u (dbgOff u (0x400 + 8 * n)) (entries.getD n 0 &&& 0x7FFFFFFFFF)) s) s, 0)) s

/-- BREAKSET (R405). -/
def execBreakset (part n : Nat) (launch pc : Word) (en : Bool) (s : State) : Out :=
  serveFor 0x10A part [n, launch.toNat, pc.toNat, en.toNat] [] (fun s =>
    if 4 ≤ n then (s, 5)
    else ((s.partUnits part).foldl (fun (s : State) u =>
      (s.setUreg u (dbgOff u (0x200 + 16 * n)) (BitVec.ofNat 64 (pc.toNat + 2 ^ 32 * launch.toNat))).setUreg u
        (dbgOff u (0x208 + 16 * n)) (if en then 1 else 0)) s, 0)) s

/-- TICKSET (R405). -/
def execTickset (part : Nat) (tick : DWord) (launch : Word) (en : Bool) (s : State) : Out :=
  serveFor 0x10B part [tick.toNat, launch.toNat, en.toNat] [] (fun s =>
    ((s.partUnits part).foldl (fun (s : State) u =>
      ((s.setUreg u (dbgOff u 0x300) tick).setUreg u (dbgOff u 0x310) (launch.setWidth 64)).setUreg u (dbgOff u 0x308)
        (if en then 1 else 0)) s, 0)) s

/-- A unit's tick match is due: at its tick, once (R407). -/
def State.matchDue (s : State) (u : Nat) : Bool :=
  (s.ureg u (dbgOff u 0x308)).getLsbD 0 && s.ureg u (dbgOff u 0x300) == s.tickAt u && !s.pkgStopped (unitPkg u) &&
    Store.get 0 s.dbg.matchAt u != (s.tickAt u).toNat + 1

/-- TICK_MATCH_FIRE (R407): the parts of the launch on the unit's cores are marked. -/
def execTickMatchFire (u : Nat) (s : State) : Out :=
  if !s.matchDue u then .next s
  else
    let lau := (s.ureg u (dbgOff u 0x310)).toNat % 2 ^ 32
    let ps := (List.range 8).flatMap (fun c => (s.onCore u c).filter (fun e => e.2.launch.toNat == lau))
    let s1 := ps.foldl (fun (s : State) e => s.setPart e.1 { e.2 with tmHit := some (s.tickAt u) }) s
    let s2 : State := { s1 with dbg := { s1.dbg with matchAt := Store.set 0 s1.dbg.matchAt u ((s.tickAt u).toNat + 1) } }
    .next (s2.setUreg u (dbgOff u 0x308) (s2.ureg u (dbgOff u 0x308) ||| 2))

/-! ### Stopping packages (R408 to R410) -/

namespace State

/-- DBGCTL of a package. -/
def setDbgctl (s : State) (pkg : Nat) (x : DWord) : State := s.setUreg (pkg * 32 + 16) 0xA2000 x

/-- Set or clear a bit of DBGCTL. -/
def dbgBit (s : State) (pkg n : Nat) (v : Bool) : State :=
  let b : DWord := BitVec.ofNat 64 (2 ^ n)
  s.setDbgctl pkg (if v then s.dbgctl pkg ||| b else s.dbgctl pkg &&& ~~~b)

/-- The clocks of a package stop at the current tick; the arming is used up (R408, log 20). -/
def stopPkg (s : State) (pkg : Nat) : State :=
  if s.pkgStopped pkg then s
  else ((s.dbgBit pkg 2 true).dbgBit pkg 0 false).setUreg (pkg * 32 + 16) 0xA2008 (s.tickAt (pkg * 32))
def releasePkg (s : State) (pkg : Nat) : State := s.dbgBit pkg 2 false

def allPkgs (s : State) (f : State → Nat → State) : State := s.mg.pkgs.foldl f s

/-- A package's stop is due (R408). -/
def stopDue (s : State) (pkg : Nat) : Bool :=
  (s.dbgctl pkg).getLsbD 0 && !s.pkgStopped pkg && s.ureg (pkg * 32 + 16) 0xA2008 == s.tickAt (pkg * 32)

/-- No byte outside the hub reserves holds anything but zero (R410, log 20). -/
def zeroised (s : State) : Bool :=
  s.mem.all (fun e => isHub (spaUnit e.1) && decide (0x02FFC0000000 ≤ spaOff e.1))

/-- A write of SCANDATA (R410). -/
def writeScandata (s : State) (pkg : Nat) (v : Bool) : State :=
  if !v then s.dbgBit pkg 5 false
  else if !s.anyPartition && s.zeroised then s.dbgBit pkg 5 true
  else s.dbgBit pkg 6 true

/-- The reply of STOPCTL: status and STOPTICK. -/
def stopReply (s : State) : List Byte := statusBytes 0 ++ leBytes 8 (s.ureg 16 0xA2008).toNat

end State

/-- STOPCTL_ARM (R405, R408). -/
def execStopctlArm (tick : DWord) (s : State) : Out :=
  serve 0x10C [0, tick.toNat] [] (fun s =>
    let s1 := s.allPkgs (fun s k => (s.dbgBit k 0 true).setUreg (k * 32 + 16) 0xA2008 tick)
    (s1, s1.stopReply)) s

/-- STOPCTL_STOPNOW (R405, R408). -/
def execStopctlStopnow (s : State) : Out :=
  serve 0x10C [1] [] (fun s => let s1 := s.allPkgs State.stopPkg; (s1, s1.stopReply)) s

/-- STOPCTL_RELEASE (R405, R409). -/
def execStopctlRelease (s : State) : Out :=
  serve 0x10C [2] [] (fun s => let s1 := s.allPkgs State.releasePkg; (s1, s1.stopReply)) s

/-- STOPCTL_STEPREL (R405, R409). -/
def execStopctlSteprel (v : Bool) (s : State) : Out :=
  serve 0x10C [3, v.toNat] [] (fun s => let s1 := s.allPkgs (fun s k => s.dbgBit k 4 v); (s1, s1.stopReply)) s

/-- PACKAGE_STOP (R408): every package whose armed tick has come stops. -/
def execPackageStop (s : State) : Out :=
  .next (s.allPkgs (fun s k => if s.stopDue k then s.stopPkg k else s))

/-- SCANDATA_WRITE (R410): firmware writes SCANDATA in every package. -/
def execScandataWrite (v : Bool) (s : State) : Out := .next (s.allPkgs (fun s k => s.writeScandata k v))

/-- What a scan of a stopped package gives, without a change of state (R398, R410): STOPTICK, PKG, its control chains, and the cells of
its data chains, which give zeros unless SCANDATA = 1.  The order of bits belongs to the scan description of each stepping; the
model gives control state as register words and part fields. -/
structure Scan where
  tick : DWord
  pkg : Nat
  words : List (Nat × DWord)
  ids : List (Nat × Word × Mask × Nat)
  data : List (Nat × Byte)
  deriving DecidableEq, Repr

namespace State

/-- SPAs of the macros, side arrays and tiles of a package's stacks: the SRAM of the data chains (R11, R410). -/
def sramByte (pkg a : Nat) : Bool := unitPkg (spaUnit a) == pkg && isStack (spaUnit a) && decide (0x100000000000 ≤ spaOff a)

/-- The scan dump of a stopped package (R410). -/
def scanDump (s : State) (pkg : Nat) : Option Scan :=
  if !s.pkgStopped pkg then none
  else some {
    tick := s.ureg (pkg * 32 + 16) 0xA2008
    pkg := pkg
    words := (s.uregs.filter (fun e => decide (e.1 / 2 ^ 21 < 2048) && unitPkg (e.1 / 2 ^ 21) == pkg)).map (fun e =>
      (e.1, s.ureg (e.1 / 2 ^ 21) (e.1 % 2 ^ 21)))
    ids := (s.parts.filter (fun e => unitPkg e.2.unit == pkg)).map (fun e => (e.1, e.2.pc, e.2.amask, e.2.team))
    data := (s.mem.filter (fun e => sramByte pkg e.1)).map (fun e =>
      (e.1, if (s.dbgctl pkg).getLsbD 5 then e.2 else 0)) }

end State

/-! ### Stopped parts (R362, R405, R406) -/

/-- A part that a debugger stop holds. -/
def Part.stopped (p : Part) : Bool := p.live && p.stop != .run && p.step.isNone

/-- The reason codes of STOPLIST (R405). -/
def Stop.code : Stop → Nat
  | .run => 0 | .step => 0 | .breakpoint => 1 | .hwBreak _ => 2 | .tickMatch => 3

/-- The TEAM of a request: TEAMX, TEAMY, TEAMZ. -/
def Part.teamBits (p : Part) : BitVec 48 := BitVec.ofNat 48 (p.tx.toNat + 2 ^ 16 * p.ty.toNat + 2 ^ 32 * p.tz.toNat)

namespace State

def stoppedParts (s : State) (prt : Nat) : List (Nat × Part) := s.parts.filter (fun e => e.2.prt == prt && e.2.stopped)

/-- The stopped part a request names (R405). -/
def findStopped (s : State) (prt : Nat) (launch : Word) (team : BitVec 48) (sq lane : Nat) : Option (Nat × Part) :=
  (s.stoppedParts prt).find? (fun e =>
    e.2.launch == launch && e.2.teamBits == team && e.2.sq == sq && (lanesOf e.2.amask).head? == some lane)

end State

/-- STOPLIST (R405): up to 200 stopped parts, each as LAUNCH, TEAM, SQ, AMASK, PC and reason. -/
def execStoplist (part start : Nat) (s : State) : Out :=
  serve 0x10D [part, start] [] (fun s =>
    match s.badPart part with
    | some n => (s, statusBytes n)
    | none => (s, statusBytes 0 ++ (((s.stoppedParts part).drop start).take 200).flatMap (fun e =>
        leBytes 4 e.2.launch.toNat ++ leBytes 6 e.2.teamBits.toNat ++ leBytes 1 e.2.sq ++ leBytes 2 e.2.amask.toNat ++
          leBytes 4 e.2.pc.toNat ++ leBytes 1 e.2.stop.code))) s

namespace State

/-- The step of a part that began at an instruction count is complete (R362). -/
def stepDone (s : State) (pid n : Nat) : Bool :=
  let p := s.part pid
  !p.live || p.step.isNone || p.stop != .step ||
    (p.issues != n && p.st == .ready && p.pend.isEmpty && p.umask == 0 && !p.mi.on)

/-- End a step: the part is not eligible, a package released for it stops again, and the request is answered with PC,
AMASK and, when a trap was taken, TCAUSE (R405, R409). -/
def endStep (s : State) (seq pid pkg : Nat) : State :=
  let p := s.part pid
  let cause := if p.live && p.step.isNone then p.tcause else 0
  let s1 := if p.live then s.setPart pid { p with step := none } else s
  let s2 := if s1.mg.restop then s1.stopPkg pkg else s1
  ({ s2 with mg := { s2.mg with serving := none, restop := false } } : State).respond 0x10E seq
    (statusBytes 0 ++ leBytes 4 p.pc.toNat ++ leBytes 2 p.amask.toNat ++ leBytes 1 cause)

end State

/-- STEP (R362, R405, R409): begins a step of one stopped part, and is answered when the step is complete. -/
def execDbgStep (part : Nat) (launch : Word) (team : BitVec 48) (sq lane : Nat) (s : State) : Out :=
  match s.request 0x10E [part, launch.toNat, team.toNat, sq, lane] [] with
  | none => .next s
  | some seq =>
    let s0 := s.taken 0
    let refuse := fun (s : State) (n : Nat) => Host.Outcome.next (s.respond 0x10E seq (statusBytes n))
    match s.badPart part, s.findStopped part launch team sq lane with
    | some n, _ => refuse s0 n
    | _, none => refuse s0 3
    | _, some (pid, p) =>
      let pkg := unitPkg p.unit
      let halted := s0.pkgStopped pkg
      if halted && !(s0.dbgctl pkg).getLsbD 4 then refuse (s0.dbgBit pkg 6 true) 4
      else
        let s1 := s0.setPart pid { p with stop := .step, step := some p.issues }
        let s2 := if halted then s1.releasePkg pkg else s1
        .next { s2 with mg := { s2.mg with serving := some (0x10E, seq, [pid, p.issues, pkg]), restop := halted } }

/-- A stopped part becomes eligible again; the comparator that stopped it does not match again until it has issued the instruction it
stands at (R406). -/
def Part.continued (p : Part) : Part :=
  { p with
    stop := .run
    bpPass := match p.stop with
      | .hwBreak n => some (n, p.pc)
      | _ => p.bpPass }

/-- CONTINUE (R405, R406): one stopped part, or every stopped part of a launch. -/
def execDbgContinue (part : Nat) (launch : Word) (one : Option (BitVec 48 × Nat × Nat)) (s : State) : Out :=
  serveFor 0x10F part (launch.toNat :: (match one with
      | some (team, sq, lane) => [0, team.toNat, sq, lane]
      | none => [1])) [] (fun s =>
    let ps := match one with
      | some (team, sq, lane) => (s.findStopped part launch team sq lane).toList
      | none => (s.stoppedParts part).filter (fun e => e.2.launch == launch)
    if ps.isEmpty then (s, 3) else (ps.foldl (fun (s : State) e => s.setPart e.1 e.2.continued) s, 0)) s

/-! ### Samples (R402) -/

namespace State

/-- Write a record to a ring with a control block laid out as that of an error queue, or raise DROPS (R330, R402). -/
def ringPut (s : State) (prt : Nat) (q cap : Nat) (r : List Byte) : State :=
  match s.mgmtRead prt q 0 24 with
  | none => s
  | some ctl =>
    let wr := fieldOf ctl 0 8
    if cap = 0 then s
    else if (wr + 2 ^ 64 - fieldOf ctl 8 8) % 2 ^ 64 < cap then
      let dst := (q + 64 + r.length * (wr % cap)) % 2 ^ 64
      if s.mgmtCanWrite prt dst r.length && s.mgmtCanWrite prt q 8 then
        (s.mgmtWrite prt dst r).mgmtWrite prt q (leBytes 8 (wr + 1))
      else s
    else s.mgmtWrite prt (q + 16) (leBytes 8 (fieldOf ctl 16 8 + 1))

/-- Copy the records of a buffer in order, as far as their partitions have a ring; the rest stays. -/
def copySamples (s : State) : List (List Byte) → State × List (List Byte)
  | [] => (s, [])
  | r :: rs =>
    let prt := fieldOf r 23 1 % 8
    match (s.partition prt).ring with
    | none => (s, r :: rs)
    | some (va, cap) => (s.ringPut prt va.toNat cap r).copySamples rs

end State

/-- SAMPLE_COPY (R402). -/
def execSampleCopy (u : Nat) (s : State) : Out :=
  let b := Store.get [] s.dbg.smp u
  let r := s.copySamples b
  .next { r.1 with dbg := { r.1.dbg with
    smp := Store.set [] r.1.dbg.smp u r.2
    smpHead := Store.set 0 r.1.dbg.smpHead u ((Store.get 0 r.1.dbg.smpHead u + (b.length - r.2.length)) % 256) } }

/-- PROFRING (R402): the partition's profile ring. -/
def execProfring (part : Nat) (va : DWord) (cap : Nat) (s : State) : Out :=
  serveFor 0x106 part [va.toNat, cap] [] (fun s => (s.setPartition part { s.partition part with ring := some (va, cap) }, 0)) s

/-- SMPLOST_READ (R7, R411): the count is returned and cleared. -/
def execSmplostRead (u : Nat) (s : State) : Out :=
  let o := dbgOff u 0x48
  .next { s.setUreg u o 0 with hostData := leBytes 4 (s.ureg u o).toNat }

end Sys2Proof.Machine
end

