-- ==== Sys2Proof/Machine/Shake.lean ====
section
/-! DEFINITION. SHAKE256 (FIPS 202), which R395 to R397 and R418 name.  Its constants are computed as the standard defines
them, by a shift register and by a walk over the lanes, and are not tables here. -/

namespace Sys2Proof.Machine

/-- The shift register of ι after `t` steps: eight bits, whose bit 8 feeds bits 0, 4, 5 and 6. -/
def iotaReg : Nat → Nat
  | 0 => 1
  | t + 1 =>
    let y := 2 * iotaReg t
    if y < 256 then y else Nat.xor (y - 256) 113

/-- The bits ι adds in round `r`: position 2^j - 1 takes the low bit of the register after j + 7r steps. -/
def iotaBits (r : Nat) : Nat :=
  (List.range 7).foldl (fun acc j => acc + iotaReg (j + 7 * r) % 2 * 2 ^ (2 ^ j - 1)) 0

/-- The walk of ρ: after `t` steps from lane (1, 0), the lane (x, y) reached. -/
def rhoLane : Nat → Nat × Nat
  | 0 => (1, 0)
  | t + 1 => let q := rhoLane t; (q.2, (2 * q.1 + 3 * q.2) % 5)

/-- How far ρ turns lane (x, y): the triangular number of the step at which the walk meets it; lane (0, 0) stays. -/
def rhoTurn (x y : Nat) : Nat :=
  match (List.range 24).find? (fun t => rhoLane t == (x, y)) with
  | some t => (t + 1) * (t + 2) / 2 % 64
  | none => 0

/-- Lane (x, y) of a state of 1,600 bits. -/
def spongeLane (st : List DWord) (x y : Nat) : DWord := st.getD (5 * (y % 5) + x % 5) 0

/-- A state from its lanes. -/
def spongeOf (f : Nat → Nat → DWord) : List DWord :=
  [0, 1, 2, 3, 4].flatMap (fun y => [0, 1, 2, 3, 4].map (fun x => f x y))

/-- One round of the permutation: the column parities are added (θ), each lane is turned and moved (ρ, π), rows are mixed
(χ), and lane (0, 0) takes the round's bits (ι). -/
def spongeRound (st : List DWord) (r : Nat) : List DWord :=
  let parity := [0, 1, 2, 3, 4].map (fun x => [0, 1, 2, 3, 4].foldl (fun p y => p ^^^ spongeLane st x y) 0)
  let col := fun x => parity.getD (x % 5) 0
  let mixed := spongeOf (fun x y => spongeLane st x y ^^^ col (x + 4) ^^^ (col (x + 1)).rotateLeft 1)
  let moved := spongeOf (fun x y =>
    let fromX := (x + 3 * y) % 5
    (spongeLane mixed fromX x).rotateLeft (rhoTurn fromX x))
  spongeOf (fun x y =>
    let row := fun k => spongeLane moved (x + k) y
    let v := row 0 ^^^ (row 2 &&& ~~~row 1)
    if x = 0 ∧ y = 0 then v ^^^ BitVec.ofNat 64 (iotaBits r) else v)

/-- All rounds. -/
def spongePermute (st : List DWord) : List DWord := (List.range 24).foldl spongeRound st

/-- Take in `n` blocks of 136 bytes, each added to the first seventeen lanes. -/
def spongeTake (st : List DWord) (bs : List Byte) : Nat → List DWord
  | 0 => st
  | n + 1 =>
    let lane := fun x y => if 5 * y + x < 17 then BitVec.ofNat 64 (leNat ((bs.drop (8 * (5 * y + x))).take 8)) else 0
    spongeTake (spongePermute (spongeOf (fun x y => spongeLane st x y ^^^ lane x y))) (bs.drop 136) n

/-- Padding: the suffix 1111 of SHAKE, then 1, zeros and 1 up to a whole block. -/
def spongePad (bs : List Byte) : List Byte :=
  let n := 136 - bs.length % 136
  bs ++ leBytes n (0x1F + 0x80 * 2 ^ (8 * (n - 1)))

/-- SHAKE256 of a message, `n` bytes of output (at most 136). -/
def shake256 (bs : List Byte) (n : Nat) : List Byte :=
  let p := spongePad bs
  ((spongeTake (List.replicate 25 0) p (p.length / 136)).flatMap (fun l => leBytes 8 l.toNat)).take n

end Sys2Proof.Machine
end

