-- ==== Sys2Proof/Machine/Partitions.lean ====
section
/-! DEFINITION. Partitions (R382 to R384, R389): CREATE and TEARDOWN; keys and attestation (R392, R393, R397); the replay mode
(R412). -/

namespace Sys2Proof.Machine

/-! ### The descriptor (R382) -/

def descHome (d : List Byte) (k : Nat) : Nat := fieldOf d (64 + 8 * k) 8

/-- Limits of one descriptor (R382). -/
def descBad (d : List Byte) : Bool :=
  let f := fieldOf d
  decide (8 ≤ f 0 1) || decide (4 ≤ f 1 1) || decide (4096 < f 2 2) || decide (32 < f 4 1) || decide (64 ≤ f 5 1) ||
    decide (64 ≤ f 6 1) || f 7 1 != 0 || f 8 4 == 0 || decide (1000000 < f 8 4) || decide (f 12 4 < 100) ||
    decide (1000000 < f 12 4) || decide (60 < f 34 1) || decide (60 < f 35 1) || decide (60 < f 36 1) ||
    decide (min (f 34 1) (f 35 1) < f 37 1) || anyByte d 38 26 ||
    (List.range 64).any (fun k => decide (2 ^ 48 ≤ descHome d k))

/-- A hub of a package: granules and cores it grants; a partition with a granule holds a core (R383). -/
def hubBad (x : Nat) : Bool :=
  (bitsOf x 27 16 != 0 && bitsOf x 43 40 == 0) || (bitsOf x 39 28 != 0 && bitsOf x 47 44 == 0)

namespace State

/-- Partitions that exist. -/
def livePartitions (s : State) : List Partition := ((List.range 8).map s.partition).filter (fun p => p.ex)

/-- Sum of a descriptor field over the partitions that exist and a new one (R389). -/
def descSum (s : State) (d : List Byte) (off n : Nat) : Nat :=
  fieldOf d off n + (s.livePartitions.map (fun p => fieldOf p.desc off n)).sum

/-- CREATE is refused (R382, R383, R389, R421). -/
def createBad (s : State) (d : List Byte) : Bool :=
  descBad d || s.mg.boot != 9 || (s.partition (fieldOf d 0 1)).ex || decide (60 < s.descSum d 34 1) ||
    decide (60 < s.descSum d 35 1) || decide (60 < s.descSum d 36 1) || decide (4096 < s.descSum d 2 2) ||
    decide (256 < s.descSum d 4 1) ||
    (List.range 64).any (fun k =>
      let x := descHome d k
      x != 0 && (!s.mg.pkgs.contains k || hubBad x || (x % 2 ^ 40 &&& Store.get 0 s.mg.failed k) != 0 ||
        s.livePartitions.any (fun p => (x % 2 ^ 40 &&& (Store.get 0 p.homes k).toNat) != 0 ||
          (x / 2 ^ 40 &&& (Store.get 0 p.hubCores k).toNat) != 0)))

/-! ### What creation and teardown do to the machine (R384) -/

/-- Zeroise a range of memory. -/
def wipe (s : State) (a n : Nat) : State :=
  let inside := fun (x sz : Nat) => decide (a ≤ x * sz) && decide (x * sz < a + n)
  { s.zeroBytes a n with
    memKey := s.memKey.filter (fun e => !inside e.1 64)
    ecc := s.ecc.filter (fun e => !inside e.1 32)
    poisonMark := s.poisonMark.filter (fun e => !inside e.1 1)
    codeOld := s.codeOld.filter (fun e => !inside e.1 1) }

/-- Zeroise every home and granule of a partition (R384). -/
def wipePartition (s : State) (prt : Nat) : State :=
  (s.partCtrls prt).foldl (fun (s : State) x =>
    if isStack x.1 then s.wipe (unitBase x.1) (2 ^ 45)
    else s.wipe (unitBase x.1 + x.2 * 2 ^ 38) (if x.2 = 11 then 2 ^ 38 - 2 ^ 30 else 2 ^ 38)) s

/-- Units whose tables a partition's accesses use: its units, and every hub. -/
def tableUnits (s : State) (prt : Nat) : List Nat := (s.hubs ++ s.partUnits prt).eraseDups

/-- Write PTROOT of a partition (R384). -/
def writeRoot (s : State) (prt : Nat) (x : DWord) : State :=
  (s.tableUnits prt).foldl (fun (s : State) u => s.setUreg u (0x20000 + 8 * prt) x) s

/-- Number the stacks, then the hub shares, from 0 (R337, R361). -/
def writeVmap (s : State) (prt : Nat) : State :=
  let us := (s.partUnits prt).filter isStack ++ (s.partUnits prt).filter isHub
  s.allUnits.foldl (fun (s : State) u =>
    (us.zipIdx).foldl (fun (s : State) x => s.setVmap u prt x.1 (0x8000 + x.2)) s) s

/-- Cores that may run a partition: unit and core (R60, R383). -/
def partCores (s : State) (prt : Nat) : List (Nat × Nat) :=
  (s.partUnits prt).flatMap (fun u => (s.coresOf u prt).map (fun c => (u, c)))

/-- Set the class-0 limiters of a partition, each bucket full (R74, R389). -/
def writeLimits (s : State) (prt rate burst : Nat) : State :=
  (s.partCores prt).foldl (fun (s : State) x =>
    let s1 := s.setUreg x.1 (c0Off x.1 x.2 prt) (BitVec.ofNat 64 (rate + 65536 * burst))
    { s1 with fab := { s1.fab with
      level := Store.set 0 s1.fab.level (c0Key x.1 x.2 prt) burst
      gained := Store.set 0 s1.fab.gained (c0Key x.1 x.2 prt) (s.cycAt x.1 / 1024) } }) s

/-- RATE of each core (R389). -/
def limitRate (s : State) (prt : Nat) : Nat :=
  min 65535 (48 * fieldOf (s.partition prt).desc 37 1 / max 1 (s.partCores prt).length)

/-! ### Slot tables (R388, R389) -/

/-- Give a partition the first `n` free slots of a table. -/
def ownSlots (prt : Nat) : Nat → List Byte → List Byte
  | _, [] => []
  | 0, bs => bs
  | n + 1, b :: bs =>
    if b.getLsbD 3 then b :: ownSlots prt (n + 1) bs else BitVec.ofNat 8 (8 + prt) :: ownSlots prt n bs

/-- Free the slots of a table that a partition owns. -/
def releaseSlots (prt : Nat) (bs : List Byte) : List Byte := bs.map (fun b => if b % 16 = BitVec.ofNat 8 (8 + prt) then 0 else b)

/-- The links of a unit with the descriptor byte that gives their slots (R382, R389): links 0 to 3 of the mesh, and at a hub
links 8 to 15 of the fabric and the egress of Ethernet ports 16 to 19 (log 24). -/
def slotLinks (u : Nat) : List (Nat × Nat) :=
  (List.range 4).map (fun l => (l, 34)) ++
    (if isHub u then (List.range 8).map (fun l => (8 + l, 35)) ++ (List.range 4).map (fun l => (16 + l, 36)) else [])

/-- Rewrite the slots of a link that partitions may own: 0 to 59 (R387). -/
def mapSlots (s : State) (u l : Nat) (f : List Byte → List Byte) : State :=
  let bs := s.uregBytes u (0x2000 + 0x40 * l) 8
  s.setUregBytes u (0x2000 + 0x40 * l) (f (bs.take 60) ++ bs.drop 60) 8

/-- Give a partition its share of every slot table (R384, R389). -/
def writeSlots (s : State) (prt : Nat) : State :=
  s.allUnits.foldl (fun (s : State) u =>
    (slotLinks u).foldl (fun (s : State) l =>
      match fieldOf (s.partition prt).desc l.2 1 with
      | 0 => s
      | n + 1 => s.mapSlots u l.1 (ownSlots prt (n + 1))) s) s

/-- Free a partition's share of every slot table (R384). -/
def clearSlots (s : State) (prt : Nat) : State :=
  s.allUnits.foldl (fun (s : State) u =>
    (slotLinks u).foldl (fun (s : State) l =>
      if fieldOf (s.partition prt).desc l.2 1 = 0 then s else s.mapSlots u l.1 (releaseSlots prt)) s) s

/-- Reset the registers of a unit in a range of offsets. -/
def clearRegs (s : State) (u off n : Nat) : State :=
  { s with uregs := s.uregs.filter (fun e => !(decide (regIx u off ≤ e.1) && decide (e.1 < regIx u off + n))) }

/-- The partition a descriptor defines (R382); what firmware sets of its own choice is free (log 23). -/
def newPartition (d : List Byte) : Partition :=
  let prt := fieldOf d 0 1
  let table := fun (f : Nat → Nat) => (List.range 64).filterMap (fun k =>
    if f (descHome d k) = 0 then Option.none else some (k, f (descHome d k)))
  { Partition.absent with
    ex := true
    secure := (fieldOf d 1 1).testBit 0
    desc := d
    homes := (table (fun x => x % 2 ^ 40)).map (fun e => (e.1, BitVec.ofNat 40 e.2))
    hubCores := (table (fun x => x / 2 ^ 40 % 256)).map (fun e => (e.1, BitVec.ofNat 8 e.2))
    cwbase := Config.windowBase prt
    cwsize := Config.windowUnits prt % 257 * 65536
    plimit := fieldOf d 8 4 * 1900
    pkill := (fieldOf d 1 1).testBit 1 }

/-- Create a partition (R384, R389, R392, R410). -/
def create (s : State) (d : List Byte) : State :=
  let prt := fieldOf d 0 1
  let s1 := (s.setPartition prt (newPartition d)).wipePartition prt
  let s2 := (s1.partCtrls prt).foldl (fun (s : State) x => s.setKey x.1 x.2 prt 0 ((Config.drawn s1.ctr).toNat + 1)) s1
  let s3 := (s2.writeRoot prt ((Config.newRoot prt &&& 0x00FFFFFFFFFF8000) ||| 1)).writeVmap prt
  let s4 := ((s3.writeSlots prt).writeLimits prt (s3.limitRate prt) 64).pokeBytes (descSpa prt) d
  (s4.mg.pkgs.foldl (fun (s : State) k => s.dbgBit k 5 false) { s4 with ctr := s4.ctr + 1 })

end State

/-- CREATE (R382 to R384, R389). -/
def execCreate (s : State) : Out :=
  serve 0x101 [] [] (fun s =>
    let d := s.argBytes 576
    if (s.partition (fieldOf d 0 1)).closing.isSome then (s, statusBytes 1)
    else if s.createBad d then (s, statusBytes 5)
    else (s.create d, statusBytes 0)) s

namespace State

/-- Teams of a partition. -/
def partTeams (s : State) (prt : Nat) : List (Nat × Team) := s.teams.filter (fun e => e.2.v && e.2.prt == prt)

/-- Kill every team of a partition that is not being killed, its saved images too (R384 step 1). -/
def killTeams (s : State) (prt : Nat) : State :=
  let s1 := (s.partTeams prt).foldl (fun (s : State) e =>
    if e.2.killed then s else (s.setTeam e.1 { e.2 with killed := true, frozen := false }).loseTeam e.1 0xFF 4) s
  let imgs := s1.mg.images.filterMap (fun e => match e.2 with
    | some i => if i.team.prt == prt then some (e.1, i) else none
    | none => none)
  let s2 := imgs.foldl (fun (s : State) e => s.errorRecord (lkey prt e.2.team.launch) e.2.team 0xFF 4 0 0 0) s1
  { s2 with mg := { s2.mg with images := s2.mg.images.filter (fun e => !imgs.any (fun i => i.1 == e.1)) } }

/-- No context, posted request, command or remote request of a partition remains, and its stacks have ended their RSCMD
(R19, R105, R384 step 2). -/
def drained (s : State) (prt : Nat) : Bool :=
  (s.partTeams prt).isEmpty && s.parts.all (fun e => e.2.prt != prt || !e.2.live) &&
    s.net.remotes.all (fun e => match e.2 with | some r => r.prt != prt | none => true) &&
    s.fab.posted.all (fun e => match e.2 with | some r => r.prt != prt | none => true) &&
    !(s.partStacks prt).any s.rsBusy

/-- Forget what the translation units and instruction caches hold of a partition (log 24). -/
def forget (s : State) (prt : Nat) : State :=
  let keep := fun (e : Nat × List Tlb) => (e.1, e.2.filter (fun t => t.prt != prt))
  { s with
    tr := { s.tr with
      l1 := (s.tr.l1.map keep).filter (fun e => !e.2.isEmpty)
      utlb := (s.tr.utlb.map keep).filter (fun e => !e.2.isEmpty)
      wtlb := (s.tr.wtlb.map keep).filter (fun e => !e.2.isEmpty)
      nl := (s.tr.nl.map (fun e => (e.1, e.2.filter (fun t => t.prt != prt)))).filter (fun e => !e.2.isEmpty) }
    icache := s.icache.filter (fun e => e.1 / 2 ^ 64 % 8 != prt) }

/-- Step 3 of a teardown (R384): homes and granules, the reuse slots through KIND 1 (R105), the parking areas, and what the
firmware keeps of the partition (log 32). -/
def zeroise (s : State) (prt : Nat) : State :=
  let s1 := (s.partStacks prt).foldl rsDone (s.wipePartition prt)
  let s2 := ((s1.partUnits prt).filter isHub).foldl (fun (s : State) u => s.wipe (parkSpa u prt 0) (2 ^ 26)) s1
  ((s2.wipe (descSpa prt) 0x1000).wipe (peerSpa prt 0) 0x20000).wipe (winSpa prt 0) 0x20000

/-- Steps 3 to 5 of a teardown (R384). -/
def teardown (s : State) (prt : Nat) : State :=
  let cs := s.partCtrls prt
  let s1 := cs.foldl (fun (s : State) x =>
    (((List.range 16).foldl (fun (s : State) k => s.setKey x.1 x.2 prt k 0) s).revokeEnd x.1 x.2 prt).clearRegs x.1
      (keyOff x.1 x.2 prt) 0x1000) (s.zeroise prt)
  let s2 := ((s1.clearSlots prt).writeRoot prt 0).writeLimits prt 0 0
  let s3 := s2.allUnits.foldl (fun (s : State) u => s.clearRegs u (0x18000 + 0x1000 * prt) 0x1000) s2
  let s4 := ((s3.clearRegs 16 (lqOff prt 0) 0x200).clearRegs (fnUnit (prt + 1)) 0 0x10000).forget prt
  let g := s4.mg
  let d := s4.dbg
  let off := fun (k : Nat) => k % 8 != prt
  { s4.setPartition prt Partition.absent with
    mg := { g with
      parts := Store.set Partition.absent g.parts prt Partition.absent
      launches := g.launches.filter (fun e => e.2.prt != prt)
      binds := g.binds.filter (fun b => !cs.any (fun c => c.1 == b.unit))
      recs := g.recs.filter (fun b => !cs.any (fun c => c.1 == b.1))
      mbox := Store.set Mbox.empty g.mbox (prt + 1) Mbox.empty
      service := g.service.filter (fun e => e.1 != prt) }
    net := { s4.net with rates := s4.net.rates.filter (fun r => r.prt != prt) }
    dbg := { d with
      olog := d.olog.filter (fun e => off e.1)
      follow := d.follow.filter (fun e => off e.1)
      followAt := d.followAt.filter (fun e => off e.1)
      followTick := d.followTick.filter (fun e => off e.1)
      touched := d.touched.filter (fun e => e.1 / 2 ^ 32 != prt)
      replay := Store.set Replay.none d.replay prt Replay.none } }

end State

/-- TEARDOWN (R384, R428): the teams are killed; once nothing of the partition remains it is zeroised and removed, and the
request is answered.  Another TEARDOWN of a partition that is being torn down is refused with status 1. -/
def execTeardown (part : Nat) (s : State) : Out :=
  match (s.partition part).closing with
  | some seq =>
    match s.request 0x102 [part] [] with
    | some again => .next ((s.taken 0).respond 0x102 again (statusBytes 1))
    | none =>
    if s.drained part then .next ((s.teardown part).respond 0x102 seq (statusBytes 0)) else .next (s.killTeams part)
  | none =>
    match s.request 0x102 [part] [] with
    | none => .next s
    | some seq =>
      let s1 := s.taken 0
      if !(s1.partition part).ex || 8 ≤ part then .next (s1.respond 0x102 seq (statusBytes 5))
      else .next ((s1.setPartition part { s1.partition part with closing := some seq }).killTeams part)

/-! ### Keys and attestation (R392, R393, R397) -/

/-- Key slots live at every controller of a partition. -/
def State.klive (s : State) (prt : Nat) : Nat :=
  (List.range 16).foldl (fun a k => a + (if (s.partCtrls prt).all (fun c => s.keyLive c.1 c.2 prt k) then 2 ^ k else 0)) 0

/-- Bytes 0 to 247 of an attestation report (R397). -/
def reportBody (s : State) (prt : Nat) (nonce : List Byte) (pair : Nat) : List Byte :=
  let p := s.partition prt
  [0x4B, 0x41, 0x52, 0x37] ++ leBytes 1 prt ++ leBytes 1 (if p.secure then 1 else 0) ++ leBytes 2 0 ++
    leBytes 8 s.tick.toNat ++ leBytes 32 (leNat nonce) ++ leBytes 64 (leNat s.mg.fwMeas) ++ leBytes 4 s.mg.fwSvn ++
    leBytes 4 0 ++ shake256 p.desc 64 ++ leBytes 2 (s.klive prt) ++ leBytes 6 0 ++ leBytes 56 (Config.transportPublic pair)

/-- ATTEST (R397): the report with a new transport key pair, and the alias certificate. -/
def execAttest (part : Nat) (nonce : List Byte) (s : State) : Out :=
  serve 0x103 [part] (leBytes 32 (leNat nonce)) (fun s =>
    match s.badPart part with
    | some n => (s, statusBytes n)
    | none =>
      let body := reportBody s part nonce s.ids
      let sig := leBytes 114 (Config.signReport s.mg.aliasSeed body)
      let s1 := s.setPartition part { s.partition part with transport := s.ids }
      ({ s1 with ids := s1.ids + 1 },
        body ++ sig ++ leBytes 22 0 ++ Config.aliasCert s.mg.aliasSeed s.mg.fwMeas s.mg.fwSvn)) s

/-- KEYLOAD (R392): a wrapped key that authenticates under the latest transport key is loaded into a slot at every
controller; a slot that is live is refused (log 23). -/
def execKeyload (part slot : Nat) (wrapped : List Byte) (s : State) : Out :=
  serveFor 0x104 part [slot] wrapped (fun s =>
    let pair := (s.partition part).transport
    let cs := s.partCtrls part
    match (if pair = 0 ∨ wrapped.length ≠ 72 ∨ 16 ≤ slot then none else Config.unwrapKey pair wrapped) with
    | none => (s, 5)
    | some x =>
      if cs.any (fun c => s.keyLive c.1 c.2 part slot) then (s, 5)
      else (cs.foldl (fun (s : State) c => s.putKey c.1 c.2 part slot (leBytes 64 x)) s, 0)) s

/-- A KSTAT or RSSTAT of the partition shows BUSY (R393). -/
def State.revokeBusy (s : State) (prt : Nat) : Bool :=
  (s.partStacks prt).any s.rsBusy || (s.partCtrls prt).any (fun c => s.revokes c.1 c.2 prt)

/-- REVOKE (R393): the slot is revoked at every controller and its reuse slots are zeroised; answered when every command
is complete. -/
def execRevoke (part slot : Nat) (s : State) : Out :=
  match s.request 0x105 [part, slot] [] with
  | none => .next s
  | some seq =>
    match s.badPart part with
    | some n => .next ((s.taken 0).respond 0x105 seq (statusBytes n))
    | none =>
      if slot = 0 || 16 ≤ slot then .next ((s.taken 0).respond 0x105 seq (statusBytes 5))
      else if s.revokeBusy part then .next s
      else
        let s1 := (s.partCtrls part).foldl (fun (s : State) c => s.revokeSlot c.1 c.2 part slot) (s.taken 0)
        let s2 := (s.partStacks part).foldl (fun (s : State) u => s.rscmd u (s.slotsOf u part (some slot))) s1
        .next { s2 with mg := { s2.mg with serving := some (0x105, seq, [part, slot]) } }

/-- The firmware answers the REVOKE or STEP it serves once the work of it is complete (R393, R405). -/
def State.serveDone (s : State) : State :=
  match s.mg.serving with
  | some (0x105, seq, [part, _]) =>
    if s.revokeBusy part then s
    else ({ s with mg := { s.mg with serving := none } } : State).respond 0x105 seq (statusBytes 0)
  | some (0x10E, seq, [pid, n, pkg]) => if s.stepDone pid n then s.endStep seq pid pkg else s
  | _ => s

/-- REPLAY (R412): the mode to take effect at the next admission: 0 OFF, 1 BULK with T of 1 to 1000 ms, 2 CAPTURE. -/
def execReplay (part mode t : Nat) (s : State) : Out :=
  serveFor 0x107 part [mode, t] [] (fun s =>
    if 3 ≤ mode || (mode = 1 && (t = 0 || 1000 < t)) then (s, 5)
    else (s.setPartition part { s.partition part with replayNext := mode, replayTNext := t }, 0)) s

end Sys2Proof.Machine
end

