-- ==== Sys2Proof/Machine/Power.lean ====
section
/-! DEFINITION. Power caps and issue gating (R422 to R425), and the tick (R4, R408). -/

namespace Sys2Proof.Machine

/-- MGMTSTAT bits W1C of PF0 (R426).  The model keeps one PF0, that of package 0: an improper access at the bridge of another
package sets BRERR there too, which the spec does not say (log 35). -/
def State.setMgmtstat (s : State) (n : Nat) : State := s.setUreg 2048 0x18 (s.ureg 2048 0x18 ||| BitVec.ofNat 64 (2 ^ n))

namespace State

/-- Units whose gate is not at its reset value. -/
def gatedUnits (s : State) : List Nat :=
  (s.uregs.filter (fun e => e.1 % 2 ^ 21 == 0x90010 && decide (e.1 / 2 ^ 21 < 2048))).map (fun e => e.1 / 2 ^ 21)

/-- Every 10,000 cycles a package that runs and is behind gains one tick on the others, at 100 ppm (R380, R409). -/
def catchesUp (s : State) : List Nat :=
  if s.cyc % 10000 = 9999 then s.mg.pkgs.filter (fun k => !s.pkgStopped k && Store.get 0 s.lag k != 0) else []

/-- The servo's slew makes the tick stay for a cycle, or gain one (R380). -/
def slews (s : State) (up : Bool) : Bool :=
  let a := if up then s.net.slew else -s.net.slew
  decide (0 < a) && (if up then s.tick.toNat else s.cyc) % (1000000 / a.toNat) == 0

/-- Packages whose tick does not advance fall behind by one. -/
def fallBehind (s : State) (ks : List Nat) : Store Nat := ks.foldl (fun m k => Store.set 0 m k (Store.get 0 m k + 1)) s.lag

/-- One cycle (R4, R380, R408, R409, R423): the tick of every package that runs advances by one, but for the servo's slew, and gated
cycles are counted; with every package stopped nothing passes.  The model gives all units of a running package one tick and the
packages no spread but that of stops, where the spec lets ticks differ by up to 1 across a package and 4 across a domain
(log 2). -/
def advance (s : State) : State :=
  let off := s.mg.pkgs.filter s.pkgStopped
  let late := s.catchesUp
  if off.length = s.mg.pkgs.length then s
  else if late.isEmpty && s.slews true then { s with tick := s.tick + 1, lag := s.fallBehind off }
  else
    let s1 := s.gatedUnits.foldl (fun (s : State) u =>
      if gateOpen (s.gate u) (s.cycAt u % 64) || s.pkgStopped (unitPkg u) then s else s.bumpUreg u 0x90030 64 1) s
    let s2 : State := { s1 with
      cyc := s1.cyc + 1
      held := off.foldl (fun m k => Store.set 0 m k (Store.get 0 m k + 1)) s1.held }
    if !late.isEmpty then { s2 with lag := late.foldl (fun m k => Store.set 0 m k (Store.get 0 m k - 1)) s2.lag }
    else if s.slews false then s2
    else { s2 with tick := s2.tick + 1, lag := s2.fallBehind off }

end State

/-- TICK (R4). -/
def execTick (s : State) : Out := .next s.advance

/-- The maximum PCAP of a unit (R424). -/
def capMax (u : Nat) : Nat := if isStack u then 220 else 150

/-- The inputs of an update (R422, R424). -/
structure PowerIn where
  pmeas : Nat
  temp : Nat
  pcap : Nat
  floor : Nat
  warn : Nat
  trip : Nat
  deriving DecidableEq, Repr

/-- The gate and `tripped` after an update, with whether a trip is recorded (R422). -/
def gateNext (x : PowerIn) (tripped : Bool) (g : Nat) : Nat × Bool × Bool :=
  if x.trip ≤ x.temp then (0, true, true)
  else if tripped && decide (x.warn ≤ x.temp) then (0, true, false)
  else if tripped then (x.floor, false, false)
  else if x.warn ≤ x.temp then (x.floor, false, false)
  else if x.pcap < x.pmeas then (max x.floor (g - 4), false, false)
  else if x.pmeas + x.pcap / 16 < x.pcap then (min 64 (g + 1), false, false)
  else (g, false, false)

/-- What the registers of block 9 give an update. -/
def State.powerIn (s : State) (u pmeas temp : Nat) : PowerIn where
  pmeas := pmeas % 65536
  temp := temp % 256
  pcap := min (capMax u) ((s.ureg u 0x90000).toNat % 65536)
  floor := min 64 (max 4 ((s.ureg u 0x90018).toNat % 128))
  warn := (s.ureg u 0x90028).toNat % 256
  trip := min 115 (bitsOf (s.ureg u 0x90028).toNat 15 8)

/-- The update of a unit's power controller for 4096 cycles that have passed is due (R422). -/
def State.updateDue (s : State) (u : Nat) : Bool :=
  decide (Store.get 0 s.mg.powered u < s.cycAt u / 4096) && !s.pkgStopped (unitPkg u)

/-- POWER_UPDATE (R422, R424): once every 4096 cycles, with the average power and the hottest temperature measured; the rise
of a trip interrupts. -/
def execPowerUpdate (u pmeas temp : Nat) (s : State) : Out :=
  if !s.updateDue u || !s.allUnits.contains u then .next s
  else
    let x := s.powerIn u pmeas temp
    let r := gateNext x (Store.get false s.mg.tripped u) (s.gate u)
    let old := s.ureg u 0x90020
    let stat := x.temp + (if x.warn ≤ x.temp then 256 else 0) + (if r.2.2 || old.getLsbD 9 then 512 else 0)
    let s1 := ((s.setUreg u 0x90008 (BitVec.ofNat 64 x.pmeas)).setUreg u 0x90010 (BitVec.ofNat 64 r.1)).setUreg u 0x90020
      (BitVec.ofNat 64 stat)
    let s2 : State := { s1 with mg := { s1.mg with
      tripped := Store.set false s1.mg.tripped u r.2.1
      powered := Store.set 0 s1.mg.powered u (s.cycAt u / 4096) } }
    let rises := r.2.2 && !Store.get false s.mg.tripped u
    let s3 := if rises then s2.irq u .thermal else s2
    .next (if r.2.2 then s3.setMgmtstat 18 else s3)

/-- Sum of PCAP over a package's 18 units, with one unit's replaced (R425). -/
def State.capSum (s : State) (u pcap : Nat) : Nat :=
  ((List.range 18).map (fun h =>
    let v := unitPkg u * 32 + h
    if v = u then pcap else (s.ureg v 0x90000).toNat % 65536)).sum

/-- POWER (R422, R425): refused with status 2 when the sum would exceed 3,400 W. -/
def execPower (u pcap gmin : Nat) (s : State) : Out :=
  serve 0x109 [u, pcap, gmin] [] (fun s =>
    if !s.allUnits.contains u then (s, statusBytes 5)
    else if 3400 < s.capSum u (pcap % 65536) then (s, statusBytes 2)
    else ((s.setUreg u 0x90000 (BitVec.ofNat 64 (pcap % 65536))).setUreg u 0x90018 (BitVec.ofNat 64 (gmin % 128)),
      statusBytes 0)) s

end Sys2Proof.Machine
end

