-- ==== Sys2Proof/Machine/Boot.lean ====
section
/-! DEFINITION. Boot (R395, R396, R420, R421), PF0 status (R426), the fabric domain (R9, R368, R369, R429) and the memory
scrub (R421). -/

namespace Sys2Proof.Machine

/-- POWER_ON (R420 step 1): every register takes its reset value, the tick starts at 0, memory holds nothing (log 6). -/
def execPowerOn (s : State) : Out :=
  .next { State.reset with
    sched := s.sched
    ids := s.ids
    ctr := s.ctr
    mg := { Mgmt.reset with boot := 1 } }

/-- PF0_RESET (R420): as POWER_ON, with memory as it stood until steps 6 and 7 zero it. -/
def execPf0Reset (s : State) : Out :=
  .next { State.reset with
    sched := s.sched
    ids := s.ids
    ctr := s.ctr
    mem := s.mem
    memKey := s.memKey
    ecc := s.ecc
    mg := { Mgmt.reset with boot := 1 } }

namespace State

/-- Boot stops with a failure code (R420). -/
def bootFail (s : State) (code : Nat) : State := { s with mg := { s.mg with bootCode := code } }
def setBoot (s : State) (n : Nat) : State := { s with mg := { s.mg with boot := n } }

/-- The end of step 8: the domain is formed, and the servo has locked or 10 s of step 8 have passed (R420). -/
def domainUp (s : State) : Bool := s.mg.formed && (s.locked 16 || decide (s.mg.bootAt + 19000000000 ≤ s.cyc))

/-- The signed bytes of the image: header bytes 0 to 79 and the body (R395). -/
def imageSignedBytes (s : State) : List Byte :=
  let len := fieldOf (s.peekBytes imageBase 256) 8 8
  s.peekBytes imageBase 80 ++ s.peekBytes (imageBase + 256) (min len 0x0FFFFF00)

/-- The first verification step of the image that fails, as a code of R420; 0 when all hold (R395). -/
def verifyCode (s : State) : Nat :=
  let h := s.peekBytes imageBase 256
  let pub := (h.drop 16).take 57
  if shake256 pub 64 ≠ Config.rootHash then 2
  else if !Config.imageSigned pub ((h.drop 80).take 114) s.imageSignedBytes then 1
  else if fieldOf h 4 4 < Config.fusedSvn then 3
  else 0

/-- The ROM records FWMEAS and derives the alias key's seed (R395, R396). -/
def measure (s : State) : State :=
  let meas := shake256 s.imageSignedBytes 64
  let svn := s.peekBytes (imageBase + 4) 4
  { s with mg := { s.mg with
    boot := 4
    fwMeas := meas
    fwSvn := leNat svn
    aliasSeed := shake256 (Config.deviceSecret ++ meas ++ svn) 57 } }

end State

/-- FWCTL_GO (R395, R396, R420 steps 3 and 4): ignored after step 3. -/
def execFwctlGo (s : State) : Out :=
  if s.mg.boot ≠ 2 || !s.mg.linkUp || s.mg.bootCode ≠ 0 then .next s
  else
    let c := s.verifyCode
    if c = 0 then .next s.measure else .next ((s.setBoot 3).bootFail c)

/-- BOOT_STEP_END (R420, R421): a step ends, or fails with a code of 1 to 5.  At step 6 bits 39 to 0 of `code` name the stacks and
granules that failed, in the layout of R18, and bits 45 to 40 their package; the step ends with package 0 (log 25). -/
def execBootStepEnd (ok : Bool) (code : Nat) (s : State) : Out :=
  let b := s.mg.boot
  if s.mg.bootCode ≠ 0 then .next s
  else if !ok then .next (if b = 0 || b = 9 || code = 0 || 5 < code then s else s.bootFail code)
  else if b = 1 then .next (s.setBoot 2)
  else if b = 2 then .next { s with mg := { s.mg with linkUp := true } }
  else if b = 4 then .next (s.setBoot 5)
  else if b = 5 then
    let f := code % 2 ^ 40
    let k := code / 2 ^ 40 % 64
    let failed := Store.set 0 s.mg.failed k f
    if k ≠ 0 then .next { s with mg := { s.mg with failed := failed } }
    else
    let s1 : State := { s with
      mem := s.mem.filter (fun e => decide (0x100000000000 ≤ spaOff e.1))
      memKey := []
      ecc := []
      mg := { s.mg with failed := failed } }
    if f % 65536 = 65535 then .next (s1.bootFail 4) else .next (s1.setBoot 6)
  else if b = 6 then
    .next (({ s with
      mem := []
      poisonMark := []
      mg := { s.mg with bootAt := s.cyc } } : State).setBoot 7)
  else if b = 7 then .next (if s.domainUp then s.setBoot 8 else s)
  else if b = 8 then .next (s.setBoot 9)
  else .next s

/-- ERRLOST_READ (R7, R426): the count is returned and cleared. -/
def execErrlostRead (s : State) : Out :=
  .next { s with
    hostData := leBytes 4 s.mg.errLost
    mg := { s.mg with errLost := 0 } }

/-- DRAM_SCRUB (R421), from step 6 of the boot on: a corrected error is counted for its unit; an error that cannot be corrected
leaves its mark (log 9). -/
def execDramScrub (spa : Nat) (corrected : Bool) (s : State) : Out :=
  if s.mg.boot < 6 then .next s
  else if corrected then
    let u := spaUnit spa
    .next { s with mg := { s.mg with scrubbed := Store.set 0 s.mg.scrubbed u (Store.get 0 s.mg.scrubbed u + 1) } }
  else .next { s with ecc := Store.set false s.ecc (spa / 32) true }

/-- The scrub visits a sector, and counts an error that it corrects there (R421, log 9). -/
def execScrubVisit (s : State) : Out :=
  let a := Config.scrubAt s.cyc
  if Config.softErr s.cyc a then execDramScrub (32 * a) true s else .next s

/-! ### The domain (R9, R356, R368 to R370, R429) -/

/-- LINK_DOWN (R369, R370, R429) of a link of a unit: a fabric port sets DOWN in its LNKSTAT, and LINKFAIL is set in MGMTSTAT; the routes
between packages, or with a mesh link those inside its package, no longer stand, and what is on them waits, until the domain is
formed again. -/
def execLinkDown (u link : Nat) (s : State) : Out :=
  let l := link % 16
  let off := 0x30000 + 0x40 * (l - 8)
  let s1 := if isHub u && decide (8 ≤ l) then s.setUreg u off (s.ureg u off ||| 2) else s
  let s2 := s1.setMgmtstat 17
  .next { s2 with mg := { s2.mg with
    formed := s2.mg.formed && decide (l < 8)
    down := Store.set false s2.mg.down (State.linkKey u l) true
    dead := Store.set false s2.mg.dead (State.linkKey u l) true } }

/-- A part stands in a unit that is no longer reached, with the packages `pkgs`: on a core or in a queue there, or on its way
there. -/
def State.inLost (s : State) (pkgs : List Nat) (p : Part) : Bool :=
  let gone := fun (u : Nat) => !pkgs.contains (unitPkg u) || s.cutOff u
  p.live && (gone p.unit || (match p.dest with
    | .unit u => gone u
    | .host u _ _ => gone u
    | .hold u _ _ _ _ => gone u
    | .evict _ => false
    | .none => false))

namespace State

/-- Partitions with something on its way over a route that does not stand (R369, R429). -/
def crossing (s : State) : List Nat :=
  (s.fab.vias.filterMap (fun e => match e.2 with
    | some v => if s.joined v.src v.dst then none else some v.prt
    | none => none)).eraseDups

/-- Teams that new routes wait for (R369): those of partitions with traffic on the routes that fell, not yet frozen. -/
def toFreeze (s : State) : List Nat :=
  (s.teams.filter (fun e =>
    e.2.v && !e.2.killed && !e.2.restarting && !e.2.frozen && s.crossing.contains e.2.prt)).map Prod.fst

/-- The routes stand again, and the teams frozen for them continue (R369). -/
def relinked (s : State) (pkgs : List Nat) : State :=
  let s1 : State := { s with mg := { s.mg with
    pkgs := pkgs
    formed := true
    down := []
    relink := [] } }
  s.mg.relink.foldl (fun (s : State) tk => if (s.team tk).v && (s.team tk).frozen then s.thaw tk else s) s1

end State

/-- DOMAIN_FORM (R9, R356, R368, R369, R429): teams of partitions with traffic on routes that fell are frozen first; then the packages
of the domain and its routes, which avoid the links that are down, are as given, and what waited flows on in its order.  Contexts in a
unit that is not reached are gone, and their teams are lost. -/
def execDomainForm (pkgs : List Nat) (s : State) : Out :=
  if s.mg.boot < 7 || s.mg.bootCode ≠ 0 || !pkgs.contains 0 || pkgs.any (fun k => decide (64 ≤ k)) ||
      decide (pkgs.eraseDups ≠ pkgs) then .next s
  else if !s.toFreeze.isEmpty then
    .next (if s.toFreeze.any s.xfNames then s
      else
        let s1 := s.toFreeze.foldl State.freeze s
        { s1 with mg := { s1.mg with relink := s1.mg.relink ++ s.toFreeze } })
  else
    let lost := s.parts.filter (fun e => s.inLost pkgs e.2)
    let s1 := lost.foldl (fun (s : State) e => s.loseContext e.1) s
    .next (s1.relinked pkgs)

end Sys2Proof.Machine
end

