-- ==== Sys2Proof/Machine/Float.lean ====
section
/-! DEFINITION. Class 0x4 FP32 instructions less the reference algorithms, class 0x5 packed instructions, class 0x6
conversions (R239, R240, R247 to R255). -/

namespace Sys2Proof.Machine

def fpF2 (h : Hdr) (o : F2) (f : Nat → Nat × Fl) (s : State) : Out :=
  issueReg h [(o.a, false)] [(o.d, false)]
    (fun p act => p.run act o.d false (fun l => f (p.valF o.c .f32 o.a l))) s
def fpF3 (h : Hdr) (o : F3) (f : Nat → Nat → Nat × Fl) (s : State) : Out :=
  issueReg h [(o.a, false), (o.b, false)] [(o.d, false)]
    (fun p act => p.run act o.d false (fun l => f (p.valF o.c .f32 o.a l) (p.valF o.c .f32 o.b l))) s
def fpF4 (h : Hdr) (o : F4) (f : Nat → Nat → Nat → Nat × Fl) (s : State) : Out :=
  issueReg h [(o.a, false), (o.b, false), (o.cc, false)] [(o.d, false)]
    (fun p act => p.run act o.d false
      (fun l => f (p.valF 0 .f32 o.a l) (p.valF 0 .f32 o.b l) (p.valF 0 .f32 o.cc l))) s

/-- `fadd` (R239). -/
def execFadd (h : Hdr) (m : FMod) (o : F3) (s : State) : Out := fpF3 h o (fAdd .f32 m) s
/-- `fsub` (R239). -/
def execFsub (h : Hdr) (m : FMod) (o : F3) (s : State) : Out := fpF3 h o (fSub .f32 m) s
/-- `fmul` (R239). -/
def execFmul (h : Hdr) (m : FMod) (o : F3) (s : State) : Out := fpF3 h o (fMul .f32 m) s
/-- `ffma` (R239). -/
def execFfma (h : Hdr) (m : FMod) (o : F4) (s : State) : Out := fpF4 h o (fFma .f32 m) s
/-- `fmin` (R240). -/
def execFmin (h : Hdr) (o : F3) (s : State) : Out := fpF3 h o (fMinMax .f32 false) s
/-- `fmax` (R240). -/
def execFmax (h : Hdr) (o : F3) (s : State) : Out := fpF3 h o (fMinMax .f32 true) s
/-- `fabs` (R239, R196): a bit operation. -/
def execFabs (h : Hdr) (o : F2) (s : State) : Out := fpF2 h o (fun a => (a % 2 ^ 31, 0)) s
/-- `fneg` (R239, R196): a bit operation. -/
def execFneg (h : Hdr) (o : F2) (s : State) : Out := fpF2 h o (fun a => ((a + 2 ^ 31) % 2 ^ 32, 0)) s
/-- `fdiv` (R239). -/
def execFdiv (h : Hdr) (m : FMod) (o : F3) (s : State) : Out := fpF3 h o (fDiv .f32 m) s
/-- `fsqrt` (R239). -/
def execFsqrt (h : Hdr) (m : FMod) (o : F2) (s : State) : Out := fpF2 h o (fSqrt .f32 m) s
/-- `frnd` (R240). -/
def execFrnd (h : Hdr) (rnd : Rnd) (o : F2) (s : State) : Out := fpF2 h o (fRnd rnd) s
/-- `fclass` (R240). -/
def execFclass (h : Hdr) (o : F2) (s : State) : Out := fpF2 h o (fun a => (fClass a, 0)) s
/-- `fcopysign` (R239, R196). -/
def execFcopysign (h : Hdr) (o : F3) (s : State) : Out :=
  fpF3 h o (fun a b => (a % 2 ^ 31 + b / 2 ^ 31 % 2 * 2 ^ 31, 0)) s
/-- `fscale` (R240): B is an integer, so a small constant is its index. -/
def execFscale (h : Hdr) (m : FMod) (o : F3) (s : State) : Out :=
  issueReg h [(o.a, false), (o.b, false)] [(o.d, false)]
    (fun p act => p.run act o.d false (fun l =>
      fScale m (p.valF o.c .f32 o.a l) (num (p.val o.c false o.b l) 32 true))) s

/-! ### Packed instructions (R247) -/

/-- Both 16-bit elements of a result, with their flags. -/
def both (f : Nat → Nat × Fl) : Nat × Fl := ((f 0).1 + (f 1).1 * 2 ^ 16, (f 0).2 ||| (f 1).2)
/-- Element i of a packed 16-bit register. -/
def half (x i : Nat) : Nat := x / 2 ^ (16 * i) % 2 ^ 16

def pkF3 (h : Hdr) (f : Fmt) (o : F3) (op : Nat → Nat → Nat × Fl) (s : State) : Out :=
  issueReg h [(o.a, false), (o.b, false)] [(o.d, false)]
    (fun p act => p.run act o.d false (fun l =>
      both (fun i => op (half (p.valP o.c f o.a l) i) (half (p.valP o.c f o.b l) i)))) s
def pkF4 (h : Hdr) (f : Fmt) (o : F4) (op : Nat → Nat → Nat → Nat × Fl) (s : State) : Out :=
  issueReg h [(o.a, false), (o.b, false), (o.cc, false)] [(o.d, false)]
    (fun p act => p.run act o.d false (fun l =>
      both (fun i => op (half (p.valP 0 f o.a l) i) (half (p.valP 0 f o.b l) i) (half (p.valP 0 f o.cc l) i)))) s

/-- `f16add` (R247). -/
def execF16add (h : Hdr) (m : FMod) (o : F3) (s : State) : Out := pkF3 h .f16 o (fAdd .f16 m) s
/-- `f16mul` (R247). -/
def execF16mul (h : Hdr) (m : FMod) (o : F3) (s : State) : Out := pkF3 h .f16 o (fMul .f16 m) s
/-- `f16fma` (R247). -/
def execF16fma (h : Hdr) (m : FMod) (o : F4) (s : State) : Out := pkF4 h .f16 o (fFma .f16 m) s
/-- `f16min` (R247). -/
def execF16min (h : Hdr) (o : F3) (s : State) : Out := pkF3 h .f16 o (fMinMax .f16 false) s
/-- `f16max` (R247). -/
def execF16max (h : Hdr) (o : F3) (s : State) : Out := pkF3 h .f16 o (fMinMax .f16 true) s
/-- `b16add` (R247). -/
def execB16add (h : Hdr) (m : FMod) (o : F3) (s : State) : Out := pkF3 h .bf16 o (fAdd .bf16 m) s
/-- `b16mul` (R247). -/
def execB16mul (h : Hdr) (m : FMod) (o : F3) (s : State) : Out := pkF3 h .bf16 o (fMul .bf16 m) s
/-- `b16fma` (R247). -/
def execB16fma (h : Hdr) (m : FMod) (o : F4) (s : State) : Out := pkF4 h .bf16 o (fFma .bf16 m) s
/-- `b16min` (R247). -/
def execB16min (h : Hdr) (o : F3) (s : State) : Out := pkF3 h .bf16 o (fMinMax .bf16 false) s
/-- `b16max` (R247). -/
def execB16max (h : Hdr) (o : F3) (s : State) : Out := pkF3 h .bf16 o (fMinMax .bf16 true) s

/-- The dot forms: Σ aᵢ × bᵢ + c with one rounding (R248). -/
def fdot (m : FMod) (fa fb : Fmt) (n : Nat) (a b c : Nat) : Nat × Fl :=
  let ps := (List.range n).map (fun i => fprod (fval fa (getElem fa a i)) (fval fb (getElem fb b i)))
  fsum .f32 m.rnd m.sat (ps.map Prod.fst ++ [fval .f32 c]) (ps.foldl (fun x p => x ||| p.2) 0)

def dotF4 (h : Hdr) (m : FMod) (fa fb : Fmt) (n : Nat) (o : F4) (s : State) : Out :=
  issueReg h [(o.a, false), (o.b, false), (o.cc, false)] [(o.d, false)]
    (fun p act => p.run act o.d false (fun l =>
      fdot m fa fb n (p.valP 0 fa o.a l) (p.valP 0 fb o.b l) (p.valF 0 .f32 o.cc l))) s

/-- `fdot2` (R248). -/
def execFdot2 (h : Hdr) (m : FMod) (o : F4) (s : State) : Out := dotF4 h m .f16 .f16 2 o s
/-- `bdot2` (R248). -/
def execBdot2 (h : Hdr) (m : FMod) (o : F4) (s : State) : Out := dotF4 h m .bf16 .bf16 2 o s
/-- `qdot4` (R248). -/
def execQdot4 (h : Hdr) (m : FMod) (fa fb : Bool) (o : F4) (s : State) : Out :=
  dotF4 h m (if fa then .e5m2 else .e4m3) (if fb then .e5m2 else .e4m3) 4 o s

/-- `fcmp2` (R249). -/
def execFcmp2 (h : Hdr) (cond : FCond) (bf : Bool) (o : F3) (s : State) : Out :=
  let f : Fmt := if bf then .bf16 else .f16
  pkF3 h f o (fun a b => (if (fCond f cond a b).1 then 0xFFFF else 0, (fCond f cond a b).2)) s

/-! ### Conversions (class 0x6) -/

/-- Issue as long when `long`, else as short (R145, R250). -/
def issueBy (long : Bool) (h : Hdr) (srcs dsts : List (Opnd × Bool)) (d : Opnd) (w64 : Bool)
    (f : Part → Nat → Nat × Fl) (s : State) : Out :=
  if long then issueLong h srcs dsts (fun p id act => p.runLong id act d w64 (f p)) s
  else issueReg h srcs dsts (fun p act => p.run act d w64 (f p)) s

/-- Element `i` of a source of format `src`; a small constant stands in every element (R171), and one its MX format does
not hold exactly has an unstated code (log 16). -/
def srcElem (p : Part) (c : Word) (src : Fmt) (o : Opnd) (l i : Nat) : Nat :=
  match o with
  | .k n =>
    let r := ofInt src .rne true n.val
    if r.2 = 0 then r.1 else (Config.mxConst (codeOf src fmts) n.val).toNat % 2 ^ fmtBits src
  | o => getElem src (p.val c false o l) i

/-- `cvt` (R251): one element converted; other elements of a narrower destination are kept. -/
def execCvt (h : Hdr) (m : FMod) (src dst : Fmt) (o : F3) (s : State) : Out :=
  let sel := match o.b with | .k n => n.val | _ => 0
  let keep := dst != .f32
  issueBy (src.isMx || dst.isMx) h (if keep then [(o.a, false), (o.d, false)] else [(o.a, false)]) [(o.d, false)] o.d false
    (fun p l =>
      let r := convert dst m.rnd m.sat (fval src (srcElem p o.c src o.a l (sel % 8)))
      if keep then (putElem dst (p.val o.c false o.d l) (sel / 8) r.1, r.2) else r) s

/-- `i2f` (R252, R202). -/
def execI2f (h : Hdr) (m : FMod) (t : IType) (dst : Fmt) (o : F2) (s : State) : Out :=
  issueReg h [(o.a, t.w.is64)] [(o.d, false)]
    (fun p act => p.run act o.d false (fun l =>
      ofInt dst m.rnd m.sat (num (p.val o.c t.w.is64 o.a l) (bitsW t.w) t.sg))) s

/-- `f2i` (R252, R201). -/
def execF2i (h : Hdr) (rnd : Rnd) (t : IType) (src : Fmt) (o : F2) (s : State) : Out :=
  issueReg h [(o.a, false)] [(o.d, t.w.is64)]
    (fun p act => p.run act o.d t.w.is64 (fun l =>
      let r := toInt (bitsW t.w) t.sg rnd (fval src (p.valF o.c src o.a l % 2 ^ fmtBits src))
      (intResult t false r.1, r.2))) s

/-- `pk` (R253): two elements from A and B; the rest of a narrower destination is kept.  Under `.raw` a small constant gives the bits of
its index (log 38). -/
def execPk (h : Hdr) (m : FMod) (raw : Bool) (dst : Fmt) (pos : Fin 4) (o : F3) (s : State) : Out :=
  let keep := dst.count != 2
  issueBy dst.isMx h ([(o.a, false), (o.b, false)] ++ (if keep then [(o.d, false)] else [])) [(o.d, false)] o.d false
    (fun p l =>
      let one := fun (x : Opnd) =>
        if raw then (p.val o.c false x l % 2 ^ fmtBits dst, (0 : Fl))
        else convert dst m.rnd m.sat (fval .f32 (p.valF o.c .f32 x l))
      let d := if keep then p.val o.c false o.d l else 0
      (putElem dst (putElem dst d (2 * pos.val) (one o.a).1) (2 * pos.val + 1) (one o.b).1,
        (one o.a).2 ||| (one o.b).2)) s

/-- `upk` (R253).  A small constant gives its code in the source format, under `.raw` too (log 38). -/
def execUpk (h : Hdr) (src : Fmt) (elem : Fin 8) (raw : Bool) (o : F2) (s : State) : Out :=
  issueBy src.isMx h [(o.a, false)] [(o.d, false)] o.d false
    (fun p l =>
      let c := srcElem p o.c src o.a l elem.val
      if raw then (c, 0) else convert .f32 .rne false (fval src c)) s

/-- `mxq` (R254, R92, R203): lane l supplies positions 2l and 2l + 1 of one block; the scale goes to an s register. -/
def execMxq (h : Hdr) (fmt : Fmt) (d a sc : Opnd) (s : State) : Out :=
  issueLong h [(a, true)] [(d, false)]
    (fun p id act =>
      let ls := lanesOf act
      let xs := ls.flatMap (fun l =>
        let v := p.val 0 true a l
        [fval .f32 (v % 2 ^ 32), fval .f32 (v / 2 ^ 32)])
      let r := quantBlock fmt xs
      let ix := fun l => (ls.takeWhile (fun j => j != l)).length
      let code := fun i => r.2.1.getD i 0
      let q := p.runLong id act d false (fun l =>
        (putElem fmt (putElem fmt 0 0 (code (2 * ix l))) 1 (code (2 * ix l + 1)), r.2.2))
      match sc, q.pend.getLast? with
      | .s n, some e => { q with pend := q.pend.dropLast ++ [{ e with svals := [(n.val, BitVec.ofNat 32 r.1)] }] }
      | _, _ => q) s

/-- `mxd` (R255). -/
def execMxd (h : Hdr) (rnd : Rnd) (fmt : Fmt) (o : F3) (s : State) : Out :=
  issueLong h [(o.a, false), (o.b, false)] [(o.d, true)]
    (fun p id act => p.runLong id act o.d true (fun l =>
      let x := p.val o.c false o.b l % 256
      let a := p.val o.c false o.a l
      let one := fun i => convert .f32 rnd false (scaled fmt (getElem fmt a i) x)
      ((one 0).1 + (one 1).1 * 2 ^ 32, (one 0).2 ||| (one 1).2))) s

end Sys2Proof.Machine
end

