-- ==== Sys2Proof/Machine/Integer.lean ====
section
/-! DEFINITION. Class 0x0, integer instructions (R204 to R213). -/

namespace Sys2Proof.Machine

/-- The common pattern of R205 over exact integers. -/
def intOp (m : IMod) (p : Part) (act : Mask) (d : Opnd) (w64 : Bool) (f : Nat → Int) : Part :=
  p.run act d w64 (fun l => (intResult m.t m.sat (f l), 0))

/-- Operand `o` of lane `l` as a number of the instruction's type (R205). -/
def opnum (m : IMod) (p : Part) (c : Word) (o : Opnd) (l : Nat) : Int :=
  num (p.val c m.t.w.is64 o l) (bitsW m.t.w) m.t.sg

def intF2 (h : Hdr) (m : IMod) (o : F2) (f : Int → Int) (s : State) : Out :=
  issueReg h [(o.a, m.t.w.is64)] [(o.d, m.t.w.is64)]
    (fun p act => intOp m p act o.d m.t.w.is64 (fun l => f (opnum m p o.c o.a l))) s

def intF3 (h : Hdr) (m : IMod) (o : F3) (f : Int → Int → Int) (s : State) : Out :=
  issueReg h [(o.a, m.t.w.is64), (o.b, m.t.w.is64)] [(o.d, m.t.w.is64)]
    (fun p act => intOp m p act o.d m.t.w.is64 (fun l => f (opnum m p o.c o.a l) (opnum m p o.c o.b l))) s

def intF4 (h : Hdr) (m : IMod) (o : F4) (f : Int → Int → Int → Int) (s : State) : Out :=
  issueReg h [(o.a, m.t.w.is64), (o.b, m.t.w.is64), (o.cc, m.t.w.is64)] [(o.d, m.t.w.is64)]
    (fun p act => intOp m p act o.d m.t.w.is64
      (fun l => f (opnum m p 0 o.a l) (opnum m p 0 o.b l) (opnum m p 0 o.cc l))) s

/-- `nop` (R213). -/
def execNop (h : Hdr) (s : State) : Out := issueReg h [] [] (fun p _ => p) s

/-- `add` (R206). -/
def execAdd (h : Hdr) (m : IMod) (o : F3) (s : State) : Out :=
  intF3 h m o (fun a b => a + b) s

/-- `sub` (R206). -/
def execSub (h : Hdr) (m : IMod) (o : F3) (s : State) : Out :=
  intF3 h m o (fun a b => a - b) s

/-- The carry chain of R207: `x` is the exact result from a, b and the carry in; `co` the carry out. -/
def carryOp (h : Hdr) (o : F4) (x : Int → Int → Int → Int) (co : Int → Bool) (s : State) : Out :=
  issueReg h [(o.a, false), (o.b, false)] [(o.d, false)]
    (fun p act =>
      let r := fun l => x (p.val 0 false o.a l) (p.val 0 false o.b l) (if (p.pmask o.cc).getLsbD l then 1 else 0)
      let q := p.run act o.d false (fun l => ((r l % 2 ^ 32).toNat, 0))
      match o.cc with
      | .p n => q.putPred n.val act (fun l => co (r l))
      | _ => q) s

/-- `addc` (R207). -/
def execAddc (h : Hdr) (o : F4) (s : State) : Out :=
  carryOp h o (fun a b ci => a + b + ci) (fun x => decide (2 ^ 32 ≤ x)) s

/-- `subb` (R207). -/
def execSubb (h : Hdr) (o : F4) (s : State) : Out :=
  carryOp h o (fun a b ci => a - b - ci) (fun x => decide (x < 0)) s

/-- `mul` (R206). -/
def execMul (h : Hdr) (m : IMod) (o : F3) (s : State) : Out :=
  intF3 h m o (fun a b => a * b) s

/-- `mulh` (R206). -/
def execMulh (h : Hdr) (m : IMod) (o : F3) (s : State) : Out :=
  intF3 h m o (fun a b => (a * b) / 2 ^ 32) s

/-- `mad` (R206). -/
def execMad (h : Hdr) (m : IMod) (o : F4) (s : State) : Out :=
  intF4 h m o (fun a b c => a * b + c) s

/-- `madw` (R208). -/
def execMadw (h : Hdr) (sg : Bool) (o : F4) (s : State) : Out :=
  issueReg h [(o.a, false), (o.b, false), (o.cc, true)] [(o.d, true)]
    (fun p act => p.run act o.d true (fun l =>
      (((num (p.val 0 false o.a l) 32 sg * num (p.val 0 false o.b l) 32 sg + p.val 0 true o.cc l) % 2 ^ 64).toNat, 0))) s

/-- `div` (R206, R188). -/
def execDiv (h : Hdr) (m : IMod) (o : F3) (s : State) : Out :=
  intF3 h m o (fun a b => divQ (bitsW m.t.w) m.t.sg a b) s

/-- `rem` (R206, R188). -/
def execRem (h : Hdr) (m : IMod) (o : F3) (s : State) : Out :=
  intF3 h m o (fun a b => divR (bitsW m.t.w) m.t.sg a b) s

/-- `neg` (R206). -/
def execNeg (h : Hdr) (m : IMod) (o : F2) (s : State) : Out :=
  intF2 h m o (fun a => -a) s

/-- `abs` (R206). -/
def execAbs (h : Hdr) (m : IMod) (o : F2) (s : State) : Out :=
  intF2 h m o (fun a => (a.natAbs : Int)) s

/-- `min` (R206). -/
def execMin (h : Hdr) (m : IMod) (o : F3) (s : State) : Out :=
  intF3 h m o (fun a b => min a b) s

/-- `max` (R206). -/
def execMax (h : Hdr) (m : IMod) (o : F3) (s : State) : Out :=
  intF3 h m o (fun a b => max a b) s

/-- `sad` (R206). -/
def execSad (h : Hdr) (m : IMod) (o : F4) (s : State) : Out :=
  intF4 h m o (fun a b c => ((a - b).natAbs : Int) + c) s

/-- `lea` (R209). -/
def execLea (h : Hdr) (shift : Fin 8) (sx : Bool) (o : F3) (s : State) : Out :=
  issueReg h [(o.a, true), (o.b, false)] [(o.d, true)]
    (fun p act => p.run act o.d true (fun l =>
      ((((p.val o.c true o.a l : Int) + num (p.val o.c false o.b l) 32 sx * 2 ^ shift.val) % 2 ^ 64).toNat, 0))) s

/-- `add64` (R206). -/
def execAdd64 (h : Hdr) (m : IMod) (o : F3) (s : State) : Out :=
  intF3 h m o (fun a b => a + b) s

/-- `sub64` (R206). -/
def execSub64 (h : Hdr) (m : IMod) (o : F3) (s : State) : Out :=
  intF3 h m o (fun a b => a - b) s

/-- `mov` (R210). -/
def execMov (h : Hdr) (w64 : Bool) (o : F2) (s : State) : Out :=
  issueReg h [(o.a, w64)] [(o.d, w64)] (fun p act => p.run act o.d w64 (fun l => (p.val o.c w64 o.a l, 0))) s

/-- `movi` (R210): val(A,l) + l × val(B,l). -/
def execMovi (h : Hdr) (o : F3) (s : State) : Out :=
  issueReg h [(o.a, false), (o.b, false)] [(o.d, false)]
    (fun p act => p.run act o.d false (fun l => ((p.val o.c false o.a l + l * p.val o.c false o.b l) % 2 ^ 32, 0))) s

/-- `movw` (R210): half of D is kept, so D is also a source. -/
def execMovw (h : Hdr) (hi : Bool) (o : F2) (s : State) : Out :=
  issueReg h [(o.a, false), (o.d, false)] [(o.d, false)]
    (fun p act => p.run act o.d false (fun l =>
      let x := p.val o.c false o.a l % 2 ^ 16
      let d := p.val o.c false o.d l
      (if hi then d % 2 ^ 16 + x * 2 ^ 16 else d / 2 ^ 16 * 2 ^ 16 + x, 0))) s

/-- `sel` (R211). -/
def execSel (h : Hdr) (w64 : Bool) (o : F4) (s : State) : Out :=
  issueReg h [(o.a, w64), (o.b, w64)] [(o.d, w64)]
    (fun p act => p.run act o.d w64 (fun l =>
      (if (p.pmask o.cc).getLsbD l then p.val 0 w64 o.a l else p.val 0 w64 o.b l, 0))) s

/-- `iclamp` (R206). -/
def execIclamp (h : Hdr) (m : IMod) (o : F4) (s : State) : Out :=
  intF4 h m o (fun a b c => if b > c then c else min (max a b) c) s

/-- Σ aᵢ × bᵢ over `n` elements of `w` bits (R212). -/
def dotSum (w n : Nat) (sa sb : Bool) (a b : Nat) : Int :=
  (List.range n).foldl (fun x i => x + num (a / 2 ^ (w * i)) w sa * num (b / 2 ^ (w * i)) w sb) 0

/-- The integer dot products with a `.s32` accumulator (R212). -/
def dotOp (h : Hdr) (w n : Nat) (sa sb sat : Bool) (o : F4) (s : State) : Out :=
  issueReg h [(o.a, false), (o.b, false), (o.cc, false)] [(o.d, false)]
    (fun p act => p.run act o.d false (fun l =>
      (intResult ⟨.w32, true⟩ sat
        (num (p.val 0 false o.cc l) 32 true + dotSum w n sa sb (p.val 0 false o.a l) (p.val 0 false o.b l)), 0))) s

/-- `dot4` (R212). -/
def execDot4 (h : Hdr) (sa sb sat : Bool) (o : F4) (s : State) : Out := dotOp h 8 4 sa sb sat o s

/-- `dot2` (R212).  A small constant stands in element 0, as in `dot4` (R171 does not say so, log 38). -/
def execDot2 (h : Hdr) (sa sb sat : Bool) (o : F4) (s : State) : Out := dotOp h 16 2 sa sb sat o s

end Sys2Proof.Machine
end

