-- ==== Sys2Proof/Machine/Lane.lean ====
section
/-! DEFINITION. Class 0x2, compares, predicates and lane instructions (R229 to R238). -/

namespace Sys2Proof.Machine

/-- BOP of the compares (R230). -/
def bopB (b : BOp) (t x : Bool) : Bool :=
  match b with
  | .none => t
  | .and => t && x
  | .or => t || x
  | .xor => t != x

/-- Write predicate D from a test of each lane, combined under BOP, and raise flags (R230, R231). -/
def cmpOp (h : Hdr) (w64 : Bool) (pc : Fin 8) (bop : BOp) (o : F3) (t : Part → Nat → Bool × Fl) (s : State) : Out :=
  issueReg h [(o.a, w64), (o.b, w64)] []
    (fun p act =>
      let q := (lanesOf act).foldl (fun (q : Part) l => q.raise (t p l).2) p
      match o.d with
      | .p n => q.putPred n.val act (fun l => bopB bop (t p l).1 ((p.pred pc.val).getLsbD l))
      | _ => q) s

/-- `cmp` (R230). -/
def execCmp (h : Hdr) (t : IType) (cond : Cond) (pc : Fin 8) (bop : BOp) (o : F3) (s : State) : Out :=
  cmpOp h false pc bop o (fun p l =>
    (condInt cond (num (p.val o.c false o.a l) (bitsW t.w) t.sg) (num (p.val o.c false o.b l) (bitsW t.w) t.sg), 0)) s

/-- `cmp64` (R230). -/
def execCmp64 (h : Hdr) (sg : Bool) (cond : Cond) (pc : Fin 8) (bop : BOp) (o : F3) (s : State) : Out :=
  cmpOp h true pc bop o (fun p l =>
    (condInt cond (num (p.val o.c true o.a l) 64 sg) (num (p.val o.c true o.b l) 64 sg), 0)) s

/-- `fcmp` (R231). -/
def execFcmp (h : Hdr) (cond : FCond) (pc : Fin 8) (bop : BOp) (o : F3) (s : State) : Out :=
  cmpOp h false pc bop o (fun p l => fCond .f32 cond (p.valF o.c .f32 o.a l) (p.valF o.c .f32 o.b l)) s

/-- A predicate operation of two sources, each inverted on request (R232). -/
def predOp (h : Hdr) (na nb : Bool) (o : F3) (f : Bool → Bool → Bool) (s : State) : Out :=
  issueReg h [] []
    (fun p act =>
      match o.d with
      | .p n => p.putPred n.val act (fun l => f ((p.pmask o.a).getLsbD l != na) ((p.pmask o.b).getLsbD l != nb))
      | _ => p) s

/-- `pand` (R232). -/
def execPand (h : Hdr) (na nb : Bool) (o : F3) (s : State) : Out := predOp h na nb o (fun a b => a && b) s
/-- `por` (R232). -/
def execPor (h : Hdr) (na nb : Bool) (o : F3) (s : State) : Out := predOp h na nb o (fun a b => a || b) s
/-- `pxor` (R232). -/
def execPxor (h : Hdr) (na nb : Bool) (o : F3) (s : State) : Out := predOp h na nb o (fun a b => a != b) s

/-- `pnot` (R232). -/
def execPnot (h : Hdr) (o : F2) (s : State) : Out :=
  issueReg h [] []
    (fun p act =>
      match o.d with
      | .p n => p.putPred n.val act (fun l => !(p.pmask o.a).getLsbD l)
      | _ => p) s

/-- `pmov` (R232): a non-predicate source supplies bits [15:0]; an s destination takes all 16 bits. -/
def execPmov (h : Hdr) (o : F2) (s : State) : Out :=
  issueReg h [] []
    (fun p act =>
      let m : Mask := BitVec.ofNat 16 (p.val o.c false o.a 0)
      match o.d with
      | .p n => p.putPred n.val act (fun l => m.getLsbD l)
      | .s n => p.writeS n.val (m.setWidth 32)
      | _ => p) s

/-- The value of `vote` (R233). -/
def voteVal (m : VoteMode) (b act : Mask) : Nat :=
  match m with
  | .some => bit (b != 0)
  | .each => bit (b == act)
  | .agree => bit (b == 0 || b == act)
  | .mask => b.toNat
  | .count => (lanesOf b).length
  | .first => (lanesOf b).headD 16

/-- `vote` (R233). -/
def execVote (h : Hdr) (mode : VoteMode) (na : Bool) (o : F2) (s : State) : Out :=
  issueReg h [] [(o.d, false)]
    (fun p act =>
      let b := (if na then ~~~ (p.pmask o.a) else p.pmask o.a) &&& act
      let x := voteVal mode b act
      match o.d with
      | .p n => p.putPred n.val act (fun _ => x == 1)
      | d => p.run act d false (fun _ => (x, 0))) s

/-- Source lane of `shfl` (R235). -/
def shflLane (m : ShflMode) (w l b : Nat) : Nat :=
  let r := l % w
  let base := l - r
  match m with
  | .from => base + b % w
  | .back => if b ≤ r then l - b else l
  | .fwd => if r + b < w then l + b else l
  | .mirr => base + r ^^^ (b % w)
  | .rot => base + (r + b) % w

/-- `shfl` (R235, R236): every source lane is read before any write; an inactive source gives the lane its own value. -/
def execShfl (h : Hdr) (mode : ShflMode) (grp : Fin 4) (w64 : Bool) (o : F3) (s : State) : Out :=
  issueLong h [(o.a, w64), (o.b, false)] [(o.d, w64)]
    (fun p id act => p.runLong id act o.d w64 (fun l =>
      let j := shflLane mode (16 / 2 ^ grp.val) l (p.val o.c false o.b l)
      (p.val o.c w64 o.a (if act.getLsbD j then j else l), 0))) s

/-- `vtos` (R234): lane j is read when it is in AMASK, whether or not the instruction acts on it. -/
def execVtos (h : Hdr) (w64 : Bool) (o : F3) (s : State) : Out :=
  issueReg h [(o.a, w64), (o.b, false)] []
    (fun p act =>
      let j := p.val o.c false o.b 0 % 16
      p.run act o.d w64 (fun _ => (if p.amask.getLsbD j then p.val o.c w64 o.a j else 0, 0))) s

/-- `stov` (R234). -/
def execStov (h : Hdr) (w64 : Bool) (o : F3) (s : State) : Out :=
  issueReg h [(o.a, w64), (o.b, false)] [(o.d, w64)]
    (fun p act =>
      let j := p.val o.c false o.b 0 % 16
      p.run (act &&& BitVec.ofNat 16 (2 ^ j)) o.d w64 (fun _ => (p.val o.c w64 o.a 0, 0))) s

/-- `amask` (R234). -/
def execAmask (h : Hdr) (d : Opnd) (s : State) : Out :=
  issueReg h [] [] (fun p act => p.run act d false (fun _ => (act.toNat, 0))) s

/-- OP of `prefix` and `reduce` with its flags (R237). -/
def redStep (op : RedOp) (t : IType) (rnd : Rnd) (acc a : Nat) : Nat × Fl :=
  let n := bitsW t.w
  match op with
  | .add => ((acc + a) % 2 ^ n, 0)
  | .min => (if num a n t.sg < num acc n t.sg then a else acc, 0)
  | .max => (if num acc n t.sg < num a n t.sg then a else acc, 0)
  | .and => (acc &&& a, 0)
  | .or => (acc ||| a, 0)
  | .xor => (acc ^^^ a, 0)
  | .fadd => fAdd .f32 ⟨rnd, false⟩ acc a

/-- Identities (R237): the exclusive identity of `.fadd` is −0. -/
def redIdent (op : RedOp) (t : IType) : Nat :=
  let n := bitsW t.w
  match op with
  | .add => 0
  | .min => (intMax n t.sg % 2 ^ n).toNat
  | .max => (intMin n t.sg % 2 ^ n).toNat
  | .and => 2 ^ n - 1
  | .or => 0
  | .xor => 0
  | .fadd => 0x80000000

/-- Running results: exclusive and inclusive value and flags of each lane, in ascending lane order (R237). -/
def scan (op : RedOp) (t : IType) (rnd : Rnd) (val : Nat → Nat) :
    List Nat → Option Nat → List (Nat × Nat × Nat × Fl)
  | [], _ => []
  | l :: ls, none => (l, redIdent op t, val l, 0) :: scan op t rnd val ls (some (val l))
  | l :: ls, some acc =>
    let r := redStep op t rnd acc (val l)
    (l, acc, r.1, r.2) :: scan op t rnd val ls (some r.1)

/-- `prefix` (R237). -/
def execPrefixScan (h : Hdr) (op : RedOp) (t : IType) (excl : Bool) (rnd : Rnd) (o : F2) (s : State) : Out :=
  issueLong h [(o.a, t.w.is64)] [(o.d, t.w.is64)]
    (fun p id act =>
      let r := scan op t rnd (fun l => p.val o.c t.w.is64 o.a l) (lanesOf act) none
      p.runLong id act o.d t.w.is64 (fun l =>
        match r.find? (fun e => e.1 == l) with
        | some e => (if excl then e.2.1 else e.2.2.1, e.2.2.2)
        | none => (0, 0))) s

/-- `reduce` (R237). -/
def execReduce (h : Hdr) (op : RedOp) (t : IType) (rnd : Rnd) (o : F2) (s : State) : Out :=
  issueLong h [(o.a, t.w.is64)] [(o.d, t.w.is64)]
    (fun p id act =>
      let r := scan op t rnd (fun l => p.val o.c t.w.is64 o.a l) (lanesOf act) none
      let fl := r.foldl (fun (a : Fl) e => a ||| e.2.2.2) 0
      let x := (r.getLast?.map (fun e => e.2.2.1)).getD 0
      p.runLong id act o.d t.w.is64 (fun _ => (x, fl))) s

/-- `match` (R238): the lanes of `act` that hold the same bits. -/
def execMatchV (h : Hdr) (w64 : Bool) (o : F2) (s : State) : Out :=
  issueLong h [(o.a, w64)] [(o.d, false)]
    (fun p id act => p.runLong id act o.d false (fun l =>
      ((maskOf (fun j => act.getLsbD j && p.val o.c w64 o.a j == p.val o.c w64 o.a l)).toNat, 0))) s

end Sys2Proof.Machine
end

