-- ==== Sys2Proof/Machine/Logic.lean ====
section
/-! DEFINITION. Class 0x1, logic and bit instructions (R214 to R218). -/

namespace Sys2Proof.Machine

/-- A two-source bit operation on 32 or 64 bits (R214). -/
def bitF3 (h : Hdr) (w64 : Bool) (o : F3) (f : DWord → DWord → DWord) (s : State) : Out :=
  issueReg h [(o.a, w64), (o.b, w64)] [(o.d, w64)]
    (fun p act => p.run act o.d w64 (fun l =>
      ((f (BitVec.ofNat 64 (p.val o.c w64 o.a l)) (BitVec.ofNat 64 (p.val o.c w64 o.b l))).toNat, 0))) s

/-- `and` (R214). -/
def execAndB (h : Hdr) (w64 : Bool) (o : F3) (s : State) : Out := bitF3 h w64 o (fun a b => a &&& b) s

/-- `or` (R214). -/
def execOrB (h : Hdr) (w64 : Bool) (o : F3) (s : State) : Out := bitF3 h w64 o (fun a b => a ||| b) s

/-- `xor` (R214). -/
def execXorB (h : Hdr) (w64 : Bool) (o : F3) (s : State) : Out := bitF3 h w64 o (fun a b => a ^^^ b) s

/-- `andn` (R214). -/
def execAndn (h : Hdr) (w64 : Bool) (o : F3) (s : State) : Out := bitF3 h w64 o (fun a b => a &&& ~~~b) s

/-- `orn` (R214). -/
def execOrn (h : Hdr) (w64 : Bool) (o : F3) (s : State) : Out := bitF3 h w64 o (fun a b => a ||| ~~~b) s

/-- A one-source bit operation; `dw` is the destination's width (R214, R217). -/
def bitF2 (h : Hdr) (w64 dw : Bool) (o : F2) (f : Nat → Nat) (s : State) : Out :=
  issueReg h [(o.a, w64)] [(o.d, dw)] (fun p act => p.run act o.d dw (fun l => (f (p.val o.c w64 o.a l), 0))) s

/-- `not` (R214). -/
def execNotB (h : Hdr) (w64 : Bool) (o : F2) (s : State) : Out :=
  bitF2 h w64 w64 o (fun a => (~~~ (BitVec.ofNat 64 a)).toNat) s

/-- Bit i of the result is bit aᵢ + 2bᵢ + 4cᵢ of FN (R215). -/
def bfn3 (fn : Byte) (a b c : Nat) : Nat :=
  (List.range 32).foldl (fun x i =>
    x + (if fn.getLsbD ((a / 2 ^ i % 2) + 2 * (b / 2 ^ i % 2) + 4 * (c / 2 ^ i % 2)) then 2 ^ i else 0)) 0

/-- `bfn3` (R215). -/
def execBfn3 (h : Hdr) (fn : Byte) (o : F4) (s : State) : Out :=
  issueReg h [(o.a, false), (o.b, false), (o.cc, false)] [(o.d, false)]
    (fun p act => p.run act o.d false (fun l =>
      (bfn3 fn (p.val 0 false o.a l) (p.val 0 false o.b l) (p.val 0 false o.cc l), 0))) s

/-- A shift: the amount is the whole 32-bit value of B (R216). -/
def shiftOp (h : Hdr) (w64 : Bool) (o : F3) (f : Nat → Nat → Nat) (s : State) : Out :=
  issueReg h [(o.a, w64), (o.b, false)] [(o.d, w64)]
    (fun p act => p.run act o.d w64 (fun l => (f (p.val o.c w64 o.a l) (p.val o.c false o.b l), 0))) s

/-- a << s over n bits, 0 when s ≥ n. -/
def shlN (n a k : Nat) : Nat := if n ≤ k then 0 else a * 2 ^ k % 2 ^ n
/-- a >> s with zeros in, 0 when s ≥ n. -/
def shrN (n a k : Nat) : Nat := if n ≤ k then 0 else a % 2 ^ n / 2 ^ k
/-- a >> s with copies of the top bit in. -/
def sarN (n a k : Nat) : Nat := (num a n true / 2 ^ (min k n) % 2 ^ n).toNat
/-- a rotated left by s mod 32. -/
def rotl32 (a k : Nat) : Nat := (a * 2 ^ (k % 32) % 2 ^ 32) + a % 2 ^ 32 / 2 ^ (32 - k % 32)

/-- `shl` (R216). -/
def execShl (h : Hdr) (o : F3) (s : State) : Out := shiftOp h false o (fun a k => shlN 32 a k) s

/-- `shr` (R216). -/
def execShr (h : Hdr) (o : F3) (s : State) : Out := shiftOp h false o (fun a k => shrN 32 a k) s

/-- `sar` (R216). -/
def execSar (h : Hdr) (o : F3) (s : State) : Out := shiftOp h false o (fun a k => sarN 32 a k) s

/-- `rotl` (R216). -/
def execRotl (h : Hdr) (o : F3) (s : State) : Out := shiftOp h false o (fun a k => rotl32 a k) s

/-- `rotr` (R216). -/
def execRotr (h : Hdr) (o : F3) (s : State) : Out := shiftOp h false o (fun a k => rotl32 a (32 - k % 32)) s

/-- `shl64` (R216). -/
def execShl64 (h : Hdr) (o : F3) (s : State) : Out := shiftOp h true o (fun a k => shlN 64 a k) s

/-- `shr64` (R216). -/
def execShr64 (h : Hdr) (o : F3) (s : State) : Out := shiftOp h true o (fun a k => shrN 64 a k) s

/-- `sar64` (R216). -/
def execSar64 (h : Hdr) (o : F3) (s : State) : Out := shiftOp h true o (fun a k => sarN 64 a k) s

/-- One bits of the low n bits. -/
def popN (n a : Nat) : Nat := (List.range n).foldl (fun x i => x + a / 2 ^ i % 2) 0
/-- Leading zeros over n bits. -/
def clzN (n a : Nat) : Nat := n - nlen (a % 2 ^ n)
/-- Trailing zeros over n bits, n for zero. -/
def ctzN (n a : Nat) : Nat := ((List.range n).find? (fun i => a / 2 ^ i % 2 == 1)).getD n
/-- Bit order reversed over n bits. -/
def revN (n a : Nat) : Nat := (List.range n).foldl (fun x i => x + (a / 2 ^ i % 2) * 2 ^ (n - 1 - i)) 0

/-- `clz` (R217). -/
def execClz (h : Hdr) (w64 : Bool) (o : F2) (s : State) : Out :=
  bitF2 h w64 false o (fun a => clzN (if w64 then 64 else 32) a) s

/-- `ctz` (R217). -/
def execCtz (h : Hdr) (w64 : Bool) (o : F2) (s : State) : Out :=
  bitF2 h w64 false o (fun a => ctzN (if w64 then 64 else 32) a) s

/-- `popc` (R217). -/
def execPopc (h : Hdr) (w64 : Bool) (o : F2) (s : State) : Out :=
  bitF2 h w64 false o (fun a => popN (if w64 then 64 else 32) a) s

/-- `brev` (R217). -/
def execBrev (h : Hdr) (w64 : Bool) (o : F2) (s : State) : Out :=
  bitF2 h w64 w64 o (fun a => revN (if w64 then 64 else 32) a) s

/-- `bfx` result (R218). -/
def bfx (sg : Bool) (a ctl : Nat) : Nat :=
  let pos := ctl % 256
  let len := ctl / 256 % 256
  let e := min len (32 - pos)
  if len = 0 ∨ 32 ≤ pos then 0 else (num (a / 2 ^ pos) e sg % 2 ^ 32).toNat

/-- `bfi` result (R218). -/
def bfi (a b ctl : Nat) : Nat :=
  let pos := ctl % 256
  let len := ctl / 256 % 256
  let e := min len (32 - pos)
  if len = 0 ∨ 32 ≤ pos then b
  else b - (b / 2 ^ pos % 2 ^ e) * 2 ^ pos + (a % 2 ^ e) * 2 ^ pos

/-- `bfx` (R218). -/
def execBfx (h : Hdr) (sg : Bool) (o : F3) (s : State) : Out :=
  shiftOp h false o (fun a c => bfx sg a c) s

/-- `bfi` (R218). -/
def execBfi (h : Hdr) (o : F4) (s : State) : Out :=
  issueReg h [(o.a, false), (o.b, false), (o.cc, false)] [(o.d, false)]
    (fun p act => p.run act o.d false (fun l =>
      (bfi (p.val 0 false o.a l) (p.val 0 false o.b l) (p.val 0 false o.cc l), 0))) s

/-- `bsel` (R214). -/
def execBsel (h : Hdr) (w64 : Bool) (o : F4) (s : State) : Out :=
  issueReg h [(o.a, w64), (o.b, w64), (o.cc, w64)] [(o.d, w64)]
    (fun p act => p.run act o.d w64 (fun l =>
      let a := BitVec.ofNat 64 (p.val 0 w64 o.a l)
      let b := BitVec.ofNat 64 (p.val 0 w64 o.b l)
      let c := BitVec.ofNat 64 (p.val 0 w64 o.cc l)
      (((a &&& c) ||| (b &&& ~~~c)).toNat, 0))) s

end Sys2Proof.Machine
end

