-- ==== Sys2Proof/Machine/Reference.lean ====
section
/-! DEFINITION. The reference algorithms of `frcp`, `frsq`, `fexp2` and `flog2` (R241 to R245), bit for bit. -/

namespace Sys2Proof.Machine

/-- `rne(x, FP32)` as an exact value. -/
def rne32 (d : Dy) (st : Bool := false) : Dy :=
  let r := rnd .f32 .rne (decide (d.m < 0)) d.m.natAbs d.e st
  ⟨if d.m < 0 then -(r.k : Int) else r.k, r.q⟩
/-- `fma32(a, b, c)` (R241). -/
def fma32 (a b c : Dy) : Dy := rne32 ((a.mul b).add c)
def Dy.neg (a : Dy) : Dy := ⟨-a.m, a.e⟩
def Dy.one : Dy := ⟨1, 0⟩
/-- The value of FP32 bits. -/
def f32 (c : Nat) : Dy := (fval .f32 c).dy

/-- TR[i] = rne(256 / (257 + 2i), FP32) (R242). -/
def tabTR (i : Nat) : Dy := let q := divMag 256 0 (257 + 2 * i) 0; rne32 ⟨q.1, q.2.1⟩ q.2.2
/-- TQ[i] (R243): 1/√x of x = (129 + 2j) × 2^q / 128 is never dyadic, so the sticky bit is set. -/
def tabTQ (i : Nat) : Dy := rne32 ⟨isqrt (128 * 2 ^ 200 / ((129 + 2 * (i % 64)) * 2 ^ (i / 64))), -100⟩ true
/-- TL[i] (R245): 1/c_i rounded, 1.0 at both ends. -/
def tabTL (i : Nat) : Dy :=
  if i = 0 ∨ i = 127 then Dy.one
  else let q := divMag (if i < 64 then 128 else 256) 0 (128 + i) 0; rne32 ⟨q.1, q.2.1⟩ q.2.2

def tabLH0 : List Nat :=
  [0x00000000, 0x3C37F28B, 0x3CB73CB3, 0x3D08E68D, 0x3D35D690, 0x3D626FCC, 0x3D8759C9, 0x3D9D5182, 0x3DB31FB7,
  0x3DC8C50D, 0x3DDE420E, 0x3DF3975C, 0x3E0462C4, 0x3E0EE690, 0x3E195751, 0x3E23B551, 0x3E2E00D1, 0x3E383A17,
  0x3E42615F, 0x3E4C76EA, 0x3E567AEF, 0x3E606DB6, 0x3E6A4F70, 0x3E74205F, 0x3E7DE0B5, 0x3E83C856, 0x3E88983F,
  0x3E8D602E, 0x3E92203D, 0x3E96D887, 0x3E9B8925, 0x3EA03234]
def tabLH1 : List Nat :=
  [0x3EA4D3C2, 0x3EA96DEF, 0x3EAE00D1, 0x3EB28C80, 0x3EB71110, 0x3EBB8E97, 0x3EC0052D, 0x3EC474E2, 0x3EC8DDD3,
  0x3ECD4011, 0x3ED19BAF, 0x3ED5F0C3, 0x3EDA3F60, 0x3EDE8798, 0x3EE2C97E, 0x3EE70525, 0x3EEB3A9E, 0x3EEF69FF,
  0x3EF39355, 0x3EF7B6B5, 0x3EFBD42A, 0x3EFFEBCB, 0x3F01FED4, 0x3F0404E8, 0x3F060828, 0x3F08089D, 0x3F0A0650,
  0x3F0C0146, 0x3F0DF98A, 0x3F0FEF1F, 0x3F11E20E, 0x3F13D260]
def tabLH2 : List Nat :=
  [0xBED47FCD, 0xBED0A977, 0xBECCD838, 0xBEC90C02, 0xBEC544BF, 0xBEC1826C, 0xBEBDC4F8, 0xBEBA0C56, 0xBEB6587A,
  0xBEB2A959, 0xBEAEFEE7, 0xBEAB5916, 0xBEA7B7DF, 0xBEA41B2F, 0xBEA08301, 0xBE9CEF46, 0xBE995FF9, 0xBE95D504,
  0xBE924E6B, 0xBE8ECC18, 0xBE8B4E03, 0xBE87D425, 0xBE845E6F, 0xBE80ECDE, 0xBE7AFEC6, 0xBE742BEA, 0xBE6D6112,
  0xBE669E35, 0xBE5FE33A, 0xBE593016, 0xBE5284A8, 0xBE4BE0EA]
def tabLH3 : List Nat :=
  [0xBE4544C5, 0xBE3EB027, 0xBE382301, 0xBE319D42, 0xBE2B1EE2, 0xBE24A7C5, 0xBE1E37D7, 0xBE17CF19, 0xBE116D6E,
  0xBE0B12C9, 0xBE04BF21, 0xBDFCE4A9, 0xBDF058D8, 0xBDE3DA8B, 0xBDD769D3, 0xBDCB0653, 0xBDBEB02F, 0xBDB2671E,
  0xBDA62B00, 0xBD99FBE1, 0xBD8DD98A, 0xBD81C3EF, 0xBD6B75DB, 0xBD537CEB, 0xBD3B9C9B, 0xBD23D4F5, 0xBD0C25DA,
  0xBCE91D95, 0xBCBA1FA1, 0xBC8B512E, 0xBC3963D7, 0x00000000]
/-- LH[i] = rne(−log₂ TL[i], FP32) (R245). -/
def tabLH : List Nat := tabLH0 ++ tabLH1 ++ tabLH2 ++ tabLH3

def tabLL0 : List Nat :=
  [0x00000000, 0x2FF99438, 0x306AD8AC, 0x30CADF72, 0x300750F2, 0x2F35B3E5, 0x317E79DF, 0x312CD04F, 0x306CF2ED,
  0xAF2C94EB, 0x3154346D, 0x3083AA10, 0xB10EAF75, 0xB1520CA0, 0xB0F487D8, 0xB0F70766, 0x30B9A3C9, 0x2F734C64,
  0x31688963, 0x315F1EA8, 0x30ABF127, 0xAF93FEB0, 0x301698BB, 0x31A31134, 0x30769053, 0x321A7904, 0xB16EE805,
  0x3225FE21, 0xB2124974, 0x31A70A6A, 0x31F61CAF, 0xB2783C69]
def tabLL1 : List Nat :=
  [0xB23482BD, 0xB00E0286, 0x3267132D, 0x32078BB4, 0x31EA47EE, 0x3238C330, 0xB14D2C47, 0xB1DA9009, 0x324447DD,
  0x319D7097, 0x3243372A, 0x325F47B9, 0xB1408AE1, 0x324877B5, 0xB251152D, 0x313468F4, 0xB25F7A4B, 0xB26A072A,
  0xB25F74C4, 0x301AC6BB, 0x31521CB5, 0xB0AD98C0, 0xB27C4B57, 0x3278E1C2, 0xB2D9711F, 0xB136C08A, 0xB214AE10,
  0x30194125, 0xB28E3941, 0x32A801DB, 0xB2D076ED, 0xB19A6125]
def tabLL2 : List Nat :=
  [0x2FA8CDC6, 0xB2535993, 0x31A0A393, 0x31D0D2AB, 0xB23027B0, 0x326FC226, 0xB0AEEB1B, 0x30EDACE2, 0xB1B8BBB9,
  0xB1B0E45C, 0x31D2FDBA, 0xB2404DE5, 0xB21A14F2, 0xB20072C1, 0xB1C62728, 0xB246A56C, 0x313677CB, 0xB224F59A,
  0xB1C74A8A, 0xB162965D, 0xB227938C, 0x3215EAF8, 0x315DCF63, 0x320CAF00, 0xAE5C2CC2, 0x313592B1, 0xB1F29E72,
  0x31D934C4, 0xB13CB0A8, 0xB1FA9021, 0xAF24A044, 0xB1D0C207]
def tabLL3 : List Nat :=
  [0x31AC096A, 0xB06A71A3, 0xB1479F7A, 0xAF1CE812, 0xB00A7A0B, 0x31B39E92, 0x31855773, 0xB1A7954E, 0x318DF6F2,
  0xB1BC1889, 0xB13A5FE1, 0x31017CDB, 0x313825EF, 0x2F23AED8, 0x30FCA071, 0x30A0D266, 0x30C0CBB7, 0x315ECFEC,
  0x30A8D681, 0xB021FAC5, 0xB13C1251, 0xB1773284, 0x30E89A88, 0xB0F1D16B, 0x306F63BB, 0xB035BB7B, 0x30E9BF96,
  0xAFE744BD, 0x2F2E60B8, 0xAF2741BD, 0xAF965380, 0x00000000]
/-- LL[i] = rne(−log₂ TL[i] − LH[i], FP32) (R245). -/
def tabLL : List Nat := tabLL0 ++ tabLL1 ++ tabLL2 ++ tabLL3

/-- The last rounding, with NX for an operand that is no exact case (R241). -/
def lastRound (m : FMod) (d : Dy) : Nat × Fl :=
  let r := finish .f32 m.rnd m.sat (decide (d.m < 0)) d.m.natAbs d.e false
  (r.1, r.2 ||| flNX)

/-- Special infinite result with its flag (R241). -/
def specInf (m : FMod) (neg : Bool) (fl : Fl) : Nat × Fl :=
  let r := infResult .f32 m.sat neg
  (r.1, r.2 ||| fl)

/-- `frcp` (R241, R242). -/
def fRcp (m : FMod) (a : Nat) : Nat × Fl :=
  match fval .f32 a with
  | .nan s => (canonNan .f32, if s then flNV else 0)
  | .inf s => (signBit .f32 s, 0)
  | .fin s x e =>
    if x = 0 then specInf m s flDZ
    else
      let l := nlen x - 1
      let ex := e + l
      let sg : Int := if s then -1 else 1
      if x = 2 ^ l then finish .f32 m.rnd m.sat s 1 (-ex) false
      else
        let mm : Dy := ⟨x, -(l : Int)⟩
        let y := tabTR (x * 128 / 2 ^ l - 128)
        let t := fma32 mm.neg y Dy.one
        let y := fma32 y t y
        let t := fma32 mm.neg y Dy.one
        let r := (y.mul t).add y
        lastRound m ⟨sg * r.m, r.e - ex⟩

/-- `frsq` (R241, R243). -/
def fRsq (m : FMod) (a : Nat) : Nat × Fl :=
  match fval .f32 a with
  | .nan s => (canonNan .f32, if s then flNV else 0)
  | .inf true => (canonNan .f32, flNV)
  | .inf false => (0, 0)
  | .fin s x e =>
    if x = 0 then specInf m s flDZ
    else if s then (canonNan .f32, flNV)
    else
      let l := nlen x - 1
      let ex := e + l
      let odd := ex % 2
      if x = 2 ^ l ∧ odd = 0 then finish .f32 m.rnd m.sat false 1 (-(ex / 2)) false
      else
        let k := (ex - odd) / 2
        let u : Dy := ⟨x, odd - l⟩
        let y := tabTQ (64 * odd.toNat + (x * 64 / 2 ^ l - 64))
        let hy : Dy := ⟨y.m, y.e - 1⟩
        let t := fma32 u.neg (rne32 (y.mul y)) Dy.one
        let y := fma32 hy t y
        let t := fma32 u.neg (rne32 (y.mul y)) Dy.one
        let r := ((Dy.mul ⟨y.m, y.e - 1⟩ t).add y)
        lastRound m ⟨r.m, r.e - k⟩

/-- C1 to C7 (R244). -/
def expC : List Nat := [0x3F317218, 0x3E75FDF0, 0x3D635847, 0x3C1D955B, 0x3AAEC3FF, 0x39218489, 0x377FE5FE]

/-- `fexp2` (R241, R244).  Beyond ±1000 the power of two is above every finite value or below every subnormal, so n is
bounded there. -/
def fExp2 (m : FMod) (a : Nat) : Nat × Fl :=
  match fval .f32 a with
  | .nan s => (canonNan .f32, if s then flNV else 0)
  | .inf true => (0, 0)
  | .inf false => specInf m false 0
  | .fin s x e =>
    let r := roundAt .rne s x e 0 false
    let n : Int := if s then -(r.1 : Int) else r.1
    let nb := max (-1000) (min 1000 n)
    if !r.2 then finish .f32 m.rnd m.sat false 1 nb false
    else
      let f := (FV.fin s x e).dy.add ⟨-n, 0⟩
      let p := (expC.take 6).foldr (fun c p => fma32 p f (f32 c)) (f32 0x377FE5FE)
      let v := (p.mul f).add Dy.one
      lastRound m ⟨v.m, v.e + nb⟩

/-- D1 to D5 (R245). -/
def logD : List Nat := [0x3FB8AA3B, 0xBF38AA3B, 0x3EF6384F, 0xBEB8AA3B, 0x3E93BB63]

/-- `flog2` (R241, R245). -/
def fLog2 (m : FMod) (a : Nat) : Nat × Fl :=
  match fval .f32 a with
  | .nan s => (canonNan .f32, if s then flNV else 0)
  | .inf true => (canonNan .f32, flNV)
  | .inf false => specInf m false 0
  | .fin s x e =>
    if x = 0 then specInf m true flDZ
    else if s then (canonNan .f32, flNV)
    else
      let l := nlen x - 1
      let ex := e + l
      if x = 2 ^ l then finish .f32 m.rnd m.sat (decide (ex < 0)) ex.natAbs 0 false
      else
        let i := x * 128 / 2 ^ l - 128
        let u : Dy := if i < 64 then ⟨x, -(l : Int)⟩ else ⟨x, -(l : Int) - 1⟩
        let q : Int := if i < 64 then ex else ex + 1
        let z := fma32 u (tabTL i) ⟨-1, 0⟩
        let p := (logD.take 4).foldr (fun c p => fma32 p z (f32 c)) (f32 0x3E93BB63)
        let w := rne32 (p.mul z)
        let v := rne32 ((f32 (tabLL.getD i 0)).add w)
        lastRound m (((⟨q, 0⟩ : Dy).add (f32 (tabLH.getD i 0))).add v)

/-- A long FP32 function of one operand (R145). -/
def longF2 (h : Hdr) (o : F2) (f : Nat → Nat × Fl) (s : State) : Out :=
  issueLong h [(o.a, false)] [(o.d, false)]
    (fun p id act => p.runLong id act o.d false (fun l => f (p.valF o.c .f32 o.a l))) s

/-- `frcp` (R239, R242). -/
def execFrcp (h : Hdr) (m : FMod) (o : F2) (s : State) : Out := longF2 h o (fRcp m) s
/-- `frsq` (R239, R243). -/
def execFrsq (h : Hdr) (m : FMod) (o : F2) (s : State) : Out := longF2 h o (fRsq m) s
/-- `fexp2` (R239, R244). -/
def execFexp2 (h : Hdr) (m : FMod) (o : F2) (s : State) : Out := longF2 h o (fExp2 m) s
/-- `flog2` (R239, R245). -/
def execFlog2 (h : Hdr) (m : FMod) (o : F2) (s : State) : Out := longF2 h o (fLog2 m) s

end Sys2Proof.Machine
end

