-- ==== Sys2Proof/Machine/Replays.lean ====
section
/-! DEFINITION. The completion of a launch (R329, R417, R418); checkpoints, replays, captures and re-runs (R413 to R419). -/

namespace Sys2Proof.Machine

namespace State

def replayOf (s : State) (prt : Nat) : Replay := Store.get Replay.none s.dbg.replay prt
def setReplayOf (s : State) (prt : Nat) (x : Replay) : State :=
  { s with dbg := { s.dbg with replay := Store.set Replay.none s.dbg.replay prt x } }

/-- A byte of the memory of a partition (R413, R417). -/
def ownByte (s : State) (prt a : Nat) : Bool := s.granted prt a && laneMappable a 1

/-! ### Completion (R329, R418) -/

/-- The checksum of a launch (R418). -/
def checksum (s : State) (lk : Nat) : DWord :=
  let pages := (s.dbg.touched.filter (fun e => e.1 == lk)).map Prod.snd
  BitVec.ofNat 64 ((pages.map (fun g =>
    leNat (shake256 (leBytes 8 (g * 4096) ++ s.peekBytes (g * 4096) 4096) 8))).sum)

/-- Index in a capture log and bytes of its `n`-th packet. -/
def nthPacket (log : List CapEv) (n : Nat) : Nat × List Byte :=
  ((log.zipIdx.filterMap (fun e => match e.1 with | .packet _ _ bs => some (e.2, bs) | _ => none))[n]?).getD (0, [])

/-- A checksum entry of a capture log. -/
def isSum : CapEv → Bool
  | .checksum _ _ _ => true
  | _ => false

/-- In a re-run, compare a launch's checksum with the recorded one the log has come to: the first mismatch ends the re-run with a
report of the packet's index, its LAUNCH and its TAG.  Launches complete in the order in which their packets were taken (R417,
R419). -/
def compareSum (x : Replay) (sum : DWord) : Replay :=
  let pos := x.rerun - 1
  match x.clog[pos]? with
  | some (.checksum _ id c) =>
    let p := nthPacket x.clog ((x.clog.take pos).filter isSum).length
    if c = sum then { x with rerun := pos + 2 } else { x with rerun := 0, report := [p.1, id.toNat, fieldOf p.2 124 4] }
  | _ => x

/-- What CAPTURE mode does at a completion, before the addition to CDONE (R417, R419). -/
def captureEnd (s : State) (lk : Nat) : State :=
  let l := s.launch lk
  let x := s.replayOf l.prt
  if (s.partition l.prt).replay != 2 || x.halting then s
  else
    let sum := s.checksum lk
    let s1 := if x.rerun = 0 then s.capture l.prt (.checksum s.tick l.id sum) else s.setReplayOf l.prt (compareSum x sum)
    { s1 with dbg := { s1.dbg with touched := s1.dbg.touched.filter (fun e => e.1 != lk) } }

/-- The entry of the capture log that a re-run has come to (R419). -/
def rerunAt (s : State) (prt : Nat) : Option CapEv := (s.replayOf prt).clog[(s.replayOf prt).rerun - 1]?

/-- A re-run has not yet applied what the log holds before the launch's end (R419). -/
def sumAwaited (s : State) (prt : Nat) : Bool :=
  (s.replayOf prt).rerun != 0 && (match s.rerunAt prt with | some e => !isSum e | none => false)

/-- A launch has nothing left to do (R329): its teams have ended, or it was refused. -/
def launchOver (s : State) (lk : Nat) : Bool :=
  let l := s.launch lk
  l.ex && (l.st == .refused || (l.st == .admitted && l.next == l.teams && l.ended == l.teams))

end State

/-- LAUNCH_COMPLETE (R327, R329 to R331, R419): CDONE rises, or an error record of kind 6 is written; the entry is removed and
waits are evaluated. -/
def execLaunchComplete (lk : Nat) (s : State) : Out :=
  if !s.launchOver lk || s.sumAwaited (s.launch lk).prt then .next s
  else
    let l := s.launch lk
    let s0 := s.captureEnd lk
    let s1 := match s0.addDone l with
      | some s1 => s1
      | none => s0.errorRecord lk Team.absent 0xFF 6 0 0 0
    .next ((s1.setLaunch lk Launch.absent).pollEvents l.prt)

namespace State

/-! ### Checkpoints (R413) -/

/-- 64 KiB pages of a partition written since the last checkpoint. -/
def dirtyPages (s : State) (prt : Nat) : List Nat :=
  (s.dbg.dirty.map Prod.fst).filter (fun g => s.ownByte prt (g * 65536))

/-- LQTAIL and LQHEAD of the queues of a partition. -/
def queueRegs (s : State) (prt : Nat) : List DWord :=
  lanes16.flatMap (fun q => [s.ureg 16 (lqOff prt q + 0x10), s.ureg 16 (lqOff prt q + 0x18)])

/-- Order logs of a partition. -/
def ownLogs (s : State) (prt : Nat) : Store (List Byte) := s.dbg.olog.filter (fun e => e.1 % 8 == prt)

/-- Close the log segment that follows the last checkpoint. -/
def closeLogs (s : State) (prt : Nat) (cs : List Ckpt) : List Ckpt :=
  match cs.reverse with
  | [] => []
  | c :: rest => ({ c with logs := s.ownLogs prt } :: rest).reverse

/-- The next checkpoint is due: T ms have passed, or a log is full (R413, R414). -/
def ckptDue (s : State) (prt : Nat) (x : Replay) : Bool :=
  decide (x.due ≤ s.tick.toNat) || (s.ownLogs prt).any (fun e => decide (24 * Config.logEntries < e.2.length))

/-- When the pages of the increments exceed the replay storage, the oldest is merged into the full copy (R413). -/
def mergeOldest : List Ckpt → List Ckpt
  | a :: b :: rest =>
    if ((b :: rest).map (fun c => c.pages.length)).sum ≤ Config.replayPages then a :: b :: rest
    else { b with
      full := true
      mem := a.mem.filter (fun e => !b.pages.contains (e.1 / 65536)) ++ b.mem } :: rest
  | cs => cs

/-- Every team of a partition is frozen for the checkpoint, once its XFQ records are answered (R47). -/
def freezeTeams (s : State) (prt : Nat) : State :=
  (s.partTeams prt).foldl (fun (s : State) e =>
    if e.2.frozen || s.ending e.1 || s.resuming e.1 || s.xfNames e.1 then s else s.freeze e.1) s

/-- The saved images of a partition. -/
def imagesOf (s : State) (prt : Nat) : List Image := (s.mg.images.filterMap Prod.snd).filter (fun i => i.team.prt == prt)

/-- Keep an image; lay it back at once on its own stack. -/
def keepImage (s : State) (i : Image) : State :=
  { s with
    mg := { s.mg with images := Store.set none s.mg.images s.ids (some i) }
    ids := s.ids + 1 }
def relay (s : State) (i : Image) : State := (s.keepImage i).layBack s.ids i (i.tk / 256)

/-- Record a checkpoint of frozen teams and resume them (R413 steps 2 to 4). -/
def takeCkpt (s : State) (prt : Nat) (x : Replay) : State :=
  let first := x.ckpts.isEmpty
  let pages := s.dirtyPages prt
  let sv := (s.partTeams prt).foldl (fun (a : State × List Image) e =>
    let r := a.1.saveTeam e.1
    (r.1, a.2 ++ [r.2])) (s, [])
  let s1 := sv.1
  let c : Ckpt := {
    tick := s.tick
    full := first
    pages := pages
    mem := s1.mem.filter (fun e => s1.ownByte prt e.1 && (first || pages.contains (e.1 / 65536)))
    images := sv.2
    kept := s.imagesOf prt
    launches := s1.mg.launches.filter (fun e => e.2.prt == prt)
    queues := s1.queueRegs prt
    logs := [] }
  let s2 := s1.setReplayOf prt { x with
    ckpts := mergeOldest (s1.closeLogs prt x.ckpts ++ [c])
    freezing := none }
  let s3 : State := { s2 with dbg := { s2.dbg with
    olog := s2.dbg.olog.filter (fun e => e.1 % 8 != prt)
    dirty := s2.dbg.dirty.filter (fun e => !pages.contains e.1) } }
  sv.2.foldl State.relay s3

end State

/-- CHECKPOINT (R413, R414): in BULK mode, every T ms or when a log is full, the teams are frozen; once all have come to rest the checkpoint is taken;
at the limit it is skipped and counted. -/
def execCheckpoint (part : Nat) (s : State) : Out :=
  let x := s.replayOf part
  let p := s.partition part
  match x.freezing with
  | none =>
    if p.replay != 1 || p.closing.isSome || !s.ckptDue part x then .next s
    else .next ((s.freezeTeams part).setReplayOf part { x with
      freezing := some (s.tick.toNat + p.plimit)
      due := s.tick.toNat + 1900000 * p.replayT })
  | some limit =>
    let s1 := s.freezeTeams part
    if (s1.partTeams part).all (fun e => s1.imageReady e.1) then .next (s1.takeCkpt part x)
    else if limit ≤ s.tick.toNat then
      .next (((s1.partTeams part).foldl (fun (s : State) e => s.thaw e.1) s1).setReplayOf part { x with
        skipped := x.skipped + 1
        freezing := none })
    else .next s1

namespace State

/-! ### Replays (R415) -/

/-- No launch of a partition is admitted and no team placed any more. -/
def haltLaunches (s : State) (prt : Nat) : State :=
  let kept := s.mg.launches.filter (fun e => e.2.prt != prt || e.2.st == .admitted)
  let ls := kept.map (fun e => if e.2.prt == prt then (e.1, { e.2 with next := e.2.teams }) else e)
  { s with mg := { s.mg with launches := ls } }

/-- Put back bytes of a partition's memory: all of it, or some pages. -/
def restoreMem (s : State) (prt : Nat) (pages : Option (List Nat)) (bytes : List (Nat × Byte)) : State :=
  let gone := fun (a : Nat) => s.ownByte prt a && (match pages with | none => true | some g => g.contains (a / 65536))
  bytes.foldl (fun (s : State) b => s.setByte b.1 b.2) { s with mem := s.mem.filter (fun e => !gone e.1) }

/-- Put back checkpoints 0 to k in order (R415 step 1). -/
def restoreCkpts (s : State) (prt : Nat) (cs : List Ckpt) : State :=
  cs.foldl (fun (s : State) c => s.restoreMem prt (if c.full then none else some c.pages) c.mem) s

/-- The logs the homes follow from a checkpoint on. -/
def followLogs (segs : List (Store (List Byte))) : Store (List Byte) :=
  let ks := (segs.flatMap (fun g => g.map Prod.fst)).eraseDups
  ks.foldl (fun m k => Store.set [] m k (segs.flatMap (fun g => Store.get [] g k))) []

/-- Run a partition from checkpoint `k` (R415). -/
def replayFrom (s : State) (prt k : Nat) (x : Replay) (c : Ckpt) : State :=
  let segs := (x.ckpts.drop k).map (fun c => c.logs) ++ [s.ownLogs prt]
  let logs := followLogs segs
  let s1 := s.restoreCkpts prt (x.ckpts.take (k + 1))
  let s2 : State := { s1 with mg := { s1.mg with
    launches := c.launches.foldl (fun m e => Store.set Launch.absent m e.1 e.2)
      (s1.mg.launches.filter (fun e => e.2.prt != prt))
    images := s1.mg.images.filter (fun e => (e.2.map (fun i => i.team.prt)) != some prt) } }
  let s3 := (lanes16.zipIdx).foldl (fun (s : State) q =>
    (s.setUreg 16 (lqOff prt q.1 + 0x10) (c.queues.getD (2 * q.2) 0)).setUreg 16 (lqOff prt q.1 + 0x18)
      (c.queues.getD (2 * q.2 + 1) 0)) s2
  let s4 := s3.setReplayOf prt { x with
    ckpts := x.ckpts.take k ++ [{ c with logs := [] }]
    report := [] }
  let other := fun {α : Type} (m : Store α) => m.filter (fun e => e.1 % 8 != prt)
  let s5 : State := { s4 with dbg := { s4.dbg with
    olog := other s4.dbg.olog
    follow := logs.foldl (fun m e => Store.set [] m e.1 e.2) (other s4.dbg.follow)
    followAt := other s4.dbg.followAt
    followTick := logs.foldl (fun m e => Store.set 0 m e.1 s.tick) (other s4.dbg.followTick) } }
  c.images.foldl State.relay (c.kept.foldl State.keepImage s5)

end State

/-- REPLAY_RUN (R415): the partition's teams are killed; once none is left, checkpoint `k` is restored and the homes follow
their logs. -/
def execReplayRun (part k : Nat) (s : State) : Out :=
  let x := s.replayOf part
  match x.ckpts[k]? with
  | none => .next s
  | some c =>
    if x.freezing.isSome || (s.partition part).closing.isSome then .next s
    else if (s.partTeams part).isEmpty && s.parts.all (fun e => e.2.prt != part || !e.2.live) then
      .next (s.replayFrom part k x c)
    else .next ((s.haltLaunches part).killTeams part)

/-- Homes of a partition whose log has had no match for 2²⁴ ticks. -/
def State.stalled (s : State) (prt : Nat) : List Nat :=
  (s.dbg.follow.filter (fun e => e.1 % 8 == prt && !e.2.isEmpty &&
    decide ((Store.get 0 s.dbg.followTick e.1).toNat + 2 ^ 24 ≤ s.tick.toNat))).map Prod.fst

/-- REPLAY_DIVERGED (R415): the replay ends with a report of the home and the entry index. -/
def execReplayDiverged (part : Nat) (s : State) : Out :=
  match s.stalled part with
  | [] => .next s
  | k :: _ =>
    let s1 := s.setReplayOf part { s.replayOf part with report := [k / 8, Store.get 0 s.dbg.followAt k] }
    .next { s1 with dbg := { s1.dbg with follow := s1.dbg.follow.filter (fun e => e.1 % 8 != part) } }

/-! ### Captures (R417, R419) -/

/-- A launch among others in the order of taking. -/
def takenInsert (l : Launch) : List Launch → List Launch
  | [] => [l]
  | x :: xs => if l.seq ≤ x.seq then l :: x :: xs else x :: takenInsert l xs

/-- Launches of a partition taken and not yet admitted, in the order of taking, as packets of the capture log (log 36). -/
def State.waitingPackets (s : State) (prt : Nat) : List CapEv :=
  let ls := (s.mg.launches.map Prod.snd).filter (fun l => l.ex && l.prt == prt && l.st == .queued)
  (ls.foldr takenInsert []).map (fun l => .packet l.q s.tick l.packet)

/-- CAPTURE (R417): once the launches of the partition have completed, its memory is copied and the log begins. -/
def execCapture (part : Nat) (s : State) : Out :=
  let x := s.replayOf part
  if (s.partition part).replayNext != 2 || x.capturing || s.running part != 0 then .next s
  else .next (s.setReplayOf part { Replay.none with
    capturing := true
    snapshot := s.mem.filter (fun e => s.ownByte part e.1)
    clog := s.waitingPackets part })

namespace State

/-- The oldest outstanding read request of a partition. -/
def oldestRead (s : State) (prt : Nat) : Option (Nat × Remote) :=
  s.net.remotes.findSome? (fun e => match e.2 with
    | some r => if r.prt == prt && !r.wr then some (e.1, r) else none
    | none => none)

/-- One entry of the log is applied (R419 step 2); `none` when it must wait: a checksum for the end of its launch, and a reply for
a read, unless the launch that ran ends without one. -/
def applyCap (s : State) (prt : Nat) : CapEv → Option State
  | .packet q _ bs => some (s.takePacket prt q bs)
  | .window _ va bs => some (s.mgmtWrite prt va bs)
  | .inbound _ va bs => some (s.mgmtWrite prt va bs)
  | .reply _ bs => match s.oldestRead prt with
    | some r => some ((s.endRemote r.1 r.2).takeReply r.2 bs)
    | none => if s.mg.launches.any (fun e => e.2.prt == prt && s.launchOver e.1) then some s else none
  | .checksum _ _ _ => none

end State

/-- RERUN (R419): the snapshot is restored after the teams have been killed; then the log is replayed entry by entry. -/
def execRerun (part : Nat) (s : State) : Out :=
  let x := s.replayOf part
  if !x.capturing || (s.partition part).closing.isSome then .next s
  else if x.rerun = 0 then
    if (s.partTeams part).isEmpty && s.parts.all (fun e => e.2.prt != part || !e.2.live) then
      let s1 := (s.restoreMem part none x.snapshot).setReplayOf part { x with rerun := 1, halting := false, report := [] }
      .next { s1 with
        mg := { s1.mg with
          launches := s1.mg.launches.filter (fun e => e.2.prt != part)
          images := s1.mg.images.filter (fun e => (e.2.map (fun i => i.team.prt)) != some part) }
        dbg := { s1.dbg with touched := s1.dbg.touched.filter (fun e => e.1 / 2 ^ 32 != part) } }
    else .next (((s.setReplayOf part { x with halting := true }).haltLaunches part).killTeams part)
  else
    match s.rerunAt part with
    | none => .next (s.setReplayOf part { x with rerun := 0 })
    | some e =>
      match s.applyCap part e with
      | none => .next s
      | some s1 => .next (s1.setReplayOf part { s1.replayOf part with rerun := x.rerun + 1 })

end Sys2Proof.Machine
end

