-- ==== Sys2Proof/Machine/Registers.lean ====
section
/-! DEFINITION. Register maps (R7, R14, R15, R17): the words software reads, the writes of each register, the bus bridge, and
BAR0 of the functions (R364, R426). -/

namespace Sys2Proof.Machine

/-! ### Plain fields -/

/-- The bits of an 8-byte word of block `blk` at offset `i` that a write sets, and those a written 1 clears, in the blocks
that stacks and hubs share (R45, R62, R64, R74, R361, R388, R411, R424). -/
def sharedMask (core dbg blk i : Nat) : Nat × Nat :=
  if blk = 0 then (if 0x2000 ≤ i ∧ i < 0x3000 then (0x0F0F0F0F0F0F0F0F, 0) else (0, 0))
  else if blk = 1 then (if 0x8000 ≤ i then (0x87FF87FF87FF87FF, 0) else (0, 0))
  else if blk = 2 then
    (if i < 0x40 then (0x00FFFFFFFFFF8001, 0) else if i = 0x48 then (0xFFFFFFFFFFFF0000, 0) else (0, 0))
  else if blk = 9 then
    (match i with
    | 0x00 => (0xFFFF, 0) | 0x18 => (0x7F, 0) | 0x20 => (0, 0x200) | 0x28 => (0xFFFF, 0) | _ => (0, 0))
  else if blk = dbg then
    (if i = 0x100 then (0x3FF, 0) else if i = 0x108 then (0, 0xC00)
    else if 0x200 ≤ i ∧ i < 0x240 then (if i % 16 = 0 then (0xFFFFFFFFFFFFFFFF, 0) else (1, 0))
    else if i = 0x300 then (0xFFFFFFFFFFFFFFFF, 0) else if i = 0x308 then (1, 2) else if i = 0x310 then (0xFFFFFFFF, 0)
    else if 0x400 ≤ i ∧ i < 0x480 then (0x7FFFFFFFFF, 0) else (0, 0))
  else if core ≤ blk ∧ 0x200 ≤ i ∧ i < 0x240 then (0xFFFFFFFF, 0)
  else (0, 0)

/-- The masks of a stack's registers (R64, R93, R108, R334, R335, R352). -/
def stackMask (blk i : Nat) : Nat × Nat :=
  match blk, i with
  | 1, 0x10 => (0x3FFFF, 0)
  | 1, 0x18 => (0, 0xC)
  | 5, 0x10 => (0xFFFF, 0)
  | 6, 0x08 => (0, 0x200)
  | 7, 0x00 => (0xFF, 0)
  | 7, 0x10 => (3, 0)
  | 8, 0x08 => (0, 2)
  | _, _ =>
    if blk = 6 ∧ 0x1000 ≤ i ∧ i < 0x2000 then (if i % 16 = 0 then 0xFFFFFFFFFFFFFFFF else 0xFF1F03FFFFFFFFFF, 0)
    else if blk = 6 ∧ 0x8000 ≤ i ∧ i < 0x8800 then (0x03FF03FF03FF03FF, 0)
    else if 24 ≤ blk then (0, 0)
    else sharedMask 16 11 blk i

/-- The masks of a hub's registers (R64, R322, R370, R379, R381). -/
def hubMask (hub0 : Bool) (blk i : Nat) : Nat × Nat :=
  if blk = 1 ∧ 0x100 ≤ i ∧ i < 0x200 then (match i % 0x20 with | 8 => (0x3FFFF, 0) | 16 => (0, 0xC) | _ => (0, 0))
  else if blk = 3 ∧ i < 0x200 ∧ i % 0x40 = 0 then (0, 2)
  else if blk = 5 ∧ 0x1000 ≤ i ∧ i < 0x2000 ∧ hub0 then
    (match i % 0x20 with | 0 => (0xFFFFFFFFFFFFFFFF, 0) | 8 => (0x1F, 0x60) | _ => (0, 0))
  else if blk = 7 ∧ i < 0x18 then (0xFFFFFFFF, 0)
  else if blk = 8 ∧ i = 0 then (0, 2)
  else if blk = 10 ∧ i = 0x2008 ∧ hub0 then (0xFFFFFFFFFFFFFFFF, 0)
  else sharedMask 28 10 blk i

/-- The masks of a word of a unit. -/
def regMask (u o : Nat) : Nat × Nat :=
  if isStack u then stackMask (o / 0x10000) (o % 0x10000) else hubMask (unitHome u == 16) (o / 0x10000) (o % 0x10000)

/-! ### Words that are not plain storage -/

/-- The bytes of a posted fault record (R344). -/
def FRec.bytes (r : FRec) : List Byte :=
  leBytes 8 r.tick.toNat ++ leBytes 8 r.va.toNat ++ leBytes 4 r.pc.toNat ++ leBytes 2 r.lanes.toNat ++ leBytes 1 r.sq ++
    leBytes 1 r.cause ++ leBytes 1 r.kind ++ leBytes 7 0

/-- The bytes of a team-table entry (R334). -/
def Team.bytes (t : Team) : List Byte :=
  leBytes 4 t.launch.toNat ++ leBytes 2 t.tx.toNat ++ leBytes 2 t.ty.toNat ++ leBytes 2 t.tz.toNat ++
    leBytes 1 t.sqn ++ leBytes 1 ((if t.v then 1 else 0) + (if t.restartable then 2 else 0) + 4 * (t.restarts % 4)) ++
    leBytes 2 t.mbase ++ leBytes 2 t.mcount ++ leBytes 1 t.acct ++ leBytes 1 t.rings ++ leBytes 1 t.spillu ++
    leBytes 5 0 ++ leBytes 8 t.spillbase ++ leBytes 8 t.bindtick.toNat ++ leBytes 20 t.tilemap.toNat ++ leBytes 4 0

namespace State

/-- The partition that holds a stack. -/
def ownerOf (s : State) (u : Nat) : Nat := ((List.range 8).find? (fun p => s.granted p (unitBase u))).getD 0

/-- A team-table entry as firmware writes it (R334): the fields of the table; the rest of the team's state stays. -/
def teamOf (s : State) (u : Nat) (t : Team) (bs : List Byte) : Team :=
  let f := fieldOf bs
  let prt := if t.v then t.prt else s.ownerOf u
  let l := s.launch (lkey prt (BitVec.ofNat 32 (f 0 4)))
  { t with
    launch := BitVec.ofNat 32 (f 0 4)
    tx := BitVec.ofNat 16 (f 4 2)
    ty := BitVec.ofNat 16 (f 6 2)
    tz := BitVec.ofNat 16 (f 8 2)
    sqn := f 10 1 % 64
    v := (f 11 1).testBit 0
    restartable := (f 11 1).testBit 1
    restarts := f 11 1 / 4 % 4
    mbase := f 12 2 % 1024
    mcount := f 14 2 % 2048
    acct := f 16 1 % 64
    rings := f 17 1 % 16
    spillu := f 18 1
    spillbase := f 24 8 % 2 ^ 40
    bindtick := BitVec.ofNat 64 (f 32 8)
    tilemap := BitVec.ofNat 160 (f 40 20)
    prt := prt
    dmac := (l.hd 24 4 + 65535) / 65536 }

/-- A word of FCREC: the record in a slot of the team FCSEL names (R352). -/
def fcWord (s : State) (u i : Nat) : Nat :=
  match ((s.team (u * 256 + (s.ureg u 0x70000).toNat % 256)).recs.find? (fun r => r.slot == i / 32)) with
  | some r => fieldOf r.bytes (i % 32) 8
  | none => 0

/-- A word of the barrier unit's registers, for the team FCSEL names (R151, R352): squad q at 0x100 q, its huddle h at 8 h and
its EXITED mask at 0x80 (log 34). -/
def barrierWord (s : State) (u i : Nat) : Nat :=
  let t := s.team (u * 256 + (s.ureg u 0x70000).toNat % 256)
  let q := i / 0x100
  let e := Store.get Huddle.closed t.huddles (q * 16 + i % 0x100 / 8)
  if i % 0x100 < 0x80 then
    e.expect.toNat + 2 ^ 16 * e.arrived.toNat + 2 ^ 32 * e.level + 2 ^ 36 * e.host + (if e.hostv then 2 ^ 50 else 0) +
      (if e.isOpen then 2 ^ 51 else 0)
  else if i % 0x100 = 0x80 then (Store.get 0 t.exited q).toNat
  else 0

/-- A word of the sample buffer: record n stands at 64 n (R411). -/
def sampleWord (s : State) (u i : Nat) : Nat :=
  let h := Store.get 0 s.dbg.smpHead u
  fieldOf ((Store.get [] s.dbg.smp u).getD ((i / 64 + 256 - h) % 256) []) (i % 64) 8

/-- The words that hold live state or read as zero, in the blocks stacks and hubs share; none for plain storage. -/
def sharedWord (s : State) (u dbg blk i : Nat) : Option Nat :=
  if blk = 1 then
    (match i with
    | 0x00 => some ((s.arrQueue u).length + 65536 * s.reserved0 u)
    | 0x30 => some ((s.fab.hold.filter (fun e => e.1 / 8192 == u)).length)
    | _ => none)
  else if blk = 2 then
    (match i with
    | 0x40 => some 0
    | 0x50 => some ((if (s.shoot u).busy then 1 else 0) + (if (s.shoot u).lost then 2 else 0) + 65536 * (s.shoot u).done)
    | 0x60 =>
      let q := s.xfq u
      some (q.head + 256 * q.tail + (if q.err then 65536 else 0) + 131072 * q.outst)
    | 0x68 => some 0
    | _ => none)
  else if blk = dbg ∧ 0x4000 ≤ i ∧ i < 0x8000 then some (s.sampleWord u (i - 0x4000))
  else if blk = dbg ∧ 0x8000 ≤ i then
    some (fieldOf (Store.get [] s.dbg.traces (u * 1024 + (i - 0x8000) / 32)) (i % 32) 8)
  else none

/-- A word of the key registers of a controller (R391): KMAT and KCMD read as zero. -/
def keyWord (s : State) (u ctrl i : Nat) : Nat :=
  let prt := (i - 0x8000) / 0x1000
  if i % 0x1000 = 0x808 then
    s.liveBits u ctrl prt + (if s.revokes u ctrl prt then 0x10000 else 0) +
      (if (s.ureg u (keyOff u ctrl prt + 0x808)).getLsbD 17 then 0x20000 else 0)
  else 0

/-- UP and PEERPKG of a fabric port (R370): the package at its other end is of the domain, and the link has not gone down. -/
def linkUp (s : State) (u port : Nat) : Nat :=
  let k := Config.linkPeer u port
  if s.mg.pkgs.contains k && k != unitPkg u && !Store.get false s.mg.dead (linkKey u (8 + port)) then 1 + 256 * k else 0

/-- The 8-byte word of a unit's registers at an aligned offset. -/
def unitWord (s : State) (u o : Nat) : Nat :=
  let blk := o / 0x10000
  let i := o % 0x10000
  let plain := (s.ureg u o).toNat
  if isStack u then
    match blk, i with
    | 1, 0x08 => (s.parking u).length
    | 6, 0x00 => 0
    | 6, 0x08 => (s.mg.binds.filter (fun b => b.unit == u)).length + (if (s.ureg u o).getLsbD 9 then 512 else 0)
    | 7, 0x08 =>
      let t := s.team (u * 256 + (s.ureg u 0x70000).toNat % 256)
      t.recs.length + 256 * min 255 t.dropTotal
    | 8, 0x00 => 0
    | _, _ =>
      if blk = 6 ∧ 0x4000 ≤ i ∧ i < 0x8000 then fieldOf (s.team (u * 256 + (i - 0x4000) / 64)).bytes (i % 64) 8
      else if blk = 7 ∧ 0x1000 ≤ i ∧ i < 0x1800 then s.fcWord u (i - 0x1000)
      else if blk = 7 ∧ 0x4000 ≤ i ∧ i < 0x6000 then s.barrierWord u (i - 0x4000)
      else if blk = 10 ∧ 0x8000 ≤ i then s.keyWord u 0 i
      else (s.sharedWord u 11 blk i).getD plain
  else
    match blk, i with
    | 8, 0x10 => (s.tickAt u).toNat
    | _, _ =>
      if blk = 1 ∧ 0x100 ≤ i ∧ i < 0x200 ∧ i % 0x20 = 0 then s.parkCount u ((i - 0x100) / 0x20)
      else if blk = 3 ∧ i < 0x200 ∧ i % 0x40 = 0 then plain + s.linkUp u (i / 0x40)
      else if 16 ≤ blk ∧ blk < 28 ∧ 0x8000 ≤ i then s.keyWord u (blk - 16) i
      else (s.sharedWord u 10 blk i).getD plain

/-- The 8-byte word of BAR0 of a function (R364, R426). -/
def fnWord (s : State) (fn o : Nat) : Nat :=
  let b := s.mboxOf fn
  if 0x1000 ≤ o ∧ o < 0x1200 then (s.ureg (fnUnit fn) o).toNat
  else if o = 0x1208 then
    (if b.busy then 1 else 0) + (if b.full then 2 else 0) + (if b.lost then 4 else 0) + (if b.werr then 8 else 0)
  else if fn = 0 then
    match o with
    | 0x00 => s.mg.boot + 16 * s.mg.bootCode + (if s.mg.boot = 9 then 256 else 0)
    | 0x08 => (s.ureg 2048 8).toNat
    | 0x18 => Store.get 0 s.mg.failed 0 % 65536 + (s.ureg 2048 0x18).toNat
    | 0x20 => s.mg.errLost % 2 ^ 32
    | _ => if 0x2000 ≤ o ∧ o < 0x4000 then (s.ureg 2048 o).toNat else 0
  else if o < 0x80 then (s.ureg 16 (lqOff (fn - 1) (o / 8) + 0x10)).toNat
  else if 0x100 ≤ o ∧ o < 0x180 then (s.ureg 16 (lqOff (fn - 1) ((o - 0x100) / 8) + 0x18)).toNat
  else 0

end State

/-! ### Writes -/

/-- The state an event leaves. -/
def State.run (s : State) (f : State → Out) : State :=
  match f s with
  | .next t => t
  | _ => s

/-- A write of some bytes of an 8-byte word: the word, and the bits written. -/
structure RegW where
  data : Nat
  mask : Nat
  deriving DecidableEq, Repr

/-- A 32-bit register at the start of the word is written. -/
def RegW.low (w : RegW) : Bool := w.mask % 2 != 0
def RegW.bit (w : RegW) (n : Nat) : Bool := w.mask.testBit n && w.data.testBit n

namespace State

/-- Write the plain fields of a word (R7). -/
def putPlain (s : State) (u o : Nat) (w : RegW) : State :=
  let m := regMask u o
  let x := s.ureg u o
  let rw : DWord := BitVec.ofNat 64 (m.1 &&& w.mask)
  let clr : DWord := BitVec.ofNat 64 (m.2 &&& w.mask &&& w.data)
  s.setUreg u o (((x &&& ~~~rw) ||| (BitVec.ofNat 64 w.data &&& rw)) &&& ~~~clr)

/-- A write of a core block (R74): C0LIMn, whose bucket has gained up to now under the old RATE; its level stays, which the spec
leaves open (log 33). -/
def putCore (s : State) (u blk i : Nat) (w : RegW) : State :=
  let core := blk - (if isStack u then 16 else 28)
  (s.refill u core ((i - 0x200) / 8)).putPlain u (blk * 0x10000 + i) w

/-- Writes in block 2 (R44, R45, R47). -/
def putTranslate (s : State) (u i : Nat) (w : RegW) : State :=
  let d := w.data
  if !w.low then s
  else if i = 0x40 then
    if !d.testBit 7 then s
    else if 2 ≤ bitsOf d 4 3 ∨ (bitsOf d 4 3 = 0 ∧ bitsOf d 6 5 = 3) then s.run (execSdcmdInvalid u (BitVec.ofNat 32 d))
    else if bitsOf d 4 3 = 0 then s.run (execShootdownPage u (d % 8) (bitsOf d 6 5))
    else s.run (execShootdownAll u (d % 8))
  else if i = 0x50 then (if d.testBit 1 then s.setShoot u { s.shoot u with lost := false } else s)
  else if i = 0x60 then
    let s1 := if d.testBit 16 then s.setXfq u { s.xfq u with err := false } else s
    s1.run (execXfqptrHeadWrite u d)
  else if i = 0x68 then (if d.testBit 31 then s.answer u (d % 65536) (d.testBit 16) else s)
  else s

/-- Writes of RSCMD (R108). -/
def putRscmd (s : State) (u : Nat) (w : RegW) : State :=
  let d := w.data
  if !w.low || !d.testBit 31 then s
  else
    match bitsOf d 17 15 with
    | 0 => s.run (execRscmdOne u (d % 256))
    | 1 => s.run (execRscmdPart u (bitsOf d 10 8))
    | 2 => s.run (execRscmdKey u (bitsOf d 10 8) (bitsOf d 14 11))
    | 3 => s.run (execRscmdAll u)
    | k => s.run (execRscmdInvalid u k)

/-- Writes of the key registers of a controller (R391). -/
def putKeyReg (s : State) (u ctrl i : Nat) (w : RegW) : State :=
  let prt := (i - 0x8000) / 0x1000
  let j := i % 0x1000
  let d := w.data
  if j < 0x400 then (if w.mask = 2 ^ 64 - 1 then s.setUreg u (keyOff u ctrl prt + j) (BitVec.ofNat 64 d) else s)
  else if j = 0x800 then
    if !w.low || !d.testBit 31 then s
    else if bitsOf d 5 4 = 0 then s.loadSlot u ctrl prt (d % 16)
    else if bitsOf d 5 4 = 1 then s.revokeSlot u ctrl prt (d % 16)
    else s.keyLost u ctrl prt
  else if j = 0x808 then
    (if w.bit 17 then s.setUreg u (keyOff u ctrl prt + j) (s.ureg u (keyOff u ctrl prt + j) &&& ~~~0x20000) else s)
  else s

/-- Writes of SMPCTLc, SMPSEED and DBGCTL (R399, R408 to R411); a hub has four cores. -/
def putDebug (s : State) (u o i : Nat) (w : RegW) : State :=
  let d := w.data
  if i < 0x40 then
    if !w.low || (isHub u && 0x20 ≤ i) then s
    else
      let x := BitVec.ofNat 64 (d % 128)
      if s.ureg u o = x then s else (s.setUreg u o x).smpReload u (i / 8)
  else if i = 0x40 then
    if !w.low then s
    else
      let s1 := s.setUreg u o (BitVec.ofNat 64 (d % 65536))
      { s1 with dbg := { s1.dbg with lfsr := Store.set 0 s1.dbg.lfsr u (d % 65536) } }
  else if i = 0x2000 ∧ unitHome u = 16 then
    if !w.low then s
    else
      let k := unitPkg u
      let s1 := ((s.dbgBit k 0 (d.testBit 0)).dbgBit k 4 (d.testBit 4)).writeScandata k (d.testBit 5)
      let s2 := if d.testBit 6 then s1.dbgBit k 6 false else s1
      let s3 := if d.testBit 1 then s2.stopPkg k else s2
      if d.testBit 3 then s3.releasePkg k else s3
  else s.putPlain u o w

/-- A write of RIFPTR (R379): records up to HEAD have been read. -/
def putRifptr (s : State) (u : Nat) (w : RegW) : State :=
  if !w.low then s
  else
    let x := (s.ureg u 0x70018).toNat
    let n := Store.get 0 s.net.rifCount u - (w.data + 256 - x % 256) % 256
    let s1 := s.setUreg u 0x70018 (BitVec.ofNat 64 (x - x % 256 + w.data % 256))
    { s1 with net := { s1.net with rifCount := Store.set 0 s1.net.rifCount u n } }

/-- A write of a team-table word (R334). -/
def putTeam (s : State) (u i : Nat) (w : RegW) : State :=
  let tk := u * 256 + (i - 0x4000) / 64
  let t := s.team tk
  let bs := t.bytes
  let old := fieldOf bs (i % 64) 8
  let x := (old - (old &&& w.mask)) + (w.data &&& w.mask)
  s.setTeam tk (s.teamOf u t (bs.take (i % 64) ++ leBytes 8 x ++ bs.drop (i % 64 + 8)))

/-- A write of a word of a unit's registers. -/
def putUnit (s : State) (u o : Nat) (w : RegW) : State :=
  let blk := o / 0x10000
  let i := o % 0x10000
  if blk = 2 ∧ i ≠ 0x48 ∧ 0x40 ≤ i then s.putTranslate u i w
  else if isStack u then
    if blk = 6 ∧ i = 0 then (if w.low && w.data.testBit 31 then s.run (execStpost u (w.data % 256)) else s)
    else if blk = 6 ∧ 0x4000 ≤ i ∧ i < 0x8000 then s.putTeam u i w
    else if blk = 8 ∧ i = 0 then s.putRscmd u w
    else if blk = 1 ∧ i = 0x10 then (s.putPlain u o w).parkStops u 0
    else if blk = 10 ∧ 0x8000 ≤ i then s.putKeyReg u 0 i w
    else if blk = 11 then s.putDebug u o i w
    else if 16 ≤ blk ∧ blk < 24 ∧ 0x200 ≤ i ∧ i < 0x240 then s.putCore u blk i w
    else s.putPlain u o w
  else if blk = 5 ∧ unitHome u = 16 ∧ 0x1000 ≤ i ∧ i < 0x2000 ∧ i % 0x20 = 0x10 then
    (if w.low then s.ring ((i - 0x1000) / 0x200) (i % 0x200 / 0x20) (BitVec.ofNat 32 w.data) false else s)
  else if blk = 7 ∧ i = 0x18 then s.putRifptr u w
  else if blk = 1 ∧ 0x100 ≤ i ∧ i < 0x200 ∧ i % 0x20 = 8 then (s.putPlain u o w).parkStops u ((i - 0x100) / 0x20)
  else if blk = 8 ∧ i = 0 then [16, 17].foldl (fun (s : State) h => s.putPlain (unitPkg u * 32 + h) o w) s
  else if 16 ≤ blk ∧ blk < 28 ∧ 0x8000 ≤ i then s.putKeyReg u (blk - 16) i w
  else if blk = 10 then s.putDebug u o i w
  else if 28 ≤ blk ∧ 0x200 ≤ i ∧ i < 0x240 then s.putCore u blk i w
  else s.putPlain u o w

/-- A write of a word of BAR0 (R364, R426). -/
def putFn (s : State) (fn o : Nat) (w : RegW) : State :=
  let b := s.mboxOf fn
  let old := s.ureg (fnUnit fn) o
  let m : DWord := BitVec.ofNat 64 w.mask
  let stored := s.setUreg (fnUnit fn) o ((old &&& ~~~m) ||| (BitVec.ofNat 64 w.data &&& m))
  if 0x1000 ≤ o ∧ o < 0x1100 then (if b.busy then s.werr fn else stored)
  else if o = 0x1200 then (if w.low && w.data.testBit 0 then s.run (execMailboxSend fn) else s)
  else if o = 0x1208 then
    (if w.low then s.setMbox fn { b with
      full := b.full && !w.data.testBit 1
      lost := b.lost && !w.data.testBit 2
      werr := b.werr && !w.data.testBit 3 } else s)
  else if fn = 0 then
    if o = 0x08 then stored
    else if o = 0x10 then (if w.low && w.data.testBit 0 then s.run execFwctlGo else s)
    else if o = 0x18 then
      s.setUreg 2048 0x18 (s.ureg 2048 0x18 &&& ~~~(BitVec.ofNat 64 (w.data &&& w.mask &&& 0x70000)))
    else if 0x2000 ≤ o ∧ o < 0x3000 then stored
    else s
  else if o < 0x80 then
    (if w.low then s.ring (fn - 1) (o / 8) (BitVec.ofNat 32 w.data) true else s)
  else s

end State

/-- The access is naturally aligned and 4 or 8 bytes wide (R14, R364). -/
def properAccess (off width : Nat) : Bool := (width == 4 || width == 8) && off % width == 0

/-- The write of 4 or 8 bytes as a write of part of a word. -/
def regW (off width data : Nat) : RegW :=
  let sh := 8 * (off % 8)
  ⟨data % 2 ^ (8 * width) * 2 ^ sh, (2 ^ (8 * width) - 1) * 2 ^ sh⟩

namespace State

/-- A read of 4 or 8 bytes of a unit's registers; one of SMPLOST clears it (R7, R411). -/
def regRead (s : State) (u off width : Nat) : State × Nat :=
  let x := s.unitWord u (off / 8 * 8) / 2 ^ (8 * (off % 8)) % 2 ^ (8 * width)
  (if off = dbgOff u 0x48 then s.setUreg u off 0 else s, x)

/-- An improper access of the bus bridge sets BRERR (R14, R426). -/
def unitAccess (s : State) (wr : Bool) (u off width data : Nat) : State :=
  if !properAccess off width then
    let s1 := s.setMgmtstat 16
    if wr then s1 else { s1 with hostData := leBytes (min 8 width) 0 }
  else if wr then s.putUnit u (off / 8 * 8) (regW off width data)
  else
    let r := s.regRead u off width
    { r.1 with hostData := leBytes width r.2 }

/-- An access of the host to BAR0 of a function (R363, R364); one that does not exist answers Unsupported Request. -/
def fnAccess (s : State) (wr : Bool) (fn off width data : Nat) : State :=
  if !s.fnPresent fn then (if wr then s else { s with hostData := [] })
  else if !properAccess off width then
    let s1 := s.werr fn
    if wr then s1 else { s1 with hostData := leBytes (min 8 width) 0 }
  else if wr then s.putFn fn (off / 8 * 8) (regW off width data)
  else
    let x := s.fnWord fn (off / 8 * 8) / 2 ^ (8 * (off % 8)) % 2 ^ (8 * width)
    let s1 : State := if fn = 0 ∧ off = 0x20 then { s with mg := { s.mg with errLost := 0 } } else s
    { s1 with hostData := leBytes width x }

/-- The memory an on-die or reserve offset names, for the bridge (R11, R13, R16): none where nothing is backed. -/
def bridgeSpa (spa n : Nat) : Option Nat :=
  let u := spaUnit spa
  let o := spaOff spa
  let inside := fun (lo hi : Nat) => decide (lo ≤ o) && decide (o + n ≤ hi)
  if isStack u then
    if inside 0 0x001000000000 || inside 0x100000000000 0x100004000000 || inside 0x100010000000 0x100010400000 ||
        inside 0x100020000000 0x100020400000 then some spa
    else if inside 0x100030000000 0x100040000000 then some (unitBase u + 0x000FE0000000 + (o - 0x100030000000))
    else none
  else if isHub u && inside 0 0x030000000000 then some spa
  else none

end State

/-- BRIDGE_ACCESS (R14, R16, R69): a management core's access by SPA, on class 5, and a shootdown command on class 4 (log 26), which
waits while its class does not flow; in an encrypted slot it reads and writes the bytes as they stand (log 8).  Data read stands in `hostData`. -/
def execBridgeAccess (spa width : Nat) (wr : Bool) (data : DWord) (s : State) : Out :=
  let u := spaUnit spa
  let o := spaOff spa
  if !s.linked (if wr && o == 0x1000F0020040 then State.shootVia u (data.toNat % 8) else ⟨unitPkg u * 32 + 16, u, 0, 5⟩) then
    .next s
  else if (isStack u || isHub u) && s.mg.pkgs.contains (unitPkg u) && decide (0x1000F0000000 ≤ o) &&
      decide (o < 0x1000F0200000) then
    .next (s.unitAccess wr u (o - 0x1000F0000000) width data.toNat)
  else
    let n := min 8 width
    match (if s.mg.pkgs.contains (unitPkg u) then State.bridgeSpa spa n else none) with
    | none => .fault (.unbacked spa)
    | some a => .next (if wr then s.poke a n data.toNat else { s with hostData := s.peekBytes a n })

/-- REGISTER_WRITE (R7, R14, R364): a write, or a read, of a register of a unit, or of BAR0 of a function (units 2048 and
above). -/
def execRegisterWrite (wr : Bool) (u off width : Nat) (data : DWord) (s : State) : Out :=
  if 2048 ≤ u then .next (s.fnAccess wr (u - 2048) off width data.toNat)
  else if s.allUnits.contains u && decide (off < 0x200000) then .next (s.unitAccess wr u off width data.toNat)
  else .next s

end Sys2Proof.Machine
end

