-- ==== Sys2Proof/Machine/Dispatch.lean ====
section
/-! DEFINITION. One arm per instruction and event: a direct call of its meaning, or a refusal by name. -/

namespace Sys2Proof.Machine

def exec (i : Instr) (s : State) : Host.Outcome State Fault Refusal :=
  match i with
  | .nop h => Sys2Proof.Machine.execNop h s
  | .add h m o => Sys2Proof.Machine.execAdd h m o s
  | .sub h m o => Sys2Proof.Machine.execSub h m o s
  | .addc h o => Sys2Proof.Machine.execAddc h o s
  | .subb h o => Sys2Proof.Machine.execSubb h o s
  | .mul h m o => Sys2Proof.Machine.execMul h m o s
  | .mulh h m o => Sys2Proof.Machine.execMulh h m o s
  | .mad h m o => Sys2Proof.Machine.execMad h m o s
  | .madw h sg o => Sys2Proof.Machine.execMadw h sg o s
  | .div h m o => Sys2Proof.Machine.execDiv h m o s
  | .rem h m o => Sys2Proof.Machine.execRem h m o s
  | .neg h m o => Sys2Proof.Machine.execNeg h m o s
  | .abs h m o => Sys2Proof.Machine.execAbs h m o s
  | .min h m o => Sys2Proof.Machine.execMin h m o s
  | .max h m o => Sys2Proof.Machine.execMax h m o s
  | .sad h m o => Sys2Proof.Machine.execSad h m o s
  | .lea h shift sx o => Sys2Proof.Machine.execLea h shift sx o s
  | .add64 h m o => Sys2Proof.Machine.execAdd64 h m o s
  | .sub64 h m o => Sys2Proof.Machine.execSub64 h m o s
  | .mov h w64 o => Sys2Proof.Machine.execMov h w64 o s
  | .movi h o => Sys2Proof.Machine.execMovi h o s
  | .movw h hi o => Sys2Proof.Machine.execMovw h hi o s
  | .sel h w64 o => Sys2Proof.Machine.execSel h w64 o s
  | .iclamp h m o => Sys2Proof.Machine.execIclamp h m o s
  | .dot4 h sa sb sat o => Sys2Proof.Machine.execDot4 h sa sb sat o s
  | .dot2 h sa sb sat o => Sys2Proof.Machine.execDot2 h sa sb sat o s
  | .andB h w64 o => Sys2Proof.Machine.execAndB h w64 o s
  | .orB h w64 o => Sys2Proof.Machine.execOrB h w64 o s
  | .xorB h w64 o => Sys2Proof.Machine.execXorB h w64 o s
  | .notB h w64 o => Sys2Proof.Machine.execNotB h w64 o s
  | .andn h w64 o => Sys2Proof.Machine.execAndn h w64 o s
  | .orn h w64 o => Sys2Proof.Machine.execOrn h w64 o s
  | .bfn3 h fn o => Sys2Proof.Machine.execBfn3 h fn o s
  | .shl h o => Sys2Proof.Machine.execShl h o s
  | .shr h o => Sys2Proof.Machine.execShr h o s
  | .sar h o => Sys2Proof.Machine.execSar h o s
  | .rotl h o => Sys2Proof.Machine.execRotl h o s
  | .rotr h o => Sys2Proof.Machine.execRotr h o s
  | .shl64 h o => Sys2Proof.Machine.execShl64 h o s
  | .shr64 h o => Sys2Proof.Machine.execShr64 h o s
  | .sar64 h o => Sys2Proof.Machine.execSar64 h o s
  | .clz h w64 o => Sys2Proof.Machine.execClz h w64 o s
  | .ctz h w64 o => Sys2Proof.Machine.execCtz h w64 o s
  | .popc h w64 o => Sys2Proof.Machine.execPopc h w64 o s
  | .brev h w64 o => Sys2Proof.Machine.execBrev h w64 o s
  | .bfx h sg o => Sys2Proof.Machine.execBfx h sg o s
  | .bfi h o => Sys2Proof.Machine.execBfi h o s
  | .bsel h w64 o => Sys2Proof.Machine.execBsel h w64 o s
  | .cmp h t cond pc bop o => Sys2Proof.Machine.execCmp h t cond pc bop o s
  | .cmp64 h sg cond pc bop o => Sys2Proof.Machine.execCmp64 h sg cond pc bop o s
  | .fcmp h cond pc bop o => Sys2Proof.Machine.execFcmp h cond pc bop o s
  | .pand h na nb o => Sys2Proof.Machine.execPand h na nb o s
  | .por h na nb o => Sys2Proof.Machine.execPor h na nb o s
  | .pxor h na nb o => Sys2Proof.Machine.execPxor h na nb o s
  | .pnot h o => Sys2Proof.Machine.execPnot h o s
  | .pmov h o => Sys2Proof.Machine.execPmov h o s
  | .vote h mode na o => Sys2Proof.Machine.execVote h mode na o s
  | .shfl h mode grp w64 o => Sys2Proof.Machine.execShfl h mode grp w64 o s
  | .vtos h w64 o => Sys2Proof.Machine.execVtos h w64 o s
  | .stov h w64 o => Sys2Proof.Machine.execStov h w64 o s
  | .amask h d => Sys2Proof.Machine.execAmask h d s
  | .prefixScan h op t excl rnd o => Sys2Proof.Machine.execPrefixScan h op t excl rnd o s
  | .reduce h op t rnd o => Sys2Proof.Machine.execReduce h op t rnd o s
  | .matchV h w64 o => Sys2Proof.Machine.execMatchV h w64 o s
  | .br h neg p off => Sys2Proof.Machine.execBr h neg p off s
  | .brd h neg p hud off => Sys2Proof.Machine.execBrd h neg p hud off s
  | .jmp h off => Sys2Proof.Machine.execJmp h off s
  | .jmpi h a c => Sys2Proof.Machine.execJmpi h a c s
  | .call h slide off => Sys2Proof.Machine.execCall h slide off s
  | .calli h slide a c => Sys2Proof.Machine.execCalli h slide a c s
  | .ret h => Sys2Proof.Machine.execRet h s
  | .hjoin h hud => Sys2Proof.Machine.execHjoin h hud s
  | .exit h => Sys2Proof.Machine.execExit h s
  | .loop h n off => Sys2Proof.Machine.execLoop h n off s
  | .wgrow h amt => Sys2Proof.Machine.execWgrow h amt s
  | .wshrink h amt => Sys2Proof.Machine.execWshrink h amt s
  | .fadd h m o => Sys2Proof.Machine.execFadd h m o s
  | .fsub h m o => Sys2Proof.Machine.execFsub h m o s
  | .fmul h m o => Sys2Proof.Machine.execFmul h m o s
  | .ffma h m o => Sys2Proof.Machine.execFfma h m o s
  | .fmin h o => Sys2Proof.Machine.execFmin h o s
  | .fmax h o => Sys2Proof.Machine.execFmax h o s
  | .fabs h o => Sys2Proof.Machine.execFabs h o s
  | .fneg h o => Sys2Proof.Machine.execFneg h o s
  | .fdiv h m o => Sys2Proof.Machine.execFdiv h m o s
  | .fsqrt h m o => Sys2Proof.Machine.execFsqrt h m o s
  | .frcp h m o => Sys2Proof.Machine.execFrcp h m o s
  | .frsq h m o => Sys2Proof.Machine.execFrsq h m o s
  | .fexp2 h m o => Sys2Proof.Machine.execFexp2 h m o s
  | .flog2 h m o => Sys2Proof.Machine.execFlog2 h m o s
  | .frnd h rnd o => Sys2Proof.Machine.execFrnd h rnd o s
  | .fclass h o => Sys2Proof.Machine.execFclass h o s
  | .fcopysign h o => Sys2Proof.Machine.execFcopysign h o s
  | .fscale h m o => Sys2Proof.Machine.execFscale h m o s
  | .f16add h m o => Sys2Proof.Machine.execF16add h m o s
  | .f16mul h m o => Sys2Proof.Machine.execF16mul h m o s
  | .f16fma h m o => Sys2Proof.Machine.execF16fma h m o s
  | .f16min h o => Sys2Proof.Machine.execF16min h o s
  | .f16max h o => Sys2Proof.Machine.execF16max h o s
  | .b16add h m o => Sys2Proof.Machine.execB16add h m o s
  | .b16mul h m o => Sys2Proof.Machine.execB16mul h m o s
  | .b16fma h m o => Sys2Proof.Machine.execB16fma h m o s
  | .fdot2 h m o => Sys2Proof.Machine.execFdot2 h m o s
  | .bdot2 h m o => Sys2Proof.Machine.execBdot2 h m o s
  | .fcmp2 h cond bf o => Sys2Proof.Machine.execFcmp2 h cond bf o s
  | .qdot4 h m fa fb o => Sys2Proof.Machine.execQdot4 h m fa fb o s
  | .b16min h o => Sys2Proof.Machine.execB16min h o s
  | .b16max h o => Sys2Proof.Machine.execB16max h o s
  | .cvt h m src dst o => Sys2Proof.Machine.execCvt h m src dst o s
  | .i2f h m t dst o => Sys2Proof.Machine.execI2f h m t dst o s
  | .f2i h rnd t src o => Sys2Proof.Machine.execF2i h rnd t src o s
  | .pk h m raw dst pos o => Sys2Proof.Machine.execPk h m raw dst pos o s
  | .upk h src elem raw o => Sys2Proof.Machine.execUpk h src elem raw o s
  | .mxq h fmt d a sc => Sys2Proof.Machine.execMxq h fmt d a sc s
  | .mxd h rnd fmt o => Sys2Proof.Machine.execMxd h rnd fmt o s
  | .ld h m d a disp => Sys2Proof.Machine.execLd h m d a disp s
  | .st h m a b disp => Sys2Proof.Machine.execSt h m a b disp s
  | .stp h w a b disp => Sys2Proof.Machine.execStp h w a b disp s
  | .atm h m d a b disp => Sys2Proof.Machine.execAtm h m d a b disp s
  | .atp h m a b disp => Sys2Proof.Machine.execAtp h m a b disp s
  | .cas h m d a b disp => Sys2Proof.Machine.execCas h m d a b disp s
  | .fence h ord scope cp mx => Sys2Proof.Machine.execFence h ord scope cp mx s
  | .drain h => Sys2Proof.Machine.execDrain h s
  | .pass h a disp => Sys2Proof.Machine.execPass h a disp s
  | .rrd h t d a disp => Sys2Proof.Machine.execRrd h t d a disp s
  | .rwr h w a b disp => Sys2Proof.Machine.execRwr h w a b disp s
  | .lds h m d a disp => Sys2Proof.Machine.execLds h m d a disp s
  | .sts h m a b disp => Sys2Proof.Machine.execSts h m a b disp s
  | .ats h m d a b disp => Sys2Proof.Machine.execAts h m d a b disp s
  | .bar h id mx => Sys2Proof.Machine.execBar h id mx s
  | .bara h id mx => Sys2Proof.Machine.execBara h id mx s
  | .barw h id => Sys2Proof.Machine.execBarw h id s
  | .sgo h ring mx a => Sys2Proof.Machine.execSgo h ring mx a s
  | .swt h ring a b => Sys2Proof.Machine.execSwt h ring a b s
  | .gang h a c => Sys2Proof.Machine.execGang h a c s
  | .mstat h ty pat a b region => Sys2Proof.Machine.execMstat h ty pat a b region s
  | .mfree h region => Sys2Proof.Machine.execMfree h region s
  | .mmx h m d a b => Sys2Proof.Machine.execMmx h m d a b s
  | .mmxs h m s14 d a b => Sys2Proof.Machine.execMmxs h m s14 d a b s
  | .mmxd h m full sreg d a b => Sys2Proof.Machine.execMmxd h m full sreg d a b s
  | .mzero h d => Sys2Proof.Machine.execMzero h d s
  | .mdrn h bf m d a => Sys2Proof.Machine.execMdrn h bf m d a s
  | .mdrq h fmt m d a b => Sys2Proof.Machine.execMdrq h fmt m d a b s
  | .mdrx h m d a b => Sys2Proof.Machine.execMdrx h m d a b s
  | .mslotInv h a => Sys2Proof.Machine.execMslotInv h a s
  | .mslotNint h a b => Sys2Proof.Machine.execMslotNint h a b s
  | .mwait h => Sys2Proof.Machine.execMwait h s
  | .cpG2s h q d a b => Sys2Proof.Machine.execCpG2s h q d a b s
  | .cpS2g h q d a b => Sys2Proof.Machine.execCpS2g h q d a b s
  | .cpg h q d a b cc => Sys2Proof.Machine.execCpg h q d a b cc s
  | .cpw h a b disp => Sys2Proof.Machine.execCpw h a b disp s
  | .cpy h a b off => Sys2Proof.Machine.execCpy h a b off s
  | .qfence h qset => Sys2Proof.Machine.execQfence h qset s
  | .qwait h qset => Sys2Proof.Machine.execQwait h qset s
  | .trec h use d a => Sys2Proof.Machine.execTrec h use d a s
  | .lnch h a => Sys2Proof.Machine.execLnch h a s
  | .srd h w64 d r e => Sys2Proof.Machine.execSrd h w64 d r e s
  | .swr h w64 r a e c => Sys2Proof.Machine.execSwr h w64 r a e c s
  | .trap h n => Sys2Proof.Machine.execTrap h n s
  | .eret h => Sys2Proof.Machine.execEret h s
  | .sqkill h => Sys2Proof.Machine.execSqkill h s
  | .tmkill h => Sys2Proof.Machine.execTmkill h s
  | .relax h n => Sys2Proof.Machine.execRelax h n s
  | .sleep h a c => Sys2Proof.Machine.execSleep h a c s
  | .brkpt h n => Sys2Proof.Machine.execBrkpt h n s
  | .smark h n => Sys2Proof.Machine.execSmark h n s
  | .icinv h reach => Sys2Proof.Machine.execIcinv h reach s
  | .twait h a c => Sys2Proof.Machine.execTwait h a c s
  | .resultLand pid k => Sys2Proof.Machine.execResultLand pid k s
  | .relaxExpire pid => Sys2Proof.Machine.execRelaxExpire pid s
  | .yieldExpire pid => Sys2Proof.Machine.execYieldExpire pid s
  | .translationProbe k => Sys2Proof.Machine.execTranslationProbe k s
  | .pageWalkStep k => Sys2Proof.Machine.execPageWalkStep k s
  | .adUpdate k => Sys2Proof.Machine.execAdUpdate k s
  | .walkAheadTranslate tk q => Sys2Proof.Machine.execWalkAheadTranslate tk q s
  | .shootdownComplete u => Sys2Proof.Machine.execShootdownComplete u s
  | .xfqRecordWrite u => Sys2Proof.Machine.execXfqRecordWrite u s
  | .depart pid => Sys2Proof.Machine.execDepart pid s
  | .departureBufferGrant pid => Sys2Proof.Machine.execDepartureBufferGrant pid s
  | .frameInject pid => Sys2Proof.Machine.execFrameInject pid s
  | .c0LimiterRefill u core part => Sys2Proof.Machine.execC0LimiterRefill u core part s
  | .flush k => Sys2Proof.Machine.execFlush k s
  | .postedRequest k => Sys2Proof.Machine.execPostedRequest k s
  | .ackTimer pid u => Sys2Proof.Machine.execAckTimer pid u s
  | .acknowledgement k => Sys2Proof.Machine.execAcknowledgement k s
  | .frameArrival pid => Sys2Proof.Machine.execFrameArrival pid s
  | .frameDispatch u => Sys2Proof.Machine.execFrameDispatch u s
  | .frameUnpark u => Sys2Proof.Machine.execFrameUnpark u s
  | .frameFetch pid => Sys2Proof.Machine.execFrameFetch pid s
  | .frameFetchData pid => Sys2Proof.Machine.execFrameFetchData pid s
  | .growthRequest pid => Sys2Proof.Machine.execGrowthRequest pid s
  | .squadCreate u rec => Sys2Proof.Machine.execSquadCreate u rec s
  | .squadStart pid => Sys2Proof.Machine.execSquadStart pid s
  | .joinRequest k => Sys2Proof.Machine.execJoinRequest k s
  | .joinReply pid => Sys2Proof.Machine.execJoinReply pid s
  | .huddleFinalMask pid => Sys2Proof.Machine.execHuddleFinalMask pid s
  | .exitNotice k => Sys2Proof.Machine.execExitNotice k s
  | .barrierArrival k => Sys2Proof.Machine.execBarrierArrival k s
  | .stageGo k => Sys2Proof.Machine.execStageGo k s
  | .stageWait k => Sys2Proof.Machine.execStageWait k s
  | .partWake pid => Sys2Proof.Machine.execPartWake pid s
  | .latchArrival pid => Sys2Proof.Machine.execLatchArrival pid s
  | .commandAppend k => Sys2Proof.Machine.execCommandAppend k s
  | .copyBegin tk q => Sys2Proof.Machine.execCopyBegin tk q s
  | .chunkComplete tk q c => Sys2Proof.Machine.execChunkComplete tk q c s
  | .regionFillBegin tk => Sys2Proof.Machine.execRegionFillBegin tk s
  | .regionFillEnd tk => Sys2Proof.Machine.execRegionFillEnd tk s
  | .regionFree tk => Sys2Proof.Machine.execRegionFree tk s
  | .productBegin tk => Sys2Proof.Machine.execProductBegin tk s
  | .deltaInvocation tk => Sys2Proof.Machine.execDeltaInvocation tk s
  | .tileZero tk => Sys2Proof.Machine.execTileZero tk s
  | .slotInvalidate tk => Sys2Proof.Machine.execSlotInvalidate tk s
  | .slotNintWrite tk => Sys2Proof.Machine.execSlotNintWrite tk s
  | .drainBegin tk => Sys2Proof.Machine.execDrainBegin tk s
  | .joinEntry tk q => Sys2Proof.Machine.execJoinEntry tk q s
  | .entryCompletion tk q => Sys2Proof.Machine.execEntryCompletion tk q s
  | .cpyHoldRelease pid => Sys2Proof.Machine.execCpyHoldRelease pid s
  | .rscmdComplete u => Sys2Proof.Machine.execRscmdComplete u s
  | .faultRecordArrival k => Sys2Proof.Machine.execFaultRecordArrival k s
  | .faultNotice k => Sys2Proof.Machine.execFaultNotice k s
  | .storeFaultDeferred pid => Sys2Proof.Machine.execStoreFaultDeferred pid s
  | .deferralNotice k => Sys2Proof.Machine.execDeferralNotice k s
  | .killDelivery k => Sys2Proof.Machine.execKillDelivery k s
  | .teamRestart tk => Sys2Proof.Machine.execTeamRestart tk s
  | .restartableClear pid => Sys2Proof.Machine.execRestartableClear pid s
  | .freeze tk => Sys2Proof.Machine.execFreeze tk s
  | .freezeTimeout tk => Sys2Proof.Machine.execFreezeTimeout tk s
  | .sleepWake pid => Sys2Proof.Machine.execSleepWake pid s
  | .twaitWake pid => Sys2Proof.Machine.execTwaitWake pid s
  | .waitEventPoll part => Sys2Proof.Machine.execWaitEventPoll part s
  | .launchAdmit lk => Sys2Proof.Machine.execLaunchAdmit lk s
  | .teamPlace lk k u => Sys2Proof.Machine.execTeamPlace lk k u s
  | .launchComplete lk => Sys2Proof.Machine.execLaunchComplete lk s
  | .remoteSend rid => Sys2Proof.Machine.execRemoteSend rid s
  | .remoteRetransmit rid => Sys2Proof.Machine.execRemoteRetransmit rid s
  | .remoteTimeout rid => Sys2Proof.Machine.execRemoteTimeout rid s
  | .d2hPost fn => Sys2Proof.Machine.execD2hPost fn s
  | .faultresp fn unit park deny => Sys2Proof.Machine.execFaultresp fn unit park deny s
  | .teardown part => Sys2Proof.Machine.execTeardown part s
  | .tickMatchFire u => Sys2Proof.Machine.execTickMatchFire u s
  | .sampleCopy u => Sys2Proof.Machine.execSampleCopy u s
  | .checkpoint part => Sys2Proof.Machine.execCheckpoint part s
  | .replayDiverged part => Sys2Proof.Machine.execReplayDiverged part s
  | .rerun part => Sys2Proof.Machine.execRerun part s
  | .instructionFetch pid => Sys2Proof.Machine.execInstructionFetch pid s
  | .shootdownPage u part size => Sys2Proof.Machine.execShootdownPage u part size s
  | .shootdownAll u part => Sys2Proof.Machine.execShootdownAll u part s
  | .sdcmdInvalid u cmd => Sys2Proof.Machine.execSdcmdInvalid u cmd s
  | .xfqptrHeadWrite u head => Sys2Proof.Machine.execXfqptrHeadWrite u head s
  | .xfrespRetry u park => Sys2Proof.Machine.execXfrespRetry u park s
  | .xfrespDeny u park => Sys2Proof.Machine.execXfrespDeny u park s
  | .flowStop link part cls => Sys2Proof.Machine.execFlowStop link part cls s
  | .flowGo link part cls => Sys2Proof.Machine.execFlowGo link part cls s
  | .macScrub u mac blk => Sys2Proof.Machine.execMacScrub u mac blk s
  | .rscmdOne u slot => Sys2Proof.Machine.execRscmdOne u slot s
  | .rscmdPart u part => Sys2Proof.Machine.execRscmdPart u part s
  | .rscmdKey u part key => Sys2Proof.Machine.execRscmdKey u part key s
  | .rscmdAll u => Sys2Proof.Machine.execRscmdAll u s
  | .rscmdInvalid u kind => Sys2Proof.Machine.execRscmdInvalid u kind s
  | .contextLoss bu k => Sys2Proof.Machine.execContextLoss bu k s
  | .resume img u => Sys2Proof.Machine.execResume img u s
  | .doorbell part q tail host => Sys2Proof.Machine.execDoorbell part q tail host s
  | .stpost u rec => Sys2Proof.Machine.execStpost u rec s
  | .remoteReply hub g => Sys2Proof.Machine.execRemoteReply hub g s
  | .remoteRequestReceive hub g => Sys2Proof.Machine.execRemoteRequestReceive hub g s
  | .rateIncrease hub addr lat => Sys2Proof.Machine.execRateIncrease hub addr lat s
  | .ptpSync offset => Sys2Proof.Machine.execPtpSync offset s
  | .linkDown u port => Sys2Proof.Machine.execLinkDown u port s
  | .domainForm pkgs => Sys2Proof.Machine.execDomainForm pkgs s
  | .mailboxSend fn => Sys2Proof.Machine.execMailboxSend fn s
  | .windowWrite vf off data => Sys2Proof.Machine.execWindowWrite vf off data s
  | .windowRead vf off n => Sys2Proof.Machine.execWindowRead vf off n s
  | .firmwareImageWrite wr off n data => Sys2Proof.Machine.execFirmwareImageWrite wr off n data s
  | .faultServiceTimeout => Sys2Proof.Machine.execFaultServiceTimeout s
  | .create => Sys2Proof.Machine.execCreate s
  | .attest part nonce => Sys2Proof.Machine.execAttest part nonce s
  | .keyload part slot wrapped => Sys2Proof.Machine.execKeyload part slot wrapped s
  | .revoke part slot => Sys2Proof.Machine.execRevoke part slot s
  | .profring part va cap => Sys2Proof.Machine.execProfring part va cap s
  | .replay part mode t => Sys2Proof.Machine.execReplay part mode t s
  | .hold part entries => Sys2Proof.Machine.execHold part entries s
  | .power u pcap gmin => Sys2Proof.Machine.execPower u pcap gmin s
  | .breakset part n launch pc en => Sys2Proof.Machine.execBreakset part n launch pc en s
  | .tickset part tick launch en => Sys2Proof.Machine.execTickset part tick launch en s
  | .stopctlArm tick => Sys2Proof.Machine.execStopctlArm tick s
  | .stopctlStopnow => Sys2Proof.Machine.execStopctlStopnow s
  | .stopctlRelease => Sys2Proof.Machine.execStopctlRelease s
  | .stopctlSteprel v => Sys2Proof.Machine.execStopctlSteprel v s
  | .stoplist part start => Sys2Proof.Machine.execStoplist part start s
  | .dbgStep part launch team sq lane => Sys2Proof.Machine.execDbgStep part launch team sq lane s
  | .dbgContinue part launch one => Sys2Proof.Machine.execDbgContinue part launch one s
  | .packageStop => Sys2Proof.Machine.execPackageStop s
  | .scandataWrite v => Sys2Proof.Machine.execScandataWrite v s
  | .replayRun part k => Sys2Proof.Machine.execReplayRun part k s
  | .capture part => Sys2Proof.Machine.execCapture part s
  | .kcmdLoad u ctrl part slot => Sys2Proof.Machine.execKcmdLoad u ctrl part slot s
  | .kcmdRevoke u ctrl part slot => Sys2Proof.Machine.execKcmdRevoke u ctrl part slot s
  | .kcmdInvalid u ctrl part op => Sys2Proof.Machine.execKcmdInvalid u ctrl part op s
  | .powerOn => Sys2Proof.Machine.execPowerOn s
  | .pf0Reset => Sys2Proof.Machine.execPf0Reset s
  | .fwctlGo => Sys2Proof.Machine.execFwctlGo s
  | .powerUpdate u pmeas temp => Sys2Proof.Machine.execPowerUpdate u pmeas temp s
  | .errlostRead => Sys2Proof.Machine.execErrlostRead s
  | .smplostRead u => Sys2Proof.Machine.execSmplostRead u s
  | .bridgeAccess spa width wr data => Sys2Proof.Machine.execBridgeAccess spa width wr data s
  | .registerWrite wr u off width data => Sys2Proof.Machine.execRegisterWrite wr u off width data s
  | .tick => Sys2Proof.Machine.execTick s
  | .dramScrub spa corrected => Sys2Proof.Machine.execDramScrub spa corrected s
  | .linkRetransmission u port => Sys2Proof.Machine.execLinkRetransmission u port s
  | .bootStepEnd ok code => Sys2Proof.Machine.execBootStepEnd ok code s

end Sys2Proof.Machine
end

