-- ==== Sys2Proof/Machine/Schedule.lean ====
section
/-! DEFINITION. What a step does next (R6, R142 to R148, R347, R406 to R408, R423; logs 1 and 2): events that are due, events
the outside world has scheduled, an event of a unit, or the issue of one instruction of a part. -/

namespace Sys2Proof.Machine

/-! ### Events the units perform -/

/-- Events of a part (R51, R143, R146, R152, R163), with none for a part that issues. -/
def partEvents (pid : Nat) (p : Part) : List Instr :=
  let base := match p.st with
    | .departing 0 => [Instr.depart pid]
    | .departing 1 => [Instr.departureBufferGrant pid]
    | .departing _ => [Instr.frameInject pid]
    | .travelling => [Instr.frameArrival pid]
    | .queued => if p.unlogged then [Instr.frameArrival pid] else []
    | .growing _ _ _ _ => [Instr.growthRequest pid]
    | .blocked (.tick _) _ => [Instr.sleepWake pid, Instr.twaitWake pid]
    | .blocked (.held _ _ _ (some _)) _ => [Instr.cpyHoldRelease pid]
    | .blocked _ true => [Instr.partWake pid]
    | .ready => (if p.start != 0 then [Instr.squadStart pid] else []) ++
        (if p.relaxTo != 0 then [Instr.relaxExpire pid] else []) ++
        (if p.yieldTo != 0 then [Instr.yieldExpire pid] else []) ++
        (if p.mi.sent && p.restartable then [Instr.restartableClear pid] else [])
    | _ => []
  base ++ (List.range p.pend.length).map (fun k => Instr.resultLand pid k)

/-- The event that takes a message off the fabric, where the opcode table has one. -/
def msgEvent (k : Nat) : Msg → Option Instr
  | .flushMsg _ _ _ _ => some (.flush k)
  | .join _ _ => some (.joinRequest k)
  | .joinReply p _ _ _ _ => some (.joinReply p)
  | .finalMask p _ _ => some (.huddleFinalMask p)
  | .exitMask _ _ _ => some (.exitNotice k)
  | .arrive _ _ _ _ _ _ => some (.barrierArrival k)
  | .sgo _ _ _ _ => some (.stageGo k)
  | .swt _ _ _ _ _ => some (.stageWait k)
  | .kill _ _ _ => some (.killDelivery k)
  | .latchAt p _ _ _ _ _ _ => some (.latchArrival p)
  | .command _ _ _ => some (.commandAppend k)
  | .frec _ _ _ _ => some (.faultRecordArrival k)
  | .notice _ _ => some (.faultNotice k)
  | .deferral _ => some (.deferralNotice k)
  | .clearRst p _ => some (.restartableClear p)
  | .frameFetch p _ _ _ => some (.frameFetch p)
  | .fetchData p _ _ _ _ _ => some (.frameFetchData p)
  | .clearMst _ _ => none

/-- The event a posted request comes to next (R66, R67). -/
def preqEvent (k : Nat) (r : PReq) : Instr :=
  match r.phase with
  | .flight => .postedRequest k
  | .performed => .ackTimer r.pid r.home
  | .acking => .acknowledgement k

/-- The next event of a lookup. -/
def xlatEvent (k : Nat) (x : Xlat) : List Instr :=
  match x.st with
  | .probe => [.translationProbe k]
  | .walk _ _ => [.pageWalkStep k]
  | .update _ _ _ _ => [.adUpdate k]
  | .joined _ => [.translationProbe k]
  | .failed _ _ => []
  | .unres => []

/-- Events of a queue head of a team (R276 to R304). -/
def headEvents (tk q : Nat) (e : Entry) : List Instr :=
  let work := match e.cmd with
    | .fill _ _ _ _ => [Instr.regionFillBegin tk, Instr.regionFillEnd tk]
    | .free _ => [Instr.regionFree tk]
    | .prod (.delta _ _ _) _ _ _ _ _ _ _ _ => [Instr.deltaInvocation tk]
    | .prod _ _ _ _ _ _ _ _ _ => [Instr.productBegin tk]
    | .zero _ => [Instr.tileZero tk]
    | .slotInv _ => [Instr.slotInvalidate tk]
    | .slotNint _ _ => [Instr.slotNintWrite tk]
    | .drainN _ _ _ _ => [Instr.drainBegin tk]
    | .drainQ _ _ _ _ _ => [Instr.drainBegin tk]
    | .drainX _ _ _ _ => [Instr.drainBegin tk]
    | .copy _ _ _ => [Instr.copyBegin tk q]
    | .gather _ _ _ => [Instr.copyBegin tk q]
    | .join _ => [Instr.joinEntry tk q]
  work ++ [Instr.walkAheadTranslate tk q] ++ (e.chunks.take 1).map (fun c => Instr.chunkComplete tk q c) ++
    [Instr.entryCompletion tk q]

namespace State

/-- A context that an uncorrectable error loses (R353): a frame in a queue, parking area or hold area, or a part whose frame
fetch meets one. -/
def lostPart (s : State) : Option Nat :=
  if s.ecc.isEmpty then none
  else (s.parts.find? (fun e => e.2.live && (s.badFrame e.1 || (match s.fetchMsg e.1 with
      | some (_, lo, hi, ctl) => s.fetchErr e.2 lo hi ctl
      | none => false)))).map Prod.fst

/-- Class-0 limiters that are due (R74): those that have been written and not refilled in this period of 1024 cycles. -/
def limiterEvents (s : State) : List Instr :=
  s.uregs.filterMap (fun e =>
    let u := e.1 / 2 ^ 21
    let blk := e.1 % 2 ^ 21 / 0x10000
    let i := e.1 % 0x10000
    let core := blk - (if isStack u then 16 else 28)
    let n := (i - 0x200) / 8
    if decide (u < 2048) && decide ((if isStack u then 16 else 28) ≤ blk) && decide (core < 8) && decide (0x200 ≤ i) &&
        decide (i < 0x240) && decide (Store.get 0 s.fab.gained (c0Key u core n) < s.cycAt u / 1024) && s.clocked u then
      some (.c0LimiterRefill u core n)
    else none)

/-- Events of the teams: queue heads, restarts, freezes (R276, R355, R357). -/
def teamEvents (s : State) : List Instr :=
  s.teams.flatMap (fun e =>
    (List.range 6).flatMap (fun q => match s.headAt e.1 q with
      | some x => headEvents e.1 q x
      | none => []) ++
    (if e.2.restarting then [Instr.teamRestart e.1] else []) ++
    (if e.2.frozen then [Instr.freeze e.1, Instr.freezeTimeout e.1] else []))

/-- Events of arrival queues, translation units, bind records and reuse commands. -/
def unitEvents (s : State) : List Instr :=
  (s.fab.queue.filter (fun e => !e.2.isEmpty && s.clocked e.1)).map (fun e => Instr.frameDispatch e.1) ++
    (s.fab.park.filter (fun e => !e.2.isEmpty && s.clocked e.1)).map (fun e => Instr.frameUnpark e.1) ++
    (s.tr.xfq.filter (fun e => !e.2.wait.isEmpty && s.clocked e.1)).map (fun e => Instr.xfqRecordWrite e.1) ++
    (s.tr.shoot.filter (fun e => e.2.busy && s.clocked e.1)).map (fun e => Instr.shootdownComplete e.1) ++
    (s.mg.binds.filter (fun b => s.clocked b.unit)).map (fun b => Instr.squadCreate b.unit b.slot) ++
    (s.allUnits.filter (fun u => s.rsBusy u && s.clocked u)).map Instr.rscmdComplete ++
    s.limiterEvents

/-- Events of launches (R326 to R333). -/
def launchEvents (s : State) : List Instr :=
  s.mg.launches.flatMap (fun e =>
    let l := e.2
    (if l.st == .queued then [Instr.launchAdmit e.1, Instr.waitEventPoll l.prt] else []) ++
    (if l.st == .admitted && decide (l.next < l.teams) then
      (match s.bestStack l with | some u => [Instr.teamPlace e.1 l.next u] | none => []) else []) ++
    (if s.launchOver e.1 then [Instr.launchComplete e.1] else []))

/-- Events of remote requests (R373). -/
def remoteEvents (s : State) : List Instr :=
  s.net.remotes.flatMap (fun e => match e.2 with
    | some r => if s.clocked r.hub then [Instr.remoteSend e.1, Instr.remoteRetransmit e.1, Instr.remoteTimeout e.1] else []
    | none => [])

/-- Events of the firmware and the mailboxes (R364, R365, R384, R402, R413 to R419). -/
def firmwareEvents (s : State) : List Instr :=
  (s.mg.mbox.filter (fun e => !e.2.out.isEmpty)).map (fun e => Instr.d2hPost e.1) ++
    (s.mg.mbox.filter (fun e => e.2.busy && e.1 != 0)).map (fun e =>
      let y := s.h2dPay e.1
      Instr.faultresp e.1 (y % 65536 / 32) (bitsOf y 31 16) (bitsOf y 39 32 == 1)) ++
    (if s.mg.service.isEmpty then [] else [Instr.faultServiceTimeout]) ++
    s.mg.parts.flatMap (fun e =>
      (if e.2.closing.isSome then [Instr.teardown e.1] else []) ++
      (if e.2.replay == 1 then [Instr.checkpoint e.1] else []) ++
      (if (s.stalled e.1).isEmpty then [] else [Instr.replayDiverged e.1]) ++
      (if (s.replayOf e.1).rerun != 0 || (s.replayOf e.1).halting then [Instr.rerun e.1] else [])) ++
    s.dbg.smp.map (fun e => Instr.sampleCopy e.1)

/-- The firmware serves the request that waits in the PF0 mailbox, with the arguments that stand in ARGBUF (R427, R428). -/
def asked (s : State) : List (State → Out) :=
  let w := s.argWord
  let word := fun (i : Nat) => (BitVec.ofNat 32 (w i) : Word)
  let wide := fun (i : Nat) => (BitVec.ofNat 64 (w i) : DWord)
  let flag := fun (i : Nat) => w i != 0
  if !(s.mboxOf 0).busy || s.mg.serving.isSome then []
  else
    match s.h2dHead 0 % 65536 with
    | 0x101 => [execCreate]
    | 0x102 => [execTeardown (w 0)]
    | 0x103 => [execAttest (w 0) ((s.argBytes 40).drop 8)]
    | 0x104 => [execKeyload (w 0) (w 1) ((s.argBytes 88).drop 16)]
    | 0x105 => [execRevoke (w 0) (w 1)]
    | 0x106 => [execProfring (w 0) (wide 1) (w 2)]
    | 0x107 => [execReplay (w 0) (w 1) (w 2)]
    | 0x108 => [execHold (w 0) (lanes16.map (fun n => wide (n + 1)))]
    | 0x109 => [execPower (w 0) (w 1) (w 2)]
    | 0x10A => [execBreakset (w 0) (w 1) (word 2) (word 3) (flag 4)]
    | 0x10B => [execTickset (w 0) (wide 1) (word 2) (flag 3)]
    | 0x10C =>
      (match w 0 with
      | 0 => [execStopctlArm (wide 1)]
      | 1 => [execStopctlStopnow]
      | 2 => [execStopctlRelease]
      | 3 => [execStopctlSteprel (flag 1)]
      | _ => [])
    | 0x10D => [execStoplist (w 0) (w 1)]
    | 0x10E => [execDbgStep (w 0) (word 1) (BitVec.ofNat 48 (w 2)) (w 3) (w 4)]
    | 0x10F => [execDbgContinue (w 0) (word 1) (if flag 2 then none else some (BitVec.ofNat 48 (w 3), w 4, w 5))]
    | _ => []

/-- What happens besides, without a row of its own in the opcode table, or by the firmware: clearings of status words, the resume of
images that have been laid back, the ends of revocations, visits of the scrub, requests of PF0, and capture snapshots (R296, R360,
R393, R417, R421, R427). -/
def chores (s : State) : List (State → Out) :=
  s.fab.msgs.filterMap (fun e => match e.2 with
    | some (.clearMst _ _) => some (execMstatClear e.1)
    | _ => none) ++
  s.mg.images.filterMap (fun e => (e.2.bind Image.laid).map (fun tk => execResume e.1 (tk / 256))) ++
    s.revoking.map (fun e => execRevokeEnd e.1) ++
    (if s.mg.boot < 6 then [] else [execScrubVisit]) ++ s.asked ++
    (s.mg.parts.filter (fun e => e.2.replayNext == 2 && !(s.replayOf e.1).capturing)).map (fun e => execCapture e.1)

/-- What the units, the fabric and the firmware can do next; an event that is not enabled changes nothing (log 4).  On a
stopped package only the firmware acts (R408). -/
def candidates (s : State) : List Instr :=
  (s.parts.filter (fun e => s.clocked e.2.unit)).flatMap (fun e => partEvents e.1 e.2) ++
    s.fab.msgs.filterMap (fun e => e.2.bind (msgEvent e.1)) ++
    s.fab.posted.flatMap (fun e => match e.2 with
      | some r => if s.clocked r.home then [preqEvent e.1 r] else []
      | none => []) ++
    s.tr.xlats.flatMap (fun e => match e.2 with
      | some x => if s.clocked x.unit then xlatEvent e.1 x else []
      | none => []) ++
    s.teamEvents ++ s.unitEvents ++ s.remoteEvents ++ s.launchEvents ++ s.firmwareEvents

/-! ### Events that are due at a tick (R407, R408) -/

/-- Units whose tick match is armed. -/
def armedUnits (s : State) : List Nat :=
  (s.uregs.filter (fun e => e.1 % 2 ^ 21 == dbgOff (e.1 / 2 ^ 21) 0x308 && decide (e.1 / 2 ^ 21 < 2048))).map
    (fun e => e.1 / 2 ^ 21)

/-- A package stop, a tick match or a timeout that falls in this tick (R373, R407, R408). -/
def urgent (s : State) : Option Instr :=
  if s.mg.pkgs.any s.stopDue then some .packageStop
  else
    match s.armedUnits.find? s.matchDue with
    | some u => some (.tickMatchFire u)
    | none => (s.net.remotes.find? (fun e => match e.2 with
        | some r => s.timedOut r
        | none => false)).map (fun e => .remoteTimeout e.1)

/-- What falls due in a cycle besides: an update of a power controller, and the end of a step (R409, R422). -/
def duty (s : State) : Option State :=
  match (if s.cyc < 4096 then none else s.allUnits.find? s.updateDue) with
  | some u => some (s.run (execPowerUpdate u (Config.powerMeas (s.cycAt u / 4096) u) (Config.tempMeas (s.cycAt u / 4096) u)))
  | none => match s.mg.serving with
    | some (0x10E, _, [pid, n, _]) => if s.stepDone pid n then some s.serveDone else none
    | _ => none

/-! ### The part that issues (R144, R147) -/

end State

/-- A part is between two instructions. -/
def Part.boundary (p : Part) : Bool := p.umask == 0 && !p.mi.on && p.restrict.isNone

namespace State

/-- A READY part may issue in this cycle, at most once in four (R144, R147, R315, R333, R354, R362, R406, R408, R423). -/
def eligible (s : State) (pid : Nat) (p : Part) : Bool :=
  p.live && p.st == .ready && s.unitRuns p.unit && (p.stop == .run || (p.stop == .step && p.step == some p.issues)) &&
    p.start == 0 && decide (p.issueAt ≤ s.cycAt p.unit) && decide (p.relaxTo ≤ s.cycAt p.unit) &&
    decide (p.yieldTo ≤ s.cycAt p.unit) && !s.xlatWait (.part pid) &&
    !(p.flushed && !(s.outstanding pid).isEmpty) && !(p.mi.sent && p.restartable)

end State

/-- R147 prefers `a` to `b` on a core; ties go round-robin from slot `r`. -/
def prefers (r : Nat) (a b : Part) : Bool :=
  if a.lat != b.lat then a.lat
  else if a.prio != b.prio then decide (b.prio < a.prio)
  else if a.lastIssue != b.lastIssue then decide (a.lastIssue < b.lastIssue)
  else decide ((a.slot + 256 - r % 256) % 256 < (b.slot + 256 - r % 256) % 256)

/-- The part a core takes among its eligible parts (R147). -/
def pickPart (r : Nat) : List (Nat × Part) → Option (Nat × Part)
  | [] => none
  | e :: es =>
    match pickPart r es with
    | none => some e
    | some x => if prefers r x.2 e.2 then some x else some e

/-- The core whose chosen part has waited longest (log 1). -/
def pickCoreOf : List (Nat × Part) → Option (Nat × Part)
  | [] => none
  | e :: es =>
    match pickCoreOf es with
    | none => some e
    | some x => if x.2.lastIssue < e.2.lastIssue then some x else some e

namespace State

/-- The part that issues next: each core has chosen its own (R147), and among the cores the outside world, or the model (log 1),
chooses. -/
def nextPart (s : State) : Option (Nat × Part) :=
  let es := s.parts.filter (fun e => s.eligible e.1 e.2)
  let cs := (es.map (fun e => (e.2.unit, e.2.core))).eraseDups
  let ps := cs.filterMap (fun c =>
    pickPart (Store.get 0 s.lastSlot (coreKey c.1 c.2)) (es.filter (fun e => e.2.unit == c.1 && e.2.core == c.2)))
  match s.picks with
  | [] => pickCoreOf ps
  | k :: _ => ps[k % ps.length]?

/-- An enabled comparator names the part's launch and PC, and it is not the one whose stop there has been continued (R406). -/
def comparator (s : State) (p : Part) : Option Nat :=
  (List.range 4).find? (fun n => p.bpPass != some (n, p.pc) &&
    (s.ureg p.unit (dbgOff p.unit (0x208 + 16 * n))).getLsbD 0 &&
      s.ureg p.unit (dbgOff p.unit (0x200 + 16 * n)) == BitVec.ofNat 64 (p.pc.toNat + 2 ^ 32 * p.launch.toNat))

/-- A part that is killed and stands at a boundary, be it before an instruction that `eret` repeats (R312, R313). -/
def dyingPart (s : State) : Option (Nat × Part) :=
  s.parts.find? (fun e => e.2.live && e.2.dying && e.2.st == .ready && (e.2.trapq.isSome || (e.2.umask == 0 && !e.2.mi.on)))

end State

/-- What a step does: an event or instruction with the state it finds, or a new state at once. -/
inductive Plan where
  | run (i : Instr) (s : State)
  | done (s : State)
  deriving DecidableEq, Repr

namespace State

/-- The cycle in which a part issues: the part is the current one and the last to issue on its core, the tick advances, and the
units come next (R147, log 2).  The part issues again four cycles later at the earliest, and 32 later after a yield hint (R144,
R147); a squad's first issue is traced (R403). -/
def issueCycle (s : State) (pid : Nat) (yields : Bool) : State :=
  let p := s.part pid
  let n := s.cycAt p.unit
  let s1 := (s.setPart pid { p with
    lastIssue := s.cyc
    issueAt := n + 4
    yieldTo := if yields then n + 33 else p.yieldTo
    opens := none }).advance
  { (match p.opens with
    | some x => s1.trace p.unit p 6 p.pc x.toNat
    | none => s1) with
    cur := pid
    lastSlot := Store.set 0 s.lastSlot (coreKey p.unit p.core) (p.slot + 1)
    picks := s.picks.drop 1
    turn := true }

/-- Fetch and decode at a part's PC (R166, R174): the instruction runs, or the trap of its encoding is taken.  Where something falls
due in the cycle of issue, the part issues after it (R408). -/
def fetchPlan (s : State) (pid : Nat) : Plan :=
  let p := s.part pid
  match s.fetch pid with
  | .word w =>
    let s1 := ((s.clearFetch pid (s.codeVa p p.pc)).cacheCode p (s.codeVa p p.pc) (leBytes 12 w)).issueCycle pid (w.testBit 80)
    if s1.urgent.isSome || s1.duty.isSome then .run .tick { s with turn := true }
    else
      match decode w with
      | .ok i => .run i s1
      | .illegalOpcode => .done (s1.trapAt pid .illegalOpcode p.amask [])
      | .illegalEncoding => .done (s1.trapAt pid .illegalEncoding p.amask [])
  | f => .done ({ s.fetchFail pid f with turn := true })

/-- What the chosen part does: a trap whose entry waited, a boundary trap or a debugger stop that is due, or its next
instruction (R48, R341, R347, R406, R407). -/
def partPlan (s : State) (pid : Nat) (p : Part) : Plan :=
  match p.trapq with
  | some t => .done ({ s with turn := true }.takeTrap pid t.cause t.tpc t.tlm t.tva t.at')
  | none =>
  if p.boundary && p.defer != 0 && !p.h then .run (.storeFaultDeferred pid) { s with turn := true }
  else if p.boundary && p.tmHit.isSome && !p.h then
    let t := p.tmHit.getD 0
    let s1 := s.setPart pid { p with tmHit := none }
    if s.heldPart p then
      .done ((s1.trace p.unit p 3 p.pc 0).setPart pid { p with
        tmHit := none
        stop := .tickMatch })
    else .done (s1.takeTrap pid .tickMatch p.pc p.amask [(0, t)] p.pc)
  else
    match (if p.boundary && p.step.isNone && s.heldPart p then s.comparator p else none) with
    | some n => .done ((s.trace p.unit p 2 p.pc (0x80000000 + n)).setPart pid { p with stop := .hwBreak n })
    | none =>
      if !p.mi.denied.isEmpty && !p.mi.on then
        .done (s.trapAt pid .protection (maskOf (fun l => p.mi.denied.any (fun d => d.1 == l))) p.mi.denied)
      else s.fetchPlan pid

/-- The units' turn (log 1), with the firmware's answer to the request it serves; a lost context comes first (R353). -/
def unitPlan (s0 : State) : Plan :=
  let s := s0.serveDone
  let s1 : State := { s with turn := false, picks := s.picks.drop 1 }
  match s.lostPart with
  | some pid => .done (s1.run (execContextLoss false pid))
  | none =>
    let es := s.candidates
    let fs := s.chores
    let n := s.picks.headD s.cyc % (es.length + fs.length)
    match es[n]?, fs[n - es.length]? with
    | some i, _ => .run i s1
    | none, some f => .done (s1.run f)
    | none, none => .done s1

/-- The parts' turn: a killed part ends, the next part acts, or a cycle passes (log 1). -/
def issuePlan (s : State) : Plan :=
  match s.dyingPart with
  | some (pid, p) => .done ((s.killPart pid).teamEnd p.team)
  | none =>
    match s.nextPart with
    | some (pid, p) => s.partPlan pid p
    | none => .run .tick { s with turn := true }

/-- What the machine does next.  An entry of the schedule that is no event gives the parts a turn: the outside world can order issues
among its events (R434). -/
def plan (s : State) : Plan :=
  match s.urgent, s.duty with
  | some e, _ => .run e s
  | none, some s1 => .done s1
  | none, none =>
    match s.sched with
    | e :: es => if e.hasWord then ({ s with sched := es } : State).issuePlan else .run e { s with sched := es }
    | [] => if s.turn then s.unitPlan else s.issuePlan

end State

/-! ### Placing one instruction (log 5) -/

/-- The header of the placed program: CODESIZE of one word, no trap vector (R320). -/
def placedHeader : List Byte := leBytes 8 0 ++ leBytes 4 12 ++ leBytes 24 0 ++ leBytes 4 0xFFFFFFFF ++ leBytes 24 0

/-- The launch of the placed program: its header at VA 0. -/
def placedLaunch : Launch := { Launch.absent with
  ex := true
  id := 1
  header := placedHeader
  st := .admitted
  checked := true }

/-- The team of the placed program, in entry 0 of stack 0. -/
def placedTeam : Team := { Team.absent with
  v := true
  launch := 1
  sqn := 1
  spillu := 1
  spillbase := 0xFBFFF }

/-- A READY squad of the placed program on core 0 of stack 0 (R138). -/
def placedPart : Part := { Part.absent with
  live := true
  launch := 1
  amask := 0xFFFF
  w := 32
  spill := 0xFBFFF
  spillu := 1 }

/-- The translation of the placed program's page: VA 0 to SPA 0, all rights, key slot 0. -/
def placedTlb : Tlb := ⟨0, false, 16, 0, 0, true, true, true, false, 0, false, true, 0⟩

end Sys2Proof.Machine
end

