-- ==== Sys2Proof/Machine/Step.lean ====
section
/-! DEFINITION. One step of the machine, and the placing of one instruction where the step fetches. -/

namespace Sys2Proof.Machine

/-- One step (log 1): what `State.plan` names is performed by `exec`. -/
def step (s : State) : Host.Outcome State Fault Refusal :=
  match s.plan with
  | .run i t => exec i t
  | .done t => .next t

/-- A partition, a launch, a team and one squad of it at PC 0, with the instruction's twelve bytes there, so that the next
step runs it (log 5).  The header stands at VA 0, so the code begins at VA 64 (R320). -/
def State.withFetchWord (s : State) (nbits w : Nat) : State :=
  let prt : Partition := { Partition.absent with
    ex := true
    homes := [(0, 1)] }
  let s1 := (s.poke 64 12 (w % 2 ^ nbits)).setPartition 0 prt
  let s2 := (s1.setLaunch (State.lkey 0 1) placedLaunch).setTeam 0 placedTeam
  let s3 := (s2.setL1 0 0 [placedTlb]).setPart s.ids placedPart
  { s3 with
    sched := []
    picks := []
    turn := false
    parts := [(s.ids, placedPart)]
    ids := s.ids + 1
    keys := Store.set 0 s3.keys (State.keyIx 0 0 0) 1
    dbg := { s3.dbg with follow := [] } }

end Sys2Proof.Machine
end

