-- ==== Sys2Proof/Safety.lean ====
section
/-! DEFINITION. What claims say of a run: a step that goes on, when an instruction issues, and what it leaves of the part
that issues it. -/

namespace Sys2Proof.Machine

/-- A step from `s` does not stop. -/
def StepsOn (s : State) : Prop := ∃ t, step s = .next t

/-- The state an outcome leaves, when it leaves one, satisfies `P`. -/
def Leaves (P : State → Prop) (o : Host.Outcome State Fault Refusal) : Prop := ∀ t, o = .next t → P t

/-- The part that issues. -/
def State.current (s : State) : Part := s.part s.cur

/-- The register file's word: absolute register `r`, lane `l` (R155). -/
def Part.word (p : Part) (r l : Nat) : Word := Store.get 0 p.vregs (vkey r l)

/-- The part's copy of a uniform register (R142). -/
def Part.uni (p : Part) (n : Nat) : Word := Store.get 0 p.sregs n

/-- What a pending result will write, without the marks of later writes (R145). -/
def Pend.result (e : Pend) : Nat × List (Nat × Nat × Word) × List (Nat × Word) × BitVec 16 :=
  (e.id, e.vals, e.svals, e.flags)

/-- The current part issues an instruction with these register operands and acts with it: it is READY, its operands lie in
the window, the guard leaves it a lane, no source is dead, and at an implicit switch point no result is pending (R56,
R145, R167, R169). -/
structure Issues (s : State) (h : Hdr) (srcs dsts : List (Opnd × Bool)) (switch : Bool) : Prop where
  live : s.current.live = true
  ready : s.current.st = .ready
  fits : s.current.fits (srcs ++ dsts) = true
  lanes : s.current.act h ≠ 0
  alive : s.current.umask = 0 → s.current.anyDead srcs = false
  settled : switch = true → s.current.pend = []

/-- `q` is the part `p` after its instruction has completed with the PC at `pc`: only its registers, predicates, FPSTAT,
dead marks and pending results may differ besides (R146, R147, R312). -/
structure Retires (p : Part) (cyc : Nat) (h : Hdr) (pc : Word) (q : Part) : Prop where
  same : q = { p with
    vregs := q.vregs
    sregs := q.sregs
    preds := q.preds
    fpstat := q.fpstat
    dead := q.dead
    pend := q.pend
    pc := pc
    umask := 0
    mi := MemOp.idle
    restrict := none
    flushed := false
    ask := 0
    shed := 0
    issues := p.issues + 1
    lastIssue := cyc
    bpPass := none
    st := if h.sw && !q.pend.isEmpty then .switched else .ready }

/-- Destination `d` holds `val` in each lane of `act`, or once when it is uniform, a pair its two words; every other
register is as it was (R172, R187, R205). -/
def Wrote (p q : Part) (act : Mask) (d : Opnd) (w64 : Bool) (val : Nat → Nat) : Prop :=
  match d with
  | .v n =>
    (∀ r l, l < 16 → q.word r l =
      if act.getLsbD l = true ∧ w64 = true ∧ r = p.absReg (n + 1) then BitVec.ofNat 32 (val l / 2 ^ 32)
      else if act.getLsbD l = true ∧ r = p.absReg n then BitVec.ofNat 32 (val l)
      else p.word r l) ∧ q.sregs = p.sregs
  | .s n =>
    (∀ k, q.uni k =
      if w64 = true ∧ k = n + 1 then BitVec.ofNat 32 (val 0 / 2 ^ 32)
      else if k = n then BitVec.ofNat 32 (val 0)
      else p.uni k) ∧ q.vregs = p.vregs
  | _ => q.vregs = p.vregs ∧ q.sregs = p.sregs

/-- An instruction with one destination: its operands, and the value and floating-point flags of each lane. -/
structure RegSpec where
  h : Hdr
  srcs : List (Opnd × Bool)
  dsts : List (Opnd × Bool)
  d : Opnd
  w64 : Bool
  val : Part → Mask → Nat → Nat
  flags : Part → Mask → Nat → Fl

/-- The flags of all lanes together, or of the one uniform operation (R199). -/
def flagsOf (d : Opnd) (act : Mask) (f : Nat → Fl) : Fl :=
  match d with
  | .v _ => (lanesOf act).foldl (fun a l => a ||| f l) 0
  | .s _ => f 0
  | _ => 0

/-- The flags an instruction raises. -/
def RegSpec.allFlags (r : RegSpec) (p : Part) (act : Mask) : Fl := flagsOf r.d act (r.flags p act)

/-- A register named by one of these operands. -/
def names (os : List (Opnd × Bool)) (n : Nat) : Bool := os.any (fun o => (opRegs o).contains n)

/-- Dead marks are as they were, but those of the destinations are clear (R56). -/
def Revived (p q : Part) (dsts : List (Opnd × Bool)) : Prop :=
  ∀ n, n < 32 → q.dead.getLsbD n = (p.dead.getLsbD n && !names dsts n)

/-- The short instruction `r` of part `p` has completed as `q`. -/
structure RegSpec.Short (r : RegSpec) (p : Part) (cyc : Nat) (q : Part) : Prop where
  retires : Retires p cyc r.h (p.pc + 1) q
  wrote : Wrote p q (p.act r.h) r.d r.w64 (r.val p (p.act r.h))
  preds : q.preds = p.preds
  flags : q.fpstat = p.fpstat ||| (r.allFlags p (p.act r.h) &&& ~~~ (p.fpctl.setWidth 16))
  dead : Revived p q r.dsts
  pend : q.pend.map Pend.result = p.pend.map Pend.result

/-- What a pending result holds for destination `d`. -/
def Holds (p : Part) (e : Pend) (act : Mask) (d : Opnd) (w64 : Bool) (val : Nat → Nat) : Prop :=
  match d with
  | .v n =>
    (∀ r l, l < 16 → e.valAt r l =
      if act.getLsbD l = true ∧ r = p.absReg n then some (BitVec.ofNat 32 (val l))
      else if act.getLsbD l = true ∧ w64 = true ∧ r = p.absReg (n + 1) then some (BitVec.ofNat 32 (val l / 2 ^ 32))
      else none) ∧ e.svals = []
  | .s n =>
    (∀ k, e.svalAt k =
      if k = n then some (BitVec.ofNat 32 (val 0))
      else if w64 = true ∧ k = n + 1 then some (BitVec.ofNat 32 (val 0 / 2 ^ 32))
      else none) ∧ e.vals = []
  | _ => True

/-- The long instruction `r` of part `p` has been issued: its result is pending under number `id` (R145). -/
structure RegSpec.Long (r : RegSpec) (p : Part) (cyc id : Nat) (q : Part) (e : Pend) : Prop where
  retires : Retires p cyc r.h (p.pc + 1) q
  vregs : q.vregs = p.vregs
  sregs : q.sregs = p.sregs
  preds : q.preds = p.preds
  fpstat : q.fpstat = p.fpstat
  dead : Revived p q r.dsts
  pend : q.pend = p.pend ++ [e]
  id : e.id = id
  holds : Holds p e (p.act r.h) r.d r.w64 (r.val p (p.act r.h))
  flags : e.flags = r.allFlags p (p.act r.h)
  fresh : e.clob = []

end Sys2Proof.Machine
end

