-- ==== Sys2Proof/Certificates/Slice0/Obligations.lean ====
section
/-! DEFINITION. The statements for the provers: one proposition per claim, with the tables of expected results they range
over. -/

namespace Sys2Proof.Claims

open Sys2Proof.Machine

/-! ### Words written out from the encoding tables (R165, R169, R170, R175) -/

/-- Words of each class with the instruction each stands for: fields CLASS, OP, GN, GP, SW, YH, LSI, MOD, D, A, B, CM and
C, from the top bit down (R165). -/
def specWords : List (Nat × Instr) :=
  let h : Hdr := ⟨false, 0, false, false, 0⟩
  [ -- add.s32.sat v3, v5, s2 under !p2, SW
    (0b0000_000001_1_010_1_0_000000_0000001100_0000000011_0000000101_0010000010_00_00000000000000000000000000000000,
      .add ⟨true, 2, true, false, 0⟩ ⟨⟨.w32, true⟩, true⟩ ⟨.v 3, .v 5, .s 2, 0⟩),
    -- bfn3 v1, v2, v3, k5 with FN = 0xE8
    (0b0001_000110_0_000_0_0_000000_0011101000_0000000001_0000000010_0000000011_00_00000000000000000000001100000101,
      .bfn3 h 0xE8 ⟨.v 1, .v 2, .v 3, .k 5⟩),
    -- cmp.lt.s32 p4, v1, imm 7, and p3
    (0b0010_000000_0_000_0_0_000000_0011010100_0100000100_0000000001_1010000000_01_00000000000000000000000000000111,
      .cmp h ⟨.w32, true⟩ .lt 3 .and ⟨.p 4, .v 1, .i false, 7⟩),
    -- br !p5, -2
    (0b0011_000000_0_000_0_0_000000_0000000001_0000000000_0100000101_0000000000_00_11111111111111111111111111111110,
      .br h true 5 0xFFFFFFFE),
    -- ffma.rtz v0, v1, v2, v3
    (0b0100_000011_0_000_0_0_000000_0000000001_0000000000_0000000001_0000000010_00_00000000000000000000000000000011,
      .ffma h ⟨.rtz, false⟩ ⟨.v 0, .v 1, .v 2, .v 3⟩),
    -- bdot2.sat v4, v5, v6, v7
    (0b0101_001001_0_000_0_0_000000_0000000100_0000000100_0000000101_0000000110_00_00000000000000000000000000000111,
      .bdot2 h ⟨.rne, true⟩ ⟨.v 4, .v 5, .v 6, .v 7⟩),
    -- i2f.rup f32 v2, s3 (.n32)
    (0b0110_000001_0_000_0_0_000000_0000000011_0000000010_0010000011_0000000000_00_00000000000000000000000000000000,
      .i2f h ⟨.rup, false⟩ ⟨.w32, false⟩ .f32 ⟨.v 2, .s 3, 0⟩),
    -- ld.acq.st .n32 v8, [v2 + 16], LSI 9
    (0b0111_000000_0_000_0_0_001001_0010010000_0000001000_0000000010_0000000000_00_00000000000000000000000000010000,
      .ld ⟨false, 0, false, false, 9⟩ ⟨⟨.w32, false⟩, .acq, .st⟩ (.v 8) (.v 2) 16),
    -- ats.add.rlx .n32 v1, [v3], v4
    (0b1000_000010_0_000_0_0_000000_0000010000_0000000001_0000000011_0000000100_00_00000000000000000000000000000000,
      .ats h ⟨.add, .rlx, .sq, false, false⟩ (.v 1) (.v 3) (.v 4) 0),
    -- mwait, YH
    (0b1001_001011_0_000_0_1_000000_0000000000_0000000000_0000000000_0000000000_00_00000000000000000000000000000000,
      .mwait ⟨false, 0, false, true, 0⟩),
    -- qfence 0b100011
    (0b1010_000100_0_000_0_0_000000_0000100011_0000000000_0000000000_0000000000_00_00000000000000000000000000000000,
      .qfence h 0b100011),
    -- trap 0x1234
    (0b1011_000010_0_000_0_0_000000_0000000000_0000000000_0000000000_0000000000_00_00000000000000000001001000110100,
      .trap h 0x1234) ]

end Sys2Proof.Claims

section

open Sys2Proof

open Sys2Proof.Machine

/-- Decoding the word of an encodable instruction gives the instruction back, with every operand at every value its
encoding admits (R165, R169, R170). -/
def Obligations.DecodeEncode : Prop :=
  ∀ i : Instr, i.hasWord = true → i.wf = true → decode (encode i).toNat = .ok i

/-- A 96-bit word that decodes to an instruction is the word of that instruction, which is encodable: no bit is ignored
(R165, R174). -/
def Obligations.EncodeDecode : Prop :=
  ∀ (w : Nat) (i : Instr), w < 2 ^ 96 → decode w = .ok i → (encode i).toNat = w ∧ i.wf = true ∧ i.hasWord = true

/-- One word of each instruction class, written out from the encoding tables, decodes to the instruction it stands
for. -/
def Obligations.DecodesSpecWords : Prop := ∀ e ∈ Claims.specWords, decode e.1 = .ok e.2

/-- A word whose CLASS or OP the opcode map does not assign is an ILLEGAL_OPCODE, whatever its other bits; a word with an
assigned opcode never is (R174, R175). -/
def Obligations.UnassignedOpcodes : Prop :=
  ∀ w : Nat, decode w = .illegalOpcode ↔
    ¬ ∃ cls op, bitsOf w 95 86 = cls * 64 + op ∧ op < 64 ∧
      (cls = 0 ∧ op < 26 ∨ cls = 1 ∧ op < 22 ∨ cls = 2 ∧ op < 16 ∨ cls = 3 ∧ op < 12 ∨ cls = 4 ∧ op < 18 ∨
       cls = 5 ∧ op < 14 ∨ cls = 6 ∧ op < 7 ∨ cls = 7 ∧ op < 11 ∨ cls = 8 ∧ op < 8 ∨ cls = 9 ∧ op < 12 ∨
       cls = 10 ∧ op < 8 ∨ cls = 11 ∧ op < 12)

end
namespace Sys2Proof.Claims

open Sys2Proof.Machine

/-- The state in which the fetched word `w` of part `pid` runs: the fetch leaves its bytes in the instruction cache, and the cycle of
issue has passed (R144, R147, R166). -/
def issued (s : State) (pid w : Nat) : State :=
  let p := s.part pid
  let va := s.codeVa p p.pc
  ((s.clearFetch pid va).cacheCode p va (leBytes 12 w)).issueCycle pid (w.testBit 80)

/-- The next thing `s` does is to issue, for part `pid`, the word `w` it fetches: nothing is due in this cycle or falls due in it,
the outside world has scheduled nothing, it is the parts' turn, no killed part stands at a boundary, the part is the one R147
takes, and no waiting or boundary trap, breakpoint or denied lane comes first. -/
structure Reaches (s : State) (pid w : Nat) : Prop where
  quiet : s.urgent = none ∧ s.duty = none
  calm : (issued s pid w).urgent = none ∧ (issued s pid w).duty = none
  idle : s.sched = []
  turn : s.turn = false
  alive : s.dyingPart = none
  chosen : s.nextPart = some (pid, s.part pid)
  entered : (s.part pid).trapq = none
  settled : (s.part pid).defer = 0
  untimed : (s.part pid).tmHit = none
  unwatched : s.heldPart (s.part pid) = false ∨ s.comparator (s.part pid) = none
  granted : (s.part pid).mi.denied = []
  fetched : s.fetch pid = .word w

/-- What a step adds around the instruction it runs for part `pid`, whose word has the yield hint or not: the part becomes the current
one and the last to issue, and it issues again four cycles later at the earliest, 33 with the hint; no other part, no byte of
memory and no team changes (R144, R147, R166, R403).  That one tick passes with each instruction issued, while a package runs and
no servo or stop has left a difference of ticks to make up, is the model's choice (log 2). -/
structure Around (s t : State) (pid : Nat) (yields : Bool) : Prop where
  cur : t.cur = pid
  tick : (∃ k ∈ s.mg.pkgs, s.pkgStopped k = false) → s.net.slew = 0 → s.lag = [] → t.tick = s.tick + 1
  self : t.part pid = { s.part pid with
    lastIssue := s.cyc
    issueAt := s.cycAt (s.part pid).unit + 4
    yieldTo := if yields then s.cycAt (s.part pid).unit + 33 else (s.part pid).yieldTo
    opens := none }
  others : ∀ k, k ≠ pid → t.part k = s.part k
  mem : t.mem = s.mem
  teams : t.teams = s.teams

/-- Reset values other than zero of a stack's registers by offset: PKHIGH, MSCRUB, RSTLIM, PCAP, GATE, GMIN, TLIM, SMPSEED
(R64, R93, R352, R411, R424). -/
def stackReset : List (Nat × Nat) :=
  [(0x10010, 0x1F000), (0x50010, 0x400), (0x70010, 3), (0x90000, 190), (0x90010, 64), (0x90018, 4),
    (0x90028, 95 + 256 * 110), (0xB0040, 1)]

/-- The same of a hub: PKHIGH of each partition, RMAGE, RMTOUT, RMRTO, PCAP, GATE, GMIN, TLIM, SMPSEED (R64, R379, R411,
R424). -/
def hubReset : List (Nat × Nat) :=
  [(0x10108, 0x3E00), (0x10128, 0x3E00), (0x10148, 0x3E00), (0x10168, 0x3E00), (0x10188, 0x3E00), (0x101A8, 0x3E00),
    (0x101C8, 0x3E00), (0x101E8, 0x3E00), (0x70000, 0x8000), (0x70008, 0x1DB00), (0x70010, 0x3B60), (0x90000, 120),
    (0x90010, 64), (0x90018, 4), (0x90028, 95 + 256 * 110), (0xA0040, 1)]

/-- What a table of reset values gives for an offset; zero where it lists none. -/
def resetOf (l : List (Nat × Nat)) (off : Nat) : DWord := BitVec.ofNat 64 ((l.lookup off).getD 0)

end Sys2Proof.Claims

section

open Sys2Proof

open Sys2Proof.Machine

/-- A step that reaches a word which decodes to an instruction runs exactly that instruction, on the state with the part
current and the tick advanced (R166, R174).  That the tick advances by one for each instruction issued is the model's choice
(log 2). -/
def Obligations.StepRunsDecoded : Prop :=
  ∀ (s : State) (pid w : Nat) (i : Instr), Claims.Reaches s pid w → decode w = .ok i →
    ∃ t, step s = exec i t ∧ Claims.Around s t pid (w.testBit 80)

/-- A word that does not decode takes the trap its fate names, at its own PC with TLM := AMASK (R174, R341).  That the tick advances by
one for its issue is the model's choice (log 2). -/
def Obligations.StepTrapsUndecoded : Prop :=
  ∀ (s : State) (pid w : Nat), Claims.Reaches s pid w →
    (decode w = .illegalOpcode → ∃ t, Claims.Around s t pid (w.testBit 80) ∧
      step s = .next (t.trapAt pid .illegalOpcode (s.part pid).amask [])) ∧
    (decode w = .illegalEncoding → ∃ t, Claims.Around s t pid (w.testBit 80) ∧
      step s = .next (t.trapAt pid .illegalEncoding (s.part pid).amask []))

/-- An event the outside world has scheduled is performed next, and leaves the schedule (log 1). -/
def Obligations.StepPerformsScheduled : Prop :=
  ∀ (s : State) (e : Instr) (es : List Instr), s.urgent = none → s.duty = none → s.sched = e :: es → e.hasWord = false →
    step s = exec e { s with sched := es }

/-- After reset the tick is zero, no part, team, launch or partition exists, nothing is in the fabric, no key slot is live,
and the registers of every stack and hub hold the reset values of their tables (R4, R64, R93, R352, R379, R391, R411, R424).
That a register for which no table gives a value holds zero, such as the bind records and the macro map, is the model's choice
(log 12). -/
def Obligations.ResetState : Prop :=
  State.reset.tick = 0 ∧ State.reset.parts = [] ∧ State.reset.teams = [] ∧ State.reset.mg.launches = [] ∧
  State.reset.mg.parts = [] ∧ State.reset.fab = Fabric.reset ∧ State.reset.keys = [] ∧
  (∀ u off, isStack u = true → State.reset.ureg u off = Claims.resetOf Claims.stackReset off) ∧
  (∀ u off, isHub u = true → State.reset.ureg u off = Claims.resetOf Claims.hubReset off)

/-- The memory the machine starts with is in canonical form, and every byte of it reads as zero.  The spec gives memory no
reset value: zero is the model's choice (log 6). -/
def Obligations.MemoryCanonicalReset : Prop :=
  Store.wf 0 State.reset.mem = true ∧ ∀ a, State.reset.byte a = 0

/-- Every step that goes on keeps memory in canonical form: addresses strictly rising, and no byte listed that equals what
an unlisted address reads as. -/
def Obligations.MemoryCanonicalStep : Prop :=
  ∀ s t : State, Store.wf 0 s.mem = true → step s = .next t → Store.wf 0 t.mem = true

/-- Two canonical memories that read the same at every address are the same memory. -/
def Obligations.CanonicalUnique : Prop :=
  ∀ m n : Store Byte, Store.wf 0 m = true → Store.wf 0 n = true → (∀ a, Store.get 0 m a = Store.get 0 n a) → m = n

/-- Little-endian memory: reading back `n` bytes gives the value written, and every byte outside them reads as before
(R110). -/
def Obligations.LittleEndian : Prop :=
  ∀ (s : State) (a n x : Nat),
    (s.poke a n x).peek a n = x % 2 ^ (8 * n) ∧
    (∀ i, i < n → (s.poke a n x).byte (a + i) = BitVec.ofNat 8 (x / 2 ^ (8 * i))) ∧
    (∀ b, b < a ∨ a + n ≤ b → (s.poke a n x).byte b = s.byte b)

end
namespace Sys2Proof.Claims

open Sys2Proof.Machine

/-- Instruction `i`, when it issues in `s`, completes and does what `r` says: the next state differs from `s` in the issuing
part only. -/
def CompletesShort (i : Instr) (s : State) (r : RegSpec) : Prop :=
  Issues s r.h r.srcs r.dsts false →
    ∃ q, exec i s = .next (s.setPart s.cur q) ∧ r.Short s.current s.cyc q

/-- The same of a long instruction, whose result becomes pending. -/
def CompletesLong (i : Instr) (s : State) (r : RegSpec) : Prop :=
  Issues s r.h r.srcs r.dsts false →
    ∃ q e, exec i s = .next { s.setPart s.cur q with ids := s.ids + 1 } ∧ r.Long s.current s.cyc s.ids q e

/-- The low n bits of a value as a number, signed on request (R205). -/
def int (n : Nat) (sg : Bool) (x : Nat) : Int := if sg then (BitVec.ofNat n x).toInt else (BitVec.ofNat n x).toNat

/-- A result of type `t`: an exact integer clamped to the type's range under SAT, else wrapped, then extended from the
type's width to the register or pair under its sign (R187, R197, R205). -/
def narrowed (t : IType) (sat : Bool) (x : Int) : Nat :=
  let n := bitsW t.w
  let lo : Int := if t.sg then -(2 ^ (n - 1)) else 0
  let hi : Int := if t.sg then 2 ^ (n - 1) - 1 else 2 ^ n - 1
  let y := BitVec.ofInt n (if sat then (if x < lo then lo else if hi < x then hi else x) else x)
  let k := if t.w.is64 then 64 else 32
  (if t.sg then y.signExtend k else y.setWidth k).toNat

/-- Two sources of the instruction's type, an exact result (R205, R206). -/
def int2 (h : Hdr) (m : IMod) (o : F3) (f : Int → Int → Int) : RegSpec :=
  let w := m.t.w.is64
  { h := h, srcs := [(o.a, w), (o.b, w)], dsts := [(o.d, w)], d := o.d, w64 := w
    val := fun p _ l => narrowed m.t m.sat
      (f (int (bitsW m.t.w) m.t.sg (p.val o.c w o.a l)) (int (bitsW m.t.w) m.t.sg (p.val o.c w o.b l)))
    flags := fun _ _ _ => 0 }

/-- One source. -/
def int1 (h : Hdr) (m : IMod) (o : F2) (f : Int → Int) : RegSpec :=
  let w := m.t.w.is64
  { h := h, srcs := [(o.a, w)], dsts := [(o.d, w)], d := o.d, w64 := w
    val := fun p _ l => narrowed m.t m.sat (f (int (bitsW m.t.w) m.t.sg (p.val o.c w o.a l)))
    flags := fun _ _ _ => 0 }

/-- Three sources. -/
def int3 (h : Hdr) (m : IMod) (o : F4) (f : Int → Int → Int → Int) : RegSpec :=
  let w := m.t.w.is64
  let n := fun (p : Part) (x : Opnd) (l : Nat) => int (bitsW m.t.w) m.t.sg (p.val 0 w x l)
  { h := h, srcs := [(o.a, w), (o.b, w), (o.cc, w)], dsts := [(o.d, w)], d := o.d, w64 := w
    val := fun p _ l => narrowed m.t m.sat (f (n p o.a l) (n p o.b l) (n p o.cc l))
    flags := fun _ _ _ => 0 }

/-- Element `i` of `w` bits of a register, signed on request (R212). -/
def part (w : Nat) (sg : Bool) (x i : Nat) : Int := int w sg (x / 2 ^ (w * i))

/-- The expected result of each integer instruction with one register result (R206, R208 to R213; R188 for division by zero
and for the quotient that does not fit, which wraps). -/
def intSpec : Instr → Option RegSpec
  | .nop h => some ⟨h, [], [], .p 0, false, fun _ _ _ => 0, fun _ _ _ => 0⟩
  | .add h m o => some (int2 h m o (fun a b => a + b))
  | .sub h m o => some (int2 h m o (fun a b => a - b))
  | .mul h m o => some (int2 h m o (fun a b => a * b))
  | .mulh h m o => some (int2 h m o (fun a b => (a * b) / 2 ^ 32))
  | .mad h m o => some (int3 h m o (fun a b c => a * b + c))
  | .madw h sg o => some
    { h := h, srcs := [(o.a, false), (o.b, false), (o.cc, true)], dsts := [(o.d, true)], d := o.d, w64 := true
      val := fun p _ l => (BitVec.ofInt 64
        (int 32 sg (p.val 0 false o.a l) * int 32 sg (p.val 0 false o.b l) + p.val 0 true o.cc l)).toNat
      flags := fun _ _ _ => 0 }
  | .div h m o => some (int2 h m o (fun a b => if b = 0 then -1 else a.tdiv b))
  | .rem h m o => some (int2 h m o (fun a b => if b = 0 then a else a.tmod b))
  | .neg h m o => some (int1 h m o (fun a => -a))
  | .abs h m o => some (int1 h m o (fun a => if a < 0 then -a else a))
  | .min h m o => some (int2 h m o (fun a b => if a < b then a else b))
  | .max h m o => some (int2 h m o (fun a b => if a < b then b else a))
  | .sad h m o => some (int3 h m o (fun a b c => (if a < b then b - a else a - b) + c))
  | .lea h shift sx o => some
    { h := h, srcs := [(o.a, true), (o.b, false)], dsts := [(o.d, true)], d := o.d, w64 := true
      val := fun p _ l => (BitVec.ofNat 64 (p.val o.c true o.a l) +
        (if sx then (BitVec.ofNat 32 (p.val o.c false o.b l)).signExtend 64
          else (BitVec.ofNat 32 (p.val o.c false o.b l)).setWidth 64) <<< shift.val).toNat
      flags := fun _ _ _ => 0 }
  | .add64 h m o => some (int2 h m o (fun a b => a + b))
  | .sub64 h m o => some (int2 h m o (fun a b => a - b))
  | .mov h w o => some ⟨h, [(o.a, w)], [(o.d, w)], o.d, w, fun p _ l => p.val o.c w o.a l, fun _ _ _ => 0⟩
  | .movi h o => some
    { h := h, srcs := [(o.a, false), (o.b, false)], dsts := [(o.d, false)], d := o.d, w64 := false
      val := fun p _ l => p.val o.c false o.a l + l * p.val o.c false o.b l
      flags := fun _ _ _ => 0 }
  | .movw h hi o => some
    { h := h, srcs := [(o.a, false), (o.d, false)], dsts := [(o.d, false)], d := o.d, w64 := false
      val := fun p _ l =>
        let x := (BitVec.ofNat 32 (p.val o.c false o.a l)).extractLsb' 0 16
        let y := BitVec.ofNat 32 (p.val o.c false o.d l)
        if hi then (x ++ y.extractLsb' 0 16).toNat else (y.extractLsb' 16 16 ++ x).toNat
      flags := fun _ _ _ => 0 }
  | .sel h w o => some
    { h := h, srcs := [(o.a, w), (o.b, w)], dsts := [(o.d, w)], d := o.d, w64 := w
      val := fun p _ l => if (p.pmask o.cc).getLsbD l then p.val 0 w o.a l else p.val 0 w o.b l
      flags := fun _ _ _ => 0 }
  | .iclamp h m o => some (int3 h m o (fun a b c => if c < b then c else if a < b then b else if c < a then c else a))
  | .dot4 h sa sb sat o => some
    { h := h, srcs := [(o.a, false), (o.b, false), (o.cc, false)], dsts := [(o.d, false)], d := o.d, w64 := false
      val := fun p _ l =>
        let a := p.val 0 false o.a l
        let b := p.val 0 false o.b l
        narrowed ⟨.w32, true⟩ sat (int 32 true (p.val 0 false o.cc l) + part 8 sa a 0 * part 8 sb b 0 +
          part 8 sa a 1 * part 8 sb b 1 + part 8 sa a 2 * part 8 sb b 2 + part 8 sa a 3 * part 8 sb b 3)
      flags := fun _ _ _ => 0 }
  | .dot2 h sa sb sat o => some
    { h := h, srcs := [(o.a, false), (o.b, false), (o.cc, false)], dsts := [(o.d, false)], d := o.d, w64 := false
      val := fun p _ l =>
        let a := p.val 0 false o.a l
        let b := p.val 0 false o.b l
        narrowed ⟨.w32, true⟩ sat (int 32 true (p.val 0 false o.cc l) + part 16 sa a 0 * part 16 sb b 0 +
          part 16 sa a 1 * part 16 sb b 1)
      flags := fun _ _ _ => 0 }
  | _ => none

/-- Two sources of one width, a bit operation (R214). -/
def bits2 (h : Hdr) (w : Bool) (o : F3) (f : DWord → DWord → DWord) : RegSpec :=
  { h := h, srcs := [(o.a, w), (o.b, w)], dsts := [(o.d, w)], d := o.d, w64 := w
    val := fun p _ l => (f (BitVec.ofNat 64 (p.val o.c w o.a l)) (BitVec.ofNat 64 (p.val o.c w o.b l))).toNat
    flags := fun _ _ _ => 0 }

/-- A shift: the amount is all 32 bits of B (R216). -/
def shift (h : Hdr) (n : Nat) (o : F3) (f : BitVec n → Nat → BitVec n) : RegSpec :=
  let w := n == 64
  { h := h, srcs := [(o.a, w), (o.b, false)], dsts := [(o.d, w)], d := o.d, w64 := w
    val := fun p _ l => (f (BitVec.ofNat n (p.val o.c w o.a l)) (p.val o.c false o.b l)).toNat
    flags := fun _ _ _ => 0 }

/-- A count over 32 or 64 bits of A, in one register (R217). -/
def count (h : Hdr) (w : Bool) (o : F2) (f : Nat → Nat → Nat) : RegSpec :=
  { h := h, srcs := [(o.a, w)], dsts := [(o.d, false)], d := o.d, w64 := false
    val := fun p _ l => f (if w then 64 else 32) (p.val o.c w o.a l)
    flags := fun _ _ _ => 0 }

/-- Three 32-bit sources, a bit operation (R215, R218). -/
def bits3 (h : Hdr) (o : F4) (f : Word → Word → Word → Nat) : RegSpec :=
  { h := h, srcs := [(o.a, false), (o.b, false), (o.cc, false)], dsts := [(o.d, false)], d := o.d, w64 := false
    val := fun p _ l => f (BitVec.ofNat 32 (p.val 0 false o.a l)) (BitVec.ofNat 32 (p.val 0 false o.b l))
      (BitVec.ofNat 32 (p.val 0 false o.cc l))
    flags := fun _ _ _ => 0 }

/-- The bit field of `bfx`: LEN is cut at the top of the register, and an empty field is zero (R218). -/
def field (sg : Bool) (a ctl : Word) : Nat :=
  let pos := (ctl.extractLsb' 0 8).toNat
  let len := min (ctl.extractLsb' 8 8).toNat (32 - pos)
  let x := a.extractLsb' pos len
  (if sg then x.signExtend 32 else x.setWidth 32).toNat

/-- `bfi`: the low LEN bits of A stand in B at POS, every other bit is B's (R218). -/
def insert (a b ctl : Word) : Nat :=
  let pos := (ctl.extractLsb' 0 8).toNat
  let len := min (ctl.extractLsb' 8 8).toNat (32 - pos)
  Nat.ofBits (fun i : Fin 32 => if pos ≤ i.val ∧ i.val < pos + len then a.getLsbD (i.val - pos) else b.getLsbD i.val)

/-- The expected result of each logic and bit instruction (R214 to R218). -/
def logicSpec : Instr → Option RegSpec
  | .andB h w o => some (bits2 h w o (fun a b => a &&& b))
  | .orB h w o => some (bits2 h w o (fun a b => a ||| b))
  | .xorB h w o => some (bits2 h w o (fun a b => a ^^^ b))
  | .andn h w o => some (bits2 h w o (fun a b => a &&& ~~~b))
  | .orn h w o => some (bits2 h w o (fun a b => a ||| ~~~b))
  | .notB h w o => some
    { h := h, srcs := [(o.a, w)], dsts := [(o.d, w)], d := o.d, w64 := w
      val := fun p _ l => (~~~ (BitVec.ofNat 64 (p.val o.c w o.a l))).toNat
      flags := fun _ _ _ => 0 }
  | .bfn3 h fn o => some (bits3 h o (fun a b c => Nat.ofBits (fun i : Fin 32 =>
      fn.getLsbD (bit (a.getLsbD i.val) + 2 * bit (b.getLsbD i.val) + 4 * bit (c.getLsbD i.val)))))
  | .shl h o => some (shift h 32 o (fun a k => a <<< k))
  | .shr h o => some (shift h 32 o (fun a k => a >>> k))
  | .sar h o => some (shift h 32 o (fun a k => a.sshiftRight k))
  | .rotl h o => some (shift h 32 o (fun a k => a.rotateLeft k))
  | .rotr h o => some (shift h 32 o (fun a k => a.rotateRight k))
  | .shl64 h o => some (shift h 64 o (fun a k => a <<< k))
  | .shr64 h o => some (shift h 64 o (fun a k => a >>> k))
  | .sar64 h o => some (shift h 64 o (fun a k => a.sshiftRight k))
  | .clz h w o => some (count h w o (fun n a => if a = 0 then n else n - 1 - Nat.log2 a))
  | .ctz h w o => some (count h w o (fun n a => (List.range n).findIdx a.testBit))
  | .popc h w o => some (count h w o (fun n a => (List.range n).countP a.testBit))
  | .brev h w o => some
    { h := h, srcs := [(o.a, w)], dsts := [(o.d, w)], d := o.d, w64 := w
      val := fun p _ l =>
        if w then (BitVec.ofNat 64 (p.val o.c w o.a l)).reverse.toNat else (BitVec.ofNat 32 (p.val o.c w o.a l)).reverse.toNat
      flags := fun _ _ _ => 0 }
  | .bfx h sg o => some
    { h := h, srcs := [(o.a, false), (o.b, false)], dsts := [(o.d, false)], d := o.d, w64 := false
      val := fun p _ l => field sg (BitVec.ofNat 32 (p.val o.c false o.a l)) (BitVec.ofNat 32 (p.val o.c false o.b l))
      flags := fun _ _ _ => 0 }
  | .bfi h o => some (bits3 h o insert)
  | .bsel h w o => some
    { h := h, srcs := [(o.a, w), (o.b, w), (o.cc, w)], dsts := [(o.d, w)], d := o.d, w64 := w
      val := fun p _ l =>
        let c := BitVec.ofNat 64 (p.val 0 w o.cc l)
        ((BitVec.ofNat 64 (p.val 0 w o.a l) &&& c) ||| (BitVec.ofNat 64 (p.val 0 w o.b l) &&& ~~~c)).toNat
      flags := fun _ _ _ => 0 }
  | _ => none

end Sys2Proof.Claims

section

open Sys2Proof

open Sys2Proof.Machine

/-- Every integer, logic, shift, count and bit-field instruction with one register result completes, with the result of its
rule in each lane it acts on and every other register, flag, predicate, byte of memory and part unchanged (R205, R206, R208
to R218).

Completes: `nop`, `add`, `sub`, `mul`, `mulh`, `mad`, `madw`, `div`, `rem`, `neg`, `abs`, `min`, `max`, `sad`, `lea`,
`add64`, `sub64`, `mov`, `movi`, `movw`, `sel`, `iclamp`, `dot4`, `dot2`, `andB`, `orB`, `xorB`, `notB`, `andn`, `orn`,
`bfn3`, `shl`, `shr`, `sar`, `rotl`, `rotr`, `shl64`, `shr64`, `sar64`, `clz`, `ctz`, `popc`, `brev`, `bfx`, `bfi`,
`bsel`. -/
def Obligations.IntegerResults : Prop :=
  ∀ (i : Instr) (r : RegSpec) (s : State), i.wf = true → Claims.intSpec i = some r ∨ Claims.logicSpec i = some r →
    Claims.CompletesShort i s r

end
namespace Sys2Proof.Claims

open Sys2Proof.Machine

/-- Operand `d` names predicate `k`. -/
def isPred (d : Opnd) (k : Nat) : Bool :=
  match d with
  | .p n => n.val == k
  | _ => false

/-- Predicate `d` holds `f l` in each lane of `act`; other lanes, every other predicate and p0, which reads as ones, are as
they were (R167, R169, R229). -/
def PredWrote (p q : Part) (act : Mask) (d : Opnd) (f : Nat → Bool) : Prop :=
  ∀ k l, l < 16 → (q.pred k).getLsbD l =
    if k ≠ 0 ∧ isPred d k = true ∧ act.getLsbD l = true then f l else (p.pred k).getLsbD l

/-- An instruction that writes a predicate: its operands, the bit of each lane and the flags of each lane. -/
structure PredSpec where
  h : Hdr
  srcs : List (Opnd × Bool)
  d : Opnd
  bit : Part → Mask → Nat → Bool
  flags : Part → Nat → Fl

/-- The instruction has completed as `q`: the predicate is written, its flags are raised, registers are as they were. -/
structure PredSpec.Short (r : PredSpec) (p : Part) (cyc : Nat) (q : Part) : Prop where
  retires : Retires p cyc r.h (p.pc + 1) q
  preds : PredWrote p q (p.act r.h) r.d (r.bit p (p.act r.h))
  vregs : q.vregs = p.vregs
  sregs : q.sregs = p.sregs
  flags : q.fpstat = p.fpstat |||
    ((lanesOf (p.act r.h)).foldl (fun a l => a ||| r.flags p l) 0 &&& ~~~ (p.fpctl.setWidth 16))
  dead : q.dead = p.dead
  pend : q.pend = p.pend

/-- COND over numbers (R230). -/
def rel (c : Cond) (a b : Int) : Bool :=
  match c with
  | .eq => a == b
  | .ne => a != b
  | .lt => decide (a < b)
  | .le => decide (a ≤ b)
  | .gt => decide (b < a)
  | .ge => decide (b ≤ a)

/-- BOP: the test alone, or combined with the lane's bit of PC (R230). -/
def combined (b : BOp) (t x : Bool) : Bool :=
  match b with
  | .none => t
  | .and => t && x
  | .or => t || x
  | .xor => t != x

/-- What each compare and predicate operation writes (R230 to R233). -/
def predSpec : Instr → Option PredSpec
  | .cmp h t c pc bop o => some
    { h := h, srcs := [(o.a, false), (o.b, false)], d := o.d
      bit := fun p _ l => combined bop
        (rel c (int (bitsW t.w) t.sg (p.val o.c false o.a l)) (int (bitsW t.w) t.sg (p.val o.c false o.b l)))
        ((p.pred pc.val).getLsbD l)
      flags := fun _ _ => 0 }
  | .cmp64 h sg c pc bop o => some
    { h := h, srcs := [(o.a, true), (o.b, true)], d := o.d
      bit := fun p _ l => combined bop
        (rel c (int 64 sg (p.val o.c true o.a l)) (int 64 sg (p.val o.c true o.b l))) ((p.pred pc.val).getLsbD l)
      flags := fun _ _ => 0 }
  | .fcmp h c pc bop o => some
    { h := h, srcs := [(o.a, false), (o.b, false)], d := o.d
      bit := fun p _ l => combined bop (fCond .f32 c (p.valF o.c .f32 o.a l) (p.valF o.c .f32 o.b l)).1
        ((p.pred pc.val).getLsbD l)
      flags := fun p l => (fCond .f32 c (p.valF o.c .f32 o.a l) (p.valF o.c .f32 o.b l)).2 }
  | .pand h na nb o => some
    { h := h, srcs := [], d := o.d
      bit := fun p _ l => ((p.pmask o.a).getLsbD l ^^ na) && ((p.pmask o.b).getLsbD l ^^ nb)
      flags := fun _ _ => 0 }
  | .por h na nb o => some
    { h := h, srcs := [], d := o.d
      bit := fun p _ l => ((p.pmask o.a).getLsbD l ^^ na) || ((p.pmask o.b).getLsbD l ^^ nb)
      flags := fun _ _ => 0 }
  | .pxor h na nb o => some
    { h := h, srcs := [], d := o.d
      bit := fun p _ l => ((p.pmask o.a).getLsbD l ^^ na) ^^ ((p.pmask o.b).getLsbD l ^^ nb)
      flags := fun _ _ => 0 }
  | .pnot h o => some
    { h := h, srcs := [], d := o.d, bit := fun p _ l => !(p.pmask o.a).getLsbD l, flags := fun _ _ => 0 }
  | _ => none

/-- Lanes of the vote's predicate among those it acts on (R233). -/
def ballot (p : Part) (act : Mask) (na : Bool) (a : Opnd) : Mask := (if na then ~~~ (p.pmask a) else p.pmask a) &&& act

/-- The value of `vote` from the ballot (R233). -/
def voted (m : VoteMode) (b act : Mask) : Nat :=
  match m with
  | .some => if b = 0 then 0 else 1
  | .each => if b = act then 1 else 0
  | .agree => if b = 0 ∨ b = act then 1 else 0
  | .mask => b.toNat
  | .count => (List.range 16).countP b.getLsbD
  | .first => (List.range 16).findIdx b.getLsbD

/-- A vote into a predicate, and `pmov` into a predicate: one bit for every lane, or bits 15 to 0 of the source (R232,
R233). -/
def predCopySpec : Instr → Option PredSpec
  | .vote h m na o => match o.d with
    | .p n => some
      { h := h, srcs := [], d := .p n, bit := fun p act _ => voted m (ballot p act na o.a) act == 1
        flags := fun _ _ => 0 }
    | _ => none
  | .pmov h o => match o.d with
    | .p n => some
      { h := h, srcs := [], d := .p n, bit := fun p _ l => (p.val o.c false o.a 0).testBit l, flags := fun _ _ => 0 }
    | _ => none
  | _ => none

/-- The expected result of the lane instructions with a register result (R232 to R234). -/
def laneSpec : Instr → Option RegSpec
  | .vote h m na o => match o.d with
    | .p _ => none
    | d => some
      { h := h, srcs := [], dsts := [(d, false)], d := d, w64 := false
        val := fun p act _ => voted m (ballot p act na o.a) act
        flags := fun _ _ _ => 0 }
  | .pmov h o => match o.d with
    | .s n => some ⟨h, [], [], .s n, false, fun p _ _ => p.val o.c false o.a 0 % 2 ^ 16, fun _ _ _ => 0⟩
    | _ => none
  | .vtos h w o => some
    { h := h, srcs := [(o.a, w), (o.b, false)], dsts := [], d := o.d, w64 := w
      val := fun p _ _ =>
        let j := p.val o.c false o.b 0 % 16
        if p.amask.getLsbD j then p.val o.c w o.a j else 0
      flags := fun _ _ _ => 0 }
  | .amask h d => some ⟨h, [], [], d, false, fun _ act _ => act.toNat, fun _ _ _ => 0⟩
  | _ => none

/-- `stov` completes: the one lane B names is written, if the instruction acts on it (R234). -/
structure StovDone (h : Hdr) (w : Bool) (o : F3) (p : Part) (cyc : Nat) (q : Part) : Prop where
  retires : Retires p cyc h (p.pc + 1) q
  wrote : Wrote p q (p.act h &&& BitVec.ofNat 16 (2 ^ (p.val o.c false o.b 0 % 16))) o.d w (fun _ => p.val o.c w o.a 0)
  preds : q.preds = p.preds
  fpstat : q.fpstat = p.fpstat
  dead : Revived p q [(o.d, w)]
  pend : q.pend.map Pend.result = p.pend.map Pend.result

/-- `addc` and `subb` complete: the sum or difference of A, B and the carry in wraps to 32 bits, and the carry or borrow
out stands in the predicate that gave the carry in (R207). -/
structure CarryDone (h : Hdr) (o : F4) (sub : Bool) (p : Part) (cyc : Nat) (q : Part) : Prop where
  retires : Retires p cyc h (p.pc + 1) q
  wrote : Wrote p q (p.act h) o.d false (fun l =>
    let a := BitVec.ofNat 32 (p.val 0 false o.a l)
    let b := BitVec.ofNat 32 (p.val 0 false o.b l)
    let ci : Word := if (p.pmask o.cc).getLsbD l then 1 else 0
    (if sub then a - b - ci else a + b + ci).toNat)
  preds : PredWrote p q (p.act h) o.cc (fun l =>
    let a := p.val 0 false o.a l
    let b := p.val 0 false o.b l
    let ci := if (p.pmask o.cc).getLsbD l then 1 else 0
    if sub then decide (a < b + ci) else decide (2 ^ 32 ≤ a + b + ci))
  fpstat : q.fpstat = p.fpstat
  dead : Revived p q [(o.d, false)]
  pend : q.pend.map Pend.result = p.pend.map Pend.result

end Sys2Proof.Claims

section

open Sys2Proof

open Sys2Proof.Machine

/-- `addc` and `subb` complete with the sum or difference and the carry of their rule; a word of either has MOD zero, a
vector destination, sources of kinds v, s and k, and a predicate in C; with p0 there the carry in is 1 and the carry out is
discarded (R207).

Completes: `addc`, `subb`. -/
def Obligations.CarryResults : Prop :=
  (∀ (h : Hdr) (o : F4) (s : State), (Instr.addc h o).wf = true →
    Issues s h [(o.a, false), (o.b, false)] [(o.d, false)] false →
    (∃ q, exec (.addc h o) s = .next (s.setPart s.cur q) ∧ Claims.CarryDone h o false s.current s.cyc q ∧
      (o.cc = .p 0 → q.preds = s.current.preds)) ∧
    (∃ q, exec (.subb h o) s = .next (s.setPart s.cur q) ∧ Claims.CarryDone h o true s.current s.cyc q ∧
      (o.cc = .p 0 → q.preds = s.current.preds))) ∧
  (∀ (w : Nat) (h : Hdr) (o : F4), w < 2 ^ 96 → decode w = .ok (.addc h o) ∨ decode w = .ok (.subb h o) →
    bitsOf w 73 64 = 0 ∧ (∃ n, o.d = .v n) ∧ (∃ n, o.cc = .p n) ∧
    (∀ x, x = o.a ∨ x = o.b → (∃ n, x = .v n) ∨ (∃ n, x = .s n) ∨ (∃ n, x = .k n)) ∧
    (decode w = .ok (.addc h o) → bitsOf w 95 86 = 0x003) ∧ (decode w = .ok (.subb h o) → bitsOf w 95 86 = 0x004)) ∧
  (∀ p : Part, p.pmask (.p 0) = 0xFFFF)

/-- Every compare and predicate operation completes, with the bit of its rule in each lane it acts on of the predicate it
names, and nothing else but FPSTAT flags changed; so do `vote` and `pmov` into a predicate (R229 to R233).

Completes: `cmp`, `cmp64`, `fcmp`, `pand`, `por`, `pxor`, `pnot`, `vote`, `pmov`. -/
def Obligations.PredicateResults : Prop :=
  ∀ (i : Instr) (r : Claims.PredSpec) (s : State), i.wf = true →
    Claims.predSpec i = some r ∨ Claims.predCopySpec i = some r →
    Issues s r.h r.srcs [] false →
    ∃ q, exec i s = .next (s.setPart s.cur q) ∧ r.Short s.current s.cyc q

/-- `vote`, `pmov`, `vtos` and `amask` complete when they write a register, and `stov` completes (R232 to R234).

Completes: `vote`, `pmov`, `vtos`, `amask`, `stov`. -/
def Obligations.LaneResults : Prop :=
  (∀ (i : Instr) (r : RegSpec) (s : State), i.wf = true → Claims.laneSpec i = some r → Claims.CompletesShort i s r) ∧
  (∀ (h : Hdr) (w : Bool) (o : F3) (s : State), (Instr.stov h w o).wf = true →
    Issues s h [(o.a, w), (o.b, false)] [(o.d, w)] false →
    ∃ q, exec (.stov h w o) s = .next (s.setPart s.cur q) ∧ Claims.StovDone h w o s.current s.cyc q)

end
namespace Sys2Proof.Claims

open Sys2Proof.Machine

/-- FP32 operands and result, with the flags of the operation (R171, R239). -/
def fp1 (h : Hdr) (o : F2) (f : Nat → Nat × Fl) : RegSpec :=
  { h := h, srcs := [(o.a, false)], dsts := [(o.d, false)], d := o.d, w64 := false
    val := fun p _ l => (f (p.valF o.c .f32 o.a l)).1
    flags := fun p _ l => (f (p.valF o.c .f32 o.a l)).2 }
def fp2 (h : Hdr) (o : F3) (f : Nat → Nat → Nat × Fl) : RegSpec :=
  { h := h, srcs := [(o.a, false), (o.b, false)], dsts := [(o.d, false)], d := o.d, w64 := false
    val := fun p _ l => (f (p.valF o.c .f32 o.a l) (p.valF o.c .f32 o.b l)).1
    flags := fun p _ l => (f (p.valF o.c .f32 o.a l) (p.valF o.c .f32 o.b l)).2 }
def fp3 (h : Hdr) (o : F4) (f : Nat → Nat → Nat → Nat × Fl) : RegSpec :=
  { h := h, srcs := [(o.a, false), (o.b, false), (o.cc, false)], dsts := [(o.d, false)], d := o.d, w64 := false
    val := fun p _ l => (f (p.valF 0 .f32 o.a l) (p.valF 0 .f32 o.b l) (p.valF 0 .f32 o.cc l)).1
    flags := fun p _ l => (f (p.valF 0 .f32 o.a l) (p.valF 0 .f32 o.b l) (p.valF 0 .f32 o.cc l)).2 }

/-- A bit operation on an FP32 encoding, which raises no flag (R196, R239). -/
def raw (f : Word → Word → Word) (a b : Nat) : Nat × Fl := ((f (BitVec.ofNat 32 a) (BitVec.ofNat 32 b)).toNat, 0)

/-- The expected result of the FP32 instructions that are short (R239, R240). -/
def floatSpec : Instr → Option RegSpec
  | .fadd h m o => some (fp2 h o (fAdd .f32 m))
  | .fsub h m o => some (fp2 h o (fSub .f32 m))
  | .fmul h m o => some (fp2 h o (fMul .f32 m))
  | .ffma h m o => some (fp3 h o (fFma .f32 m))
  | .fmin h o => some (fp2 h o (fMinMax .f32 false))
  | .fmax h o => some (fp2 h o (fMinMax .f32 true))
  | .fabs h o => some (fp1 h o (fun a => raw (fun x _ => x &&& 0x7FFFFFFF) a 0))
  | .fneg h o => some (fp1 h o (fun a => raw (fun x _ => x ^^^ 0x80000000) a 0))
  | .fdiv h m o => some (fp2 h o (fDiv .f32 m))
  | .fsqrt h m o => some (fp1 h o (fSqrt .f32 m))
  | .frnd h x o => some (fp1 h o (fRnd x))
  | .fclass h o => some (fp1 h o (fun a => (fClass a, 0)))
  | .fcopysign h o => some (fp2 h o (raw (fun x y => (x &&& 0x7FFFFFFF) ||| (y &&& 0x80000000))))
  | .fscale h m o => some
    { h := h, srcs := [(o.a, false), (o.b, false)], dsts := [(o.d, false)], d := o.d, w64 := false
      val := fun p _ l => (fScale m (p.valF o.c .f32 o.a l) (int 32 true (p.val o.c false o.b l))).1
      flags := fun p _ l => (fScale m (p.valF o.c .f32 o.a l) (int 32 true (p.val o.c false o.b l))).2 }
  | _ => none

/-- Both 16-bit elements of a packed operation: element 0 in bits 15 to 0 (R247). -/
def halves (f : Nat → Nat → Nat → Nat × Fl) (a b c : Nat) : Nat × Fl :=
  let lo := f (a % 2 ^ 16) (b % 2 ^ 16) (c % 2 ^ 16)
  let hi := f (a / 2 ^ 16 % 2 ^ 16) (b / 2 ^ 16 % 2 ^ 16) (c / 2 ^ 16 % 2 ^ 16)
  (lo.1 + 2 ^ 16 * hi.1, lo.2 ||| hi.2)

/-- Packed operands of format `f` (R171, R247). -/
def packed2 (h : Hdr) (f : Fmt) (o : F3) (op : Nat → Nat → Nat × Fl) : RegSpec :=
  let r := fun (p : Part) (l : Nat) => halves (fun a b _ => op a b) (p.valP o.c f o.a l) (p.valP o.c f o.b l) 0
  { h := h, srcs := [(o.a, false), (o.b, false)], dsts := [(o.d, false)], d := o.d, w64 := false
    val := fun p _ l => (r p l).1
    flags := fun p _ l => (r p l).2 }
def packed3 (h : Hdr) (f : Fmt) (o : F4) (op : Nat → Nat → Nat → Nat × Fl) : RegSpec :=
  let r := fun (p : Part) (l : Nat) => halves op (p.valP 0 f o.a l) (p.valP 0 f o.b l) (p.valP 0 f o.cc l)
  { h := h, srcs := [(o.a, false), (o.b, false), (o.cc, false)], dsts := [(o.d, false)], d := o.d, w64 := false
    val := fun p _ l => (r p l).1
    flags := fun p _ l => (r p l).2 }

/-- A dot product with an FP32 accumulator and one rounding: `n` products of elements of formats `fa` and `fb` (R248). -/
def dotted (h : Hdr) (m : FMod) (fa fb : Fmt) (n : Nat) (o : F4) : RegSpec :=
  let r := fun (p : Part) (l : Nat) => fdot m fa fb n (p.valP 0 fa o.a l) (p.valP 0 fb o.b l) (p.valF 0 .f32 o.cc l)
  { h := h, srcs := [(o.a, false), (o.b, false), (o.cc, false)], dsts := [(o.d, false)], d := o.d, w64 := false
    val := fun p _ l => (r p l).1
    flags := fun p _ l => (r p l).2 }

/-- The test of one element as ones or zeros (R249). -/
def masked (f : Fmt) (c : FCond) (a b : Nat) : Nat × Fl := (if (fCond f c a b).1 then 0xFFFF else 0, (fCond f c a b).2)

/-- The expected result of the packed instructions (R247 to R249). -/
def packedSpec : Instr → Option RegSpec
  | .f16add h m o => some (packed2 h .f16 o (fAdd .f16 m))
  | .f16mul h m o => some (packed2 h .f16 o (fMul .f16 m))
  | .f16fma h m o => some (packed3 h .f16 o (fFma .f16 m))
  | .f16min h o => some (packed2 h .f16 o (fMinMax .f16 false))
  | .f16max h o => some (packed2 h .f16 o (fMinMax .f16 true))
  | .b16add h m o => some (packed2 h .bf16 o (fAdd .bf16 m))
  | .b16mul h m o => some (packed2 h .bf16 o (fMul .bf16 m))
  | .b16fma h m o => some (packed3 h .bf16 o (fFma .bf16 m))
  | .b16min h o => some (packed2 h .bf16 o (fMinMax .bf16 false))
  | .b16max h o => some (packed2 h .bf16 o (fMinMax .bf16 true))
  | .fdot2 h m o => some (dotted h m .f16 .f16 2 o)
  | .bdot2 h m o => some (dotted h m .bf16 .bf16 2 o)
  | .qdot4 h m fa fb o => some (dotted h m (if fa then .e5m2 else .e4m3) (if fb then .e5m2 else .e4m3) 4 o)
  | .fcmp2 h c bf o => let f : Fmt := if bf then .bf16 else .f16; some (packed2 h f o (masked f c))
  | _ => none

/-- A converted element put into element `i` of the destination, whose other elements are kept; FP32 has one element
(R251, R253). -/
def kept (dst : Fmt) (old : Nat) (i : Nat) (r : Nat × Fl) : Nat × Fl :=
  if dst = .f32 then r else (putElem dst old i r.1, r.2)

/-- The result of `cvt`: element SEL mod 8 of A converted into element SEL / 8 of D (R200, R251). -/
def cvtOf (m : FMod) (src dst : Fmt) (o : F3) (p : Part) (l : Nat) : Nat × Fl :=
  let sel := match o.b with | .k n => n.val | _ => 0
  kept dst (p.val o.c false o.d l) (sel / 8) (convert dst m.rnd m.sat (fval src (srcElem p o.c src o.a l (sel % 8))))

/-- The result of `pk`: elements 2 POS and 2 POS + 1 from A and B (R253). -/
def pkOf (m : FMod) (rw : Bool) (dst : Fmt) (pos : Fin 4) (o : F3) (p : Part) (l : Nat) : Nat × Fl :=
  let one := fun (x : Opnd) =>
    if rw then (p.val o.c false x l % 2 ^ fmtBits dst, (0 : Fl)) else convert dst m.rnd m.sat (fval .f32 (p.valF o.c .f32 x l))
  let old := if dst.count = 2 then 0 else p.val o.c false o.d l
  (putElem dst (putElem dst old (2 * pos.val) (one o.a).1) (2 * pos.val + 1) (one o.b).1, (one o.a).2 ||| (one o.b).2)

/-- The result of `upk`: one element of A, as bits or as FP32 (R253). -/
def upkOf (src : Fmt) (e : Fin 8) (rw : Bool) (o : F2) (p : Part) (l : Nat) : Nat × Fl :=
  let c := srcElem p o.c src o.a l e.val
  if rw then (c, 0) else convert .f32 .rne false (fval src c)

/-- A RegSpec from the value and flags of each lane. -/
def ofLane (h : Hdr) (srcs : List (Opnd × Bool)) (d : Opnd) (w : Bool) (f : Part → Nat → Nat × Fl) : RegSpec :=
  { h := h, srcs := srcs, dsts := [(d, w)], d := d, w64 := w, val := fun p _ l => (f p l).1, flags := fun p _ l => (f p l).2 }

/-- Sources of `pk`: D as well, when its other elements are kept (R253). -/
def pkSrcs (dst : Fmt) (o : F3) : List (Opnd × Bool) :=
  if dst.count = 2 then [(o.a, false), (o.b, false)] else [(o.a, false), (o.b, false), (o.d, false)]
def cvtSrcs (dst : Fmt) (o : F3) : List (Opnd × Bool) :=
  if dst = .f32 then [(o.a, false)] else [(o.a, false), (o.d, false)]

/-- The conversions between wide formats and integers, which are short (R145, R250 to R253). -/
def convertSpec : Instr → Option RegSpec
  | .cvt h m src dst o =>
    if src.isMx || dst.isMx then none else some (ofLane h (cvtSrcs dst o) o.d false (cvtOf m src dst o))
  | .i2f h m t dst o =>
    some (ofLane h [(o.a, t.w.is64)] o.d false (fun p l =>
      ofInt dst m.rnd m.sat (int (bitsW t.w) t.sg (p.val o.c t.w.is64 o.a l))))
  | .f2i h x t src o =>
    some (ofLane h [(o.a, false)] o.d t.w.is64 (fun p l =>
      let r := toInt (bitsW t.w) t.sg x (fval src (p.valF o.c src o.a l % 2 ^ fmtBits src))
      (narrowed t false r.1, r.2)))
  | .pk h m rw dst pos o => if dst.isMx then none else some (ofLane h (pkSrcs dst o) o.d false (pkOf m rw dst pos o))
  | .upk h src e rw o => if src.isMx then none else some (ofLane h [(o.a, false)] o.d false (upkOf src e rw o))
  | _ => none

/-- The source lane of `shfl` in a group of `w` lanes (R235). -/
def source (m : ShflMode) (w l b : Nat) : Nat :=
  let base := l / w * w
  let r := l % w
  match m with
  | .from => base + b % w
  | .back => if b ≤ r then l - b else l
  | .fwd => if r + b < w then l + b else l
  | .mirr => base + r ^^^ (b % w)
  | .rot => base + (r + b) % w

/-- The running result of the acting lanes up to and with lane `l`, and the flags it has raised there (R237). -/
def running (op : RedOp) (t : IType) (x : Rnd) (f : Nat → Nat) (ls : List Nat) : Nat × Fl :=
  match ls with
  | [] => (redIdent op t, 0)
  | l :: ls => ls.foldl (fun a j => let r := redStep op t x a.1 (f j); (r.1, a.2 ||| r.2)) (f l, 0)

/-- The expected pending result of each long instruction with one destination (R145, R235 to R238, R241 to R246, R250 to
R255). -/
def longSpec : Instr → Option RegSpec
  | .shfl h m g w o => some
    { h := h, srcs := [(o.a, w), (o.b, false)], dsts := [(o.d, w)], d := o.d, w64 := w
      val := fun p act l =>
        let j := source m (16 / 2 ^ g.val) l (p.val o.c false o.b l)
        p.val o.c w o.a (if act.getLsbD j then j else l)
      flags := fun _ _ _ => 0 }
  | .prefixScan h op t ex x o => some
    { h := h, srcs := [(o.a, t.w.is64)], dsts := [(o.d, t.w.is64)], d := o.d, w64 := t.w.is64
      val := fun p act l =>
        (running op t x (p.val o.c t.w.is64 o.a) ((lanesOf act).filter (fun j => if ex then j < l else j ≤ l))).1
      flags := fun p act _ => (running op t x (p.val o.c t.w.is64 o.a) (lanesOf act)).2 }
  | .reduce h op t x o => some
    { h := h, srcs := [(o.a, t.w.is64)], dsts := [(o.d, t.w.is64)], d := o.d, w64 := t.w.is64
      val := fun p act _ => (running op t x (p.val o.c t.w.is64 o.a) (lanesOf act)).1
      flags := fun p act _ => (running op t x (p.val o.c t.w.is64 o.a) (lanesOf act)).2 }
  | .matchV h w o => some
    { h := h, srcs := [(o.a, w)], dsts := [(o.d, false)], d := o.d, w64 := false
      val := fun p act l =>
        Nat.ofBits (fun j : Fin 16 => act.getLsbD j.val && decide (p.val o.c w o.a j.val = p.val o.c w o.a l))
      flags := fun _ _ _ => 0 }
  | .frcp h m o => some (fp1 h o (fRcp m))
  | .frsq h m o => some (fp1 h o (fRsq m))
  | .fexp2 h m o => some (fp1 h o (fExp2 m))
  | .flog2 h m o => some (fp1 h o (fLog2 m))
  | .cvt h m src dst o =>
    if src.isMx || dst.isMx then some (ofLane h (cvtSrcs dst o) o.d false (cvtOf m src dst o)) else none
  | .pk h m rw dst pos o => if dst.isMx then some (ofLane h (pkSrcs dst o) o.d false (pkOf m rw dst pos o)) else none
  | .upk h src e rw o => if src.isMx then some (ofLane h [(o.a, false)] o.d false (upkOf src e rw o)) else none
  | .mxd h x f o => some (ofLane h [(o.a, false), (o.b, false)] o.d true (fun p l =>
      let e := fun i => convert .f32 x false (scaled f (getElem f (p.val o.c false o.a l) i) (p.val o.c false o.b l % 256))
      ((e 0).1 + 2 ^ 32 * (e 1).1, (e 0).2 ||| (e 1).2)))
  | _ => none

/-- `mxq` of part `p` has been issued: the block of both values of each acting lane in ascending order, its codes pending
in D, two for each lane, and its scale in the s register (R92, R203, R254). -/
structure MxqDone (h : Hdr) (fmt : Fmt) (d a sc : Opnd) (p : Part) (cyc id : Nat) (q : Part) (e : Pend) : Prop where
  retires : Retires p cyc h (p.pc + 1) q
  vregs : q.vregs = p.vregs
  sregs : q.sregs = p.sregs
  preds : q.preds = p.preds
  fpstat : q.fpstat = p.fpstat
  pend : q.pend = p.pend ++ [e]
  id : e.id = id
  block : ∃ scale codes fl, quantBlock fmt ((lanesOf (p.act h)).flatMap (fun l =>
      [fval .f32 (p.val 0 true a l % 2 ^ 32), fval .f32 (p.val 0 true a l / 2 ^ 32)])) = (scale, codes, fl) ∧
    e.flags = fl ∧ (∀ n, sc = .s n → e.svals = [(n.val, BitVec.ofNat 32 scale)]) ∧
    ∀ n, d = .v n → ∀ r l, l < 16 → e.valAt r l =
      if (p.act h).getLsbD l = true ∧ r = p.absReg n then
        let i := (List.range l).countP (p.act h).getLsbD
        some (BitVec.ofNat 32 (codes.getD (2 * i) 0 % 2 ^ fmtBits fmt +
          2 ^ elemBits fmt * (codes.getD (2 * i + 1) 0 % 2 ^ fmtBits fmt)))
      else none

end Sys2Proof.Claims

section

open Sys2Proof

open Sys2Proof.Machine

/-- Every short FP32 instruction, every packed instruction and every conversion that is short completes with the result and
the FPSTAT flags of its operation in each lane it acts on (R193 to R202, R239, R240, R247 to R253).

Completes: `fadd`, `fsub`, `fmul`, `ffma`, `fmin`, `fmax`, `fabs`, `fneg`, `fdiv`, `fsqrt`, `frnd`, `fclass`,
`fcopysign`, `fscale`, `f16add`, `f16mul`, `f16fma`, `b16add`, `b16mul`, `b16fma`, `f16min`, `f16max`, `b16min`,
`b16max`, `fdot2`, `bdot2`, `qdot4`, `fcmp2`, `cvt`, `i2f`, `f2i`, `pk`, `upk`. -/
def Obligations.FloatResults : Prop :=
  ∀ (i : Instr) (r : RegSpec) (s : State), i.wf = true →
    Claims.floatSpec i = some r ∨ Claims.packedSpec i = some r ∨ Claims.convertSpec i = some r →
    Claims.CompletesShort i s r

/-- Every long instruction with one destination completes with its result pending; `mxq` completes with its codes and scale
pending (R92, R145, R203, R235 to R238, R241 to R246, R250 to R254).

Completes: `shfl`, `prefixScan`, `reduce`, `matchV`, `frcp`, `frsq`, `fexp2`, `flog2`, `cvt`, `pk`, `upk`, `mxd`, `mxq`. -/
def Obligations.LongResults : Prop :=
  (∀ (i : Instr) (r : RegSpec) (s : State), i.wf = true → Claims.longSpec i = some r → Claims.CompletesLong i s r) ∧
  (∀ (h : Hdr) (fmt : Fmt) (d a sc : Opnd) (s : State), (Instr.mxq h fmt d a sc).wf = true →
    Issues s h [(a, true)] [(d, false)] false →
    ∃ q e, exec (.mxq h fmt d a sc) s = .next { s.setPart s.cur q with ids := s.ids + 1 } ∧
      Claims.MxqDone h fmt d a sc s.current s.cyc s.ids q e)

/-- A pending result that waits for nothing lands: its values and flags take effect, it is no longer pending, and a part that waited for its last
result is READY.  Where a short instruction has written a register of it since, the register holds either value (R145,
R146, R199).

Completes: `resultLand`. -/
def Obligations.PendingLands : Prop :=
  ∀ (pid k : Nat) (s : State) (e : Pend), (s.part pid).pend[k]? = some e → s.msg e.id = none → e.cond = .free →
    (∀ d ∈ (s.part pid).pend.take k, d.clash e = false) →
    (e.vals.map (fun v => vkey v.1 v.2.1)).Nodup → (e.svals.map Prod.fst).Nodup →
    ∃ t, exec (.resultLand pid k) s = .next t ∧
      (∀ v ∈ e.vals, Store.get 0 (t.part pid).vregs (vkey v.1 v.2.1) = v.2.2 ∨
        (v.1, v.2.1) ∈ e.clob ∧
          Store.get 0 (t.part pid).vregs (vkey v.1 v.2.1) = Store.get 0 (s.part pid).vregs (vkey v.1 v.2.1)) ∧
      (∀ v ∈ e.svals, (t.part pid).uni v.1 = v.2 ∨
        (1000000, v.1) ∈ e.clob ∧ (t.part pid).uni v.1 = (s.part pid).uni v.1) ∧
      (∀ x, (∀ v ∈ e.vals, vkey v.1 v.2.1 ≠ x) → Store.get 0 (t.part pid).vregs x = Store.get 0 (s.part pid).vregs x) ∧
      (∀ x, (∀ v ∈ e.svals, v.1 ≠ x) → (t.part pid).uni x = (s.part pid).uni x) ∧
      (t.part pid).fpstat = (s.part pid).fpstat ||| (e.flags &&& ~~~ ((s.part pid).fpctl.setWidth 16)) ∧
      (t.part pid).pend = (s.part pid).pend.eraseIdx k ∧
      ((s.part pid).pend = [e] → (s.part pid).st = .switched → (t.part pid).st = .ready) ∧
      (t.part pid).pc = (s.part pid).pc ∧ (t.part pid).preds = (s.part pid).preds ∧
      (∀ x, x ≠ pid → t.part x = s.part x) ∧ t.mem = s.mem

end
namespace Sys2Proof.Claims

open Sys2Proof.Machine

/-- `q` is the part `p` after an instruction that changes no register: it goes on at `pc`. -/
structure Moves (p : Part) (cyc : Nat) (h : Hdr) (pc : Word) (q : Part) : Prop where
  retires : Retires p cyc h pc q
  vregs : q.vregs = p.vregs
  sregs : q.sregs = p.sregs
  preds : q.preds = p.preds
  fpstat : q.fpstat = p.fpstat
  dead : q.dead = p.dead
  pend : q.pend = p.pend

/-- The next state of `i` moves the issuing part to `pc` and changes nothing else. -/
def GoesTo (i : Instr) (h : Hdr) (s : State) (pc : Word) : Prop :=
  ∃ q, exec i s = .next (s.setPart s.cur q) ∧ Moves s.current s.cyc h pc q

/-- `i` takes the precise trap `c` with the lanes `m` in TLM: what `State.trapAt` leaves (R176, R341). -/
def Traps (i : Instr) (s : State) (c : Cause) (m : Mask) : Prop := exec i s = .next (s.trapAt s.cur c m [])

/-- Lanes of `act` that take a branch on predicate `n`, inverted on request (R221). -/
def taking (p : Part) (act : Mask) (neg : Bool) (n : Fin 8) : Mask := (if neg then ~~~ (p.pred n.val) else p.pred n.val) &&& act

/-- The lanes of `m` all give operand `a` the value `x` (R221). -/
def Uniform (p : Part) (c : Word) (a : Opnd) (m : Mask) (x : Word) : Prop :=
  ∀ l, l < 16 → m.getLsbD l = true → BitVec.ofNat 32 (p.val c false a l) = x

/-- The part `p` less the lanes outside `m`, going on at `pc`, with SPLIT depth `d` and path bit `lvl` set to `side`
(R142, R149, R150). -/
structure SplitOff (p : Part) (m : Mask) (cyc : Nat) (h : Hdr) (pc : Word) (d lvl : Nat) (side : Bool) (q : Part) : Prop where
  retires : Retires { p with amask := m, split := q.split, defer := q.defer, step := q.step } cyc h pc q
  depth : q.split.toNat % 16 = d
  path : q.split.getLsbD (4 + lvl) = side
  others : ∀ b, 4 ≤ b → b ≠ 4 + lvl → q.split.getLsbD b = p.split.getLsbD b
  lanes : ∀ r l, l < 16 → m.getLsbD l = true → q.word r l = p.word r l
  sregs : q.sregs = p.sregs
  preds : q.preds = p.preds
  fpstat : q.fpstat = p.fpstat
  dead : q.dead = p.dead
  pend : q.pend = p.pend

/-- `brd` divides the issuing part of `t`: the fall-through part keeps its number, the taken part gets the next one, and requests
outstanding count as both parts' (R149; log 28 for the requests). -/
def Splits (i : Instr) (h : Hdr) (s t : State) (c : Mask) (off : Word) (d lvl : Nat) : Prop :=
  ∃ f g, exec i s = .next { ((t.setPart s.cur f).setPart s.ids g).shareReqs s.cur s.ids with ids := s.ids + 1 } ∧
    SplitOff s.current (s.current.amask &&& ~~~c) s.cyc h (s.current.pc + 1) d lvl false f ∧
    SplitOff s.current c s.cyc h (s.current.pc + off) d lvl true g ∧ f.defer = s.current.defer ∧ g.defer = 0

/-- The part after `call` of `4 × (slide + 1)` registers: the link stands in the last register slid over, the window has
moved up, the registers new to it are zero, dead marks have moved with their registers (R226). -/
structure Slid (p : Part) (slide : Fin 4) (q : Part) : Prop where
  same : q = { p with
    vregs := q.vregs
    dead := p.dead >>> (4 * (slide.val + 1))
    depth := p.depth + slide.val + 1
    pend := q.pend }
  pend : q.pend.map Pend.result = p.pend.map Pend.result
  words : ∀ r l, l < 16 → q.word r l =
    if 4 * p.depth + p.w ≤ r ∧ r < 4 * p.depth + p.w + 4 * (slide.val + 1) then 0
    else if r = 4 * p.depth + 4 * (slide.val + 1) - 1 ∧ p.amask.getLsbD l = true then
      BitVec.ofNat 32 ((p.pc.toNat + 1) * 4 + slide.val)
    else p.word r l

/-- The register file of a part's core takes it at DEPTH `d` with window `w` as it stands: no earlier growth request waits,
and nothing need be spilled (R156, R157). -/
structure Room (s : State) (pid d w : Nat) (pre : Part → Part) : Prop where
  first : s.growAhead (s.part pid) = false
  groups : (s.setPart pid (State.asking (pre (s.part pid)) d w 0)).usedGroups (s.part pid).unit (s.part pid).core ≤ 2048

/-- The part once its growth request is met. -/
def granted (p : Part) : Part := { p with fetching := 0, ask := 0 }

/-- The part `p`, whose caller's registers stand, after the slide of a call: the window has moved up, and the registers new to it are
zero (R226). -/
structure SlidUp (p : Part) (slide : Fin 4) (q : Part) : Prop where
  same : q = { p with
    vregs := q.vregs
    dead := p.dead >>> (4 * (slide.val + 1))
    depth := p.depth + slide.val + 1 }
  words : ∀ r l, l < 16 → q.word r l =
    if 4 * p.depth + p.w ≤ r ∧ r < 4 * p.depth + p.w + 4 * (slide.val + 1) then 0 else p.word r l

/-- The link of a call at a part's PC: the return PC and the slide (R226). -/
def linkOf (p : Part) (slide : Fin 4) : Word := BitVec.ofNat 32 ((p.pc.toNat + 1) * 4 + slide.val)

/-- What `call` and `calli` to `target` do once the slide is admissible: with room in the register file the part goes on at
the target; otherwise groups are spilled first, the link's among them once it stands in the caller's v(n - 1), or the part waits or
is evicted, as the growth request says (R157, R226). -/
def Calls (i : Instr) (h : Hdr) (s : State) (slide : Fin 4) (target : Word) : Prop :=
  let link := Part.linked (4 * (slide.val + 1)) (linkOf s.current slide)
  let grown := s.growTo s.cur (s.current.depth + slide.val + 1) s.current.w 0 link
  (Room s s.cur (s.current.depth + slide.val + 1) s.current.w link → ∃ q, Slid (granted s.current) slide q ∧
    exec i s = .next (s.setPart s.cur (q.retire h s.cyc target))) ∧
  (∀ s1, grown = .met s1 → (s1.part s.cur).live = true → 4 * (slide.val + 1) ≤ (s1.part s.cur).w →
    ∃ q, SlidUp (s1.part s.cur) slide q ∧ exec i s = .next ((Eff.jump (s1.setPart s.cur q) target).close h s.cur)) ∧
  (∀ s1, grown = .held s1 → exec i s = .next s1)

/-- The slide stays within the spill area, and the link holds the return PC (R226). -/
def SlideFits (p : Part) (slide : Fin 4) : Prop :=
  p.depth + slide.val + 1 ≤ (p.spillu * 65536 - 256) / 256 - 2 ∧ p.pc.toNat + 1 < 2 ^ 30 ∧ 4 * (slide.val + 1) ≤ p.w

/-- The part after `ret` over `m` groups: the window has moved down and the callee's top registers hold zero (R227). -/
structure Returned (p : Part) (cyc : Nat) (h : Hdr) (m : Nat) (pc : Word) (q : Part) : Prop where
  retires : Retires { p with depth := p.depth - m, dead := (p.dead <<< (4 * m)) &&& BitVec.ofNat 32 (2 ^ p.w - 1) }
    cyc h pc q
  words : ∀ r l, l < 16 → q.word r l =
    if 4 * p.depth + (p.w - 4 * m) ≤ r ∧ r < 4 * p.depth + p.w then 0 else p.word r l
  sregs : q.sregs = p.sregs
  preds : q.preds = p.preds
  fpstat : q.fpstat = p.fpstat
  dead : q.dead = (p.dead <<< (4 * m)) &&& BitVec.ofNat 32 (2 ^ p.w - 1)
  pend : q.pend = p.pend

/-- The part with window `w`: registers from `lo` up to `hi` hold zero, and those beyond the window are not dead (R228). -/
structure Resized (p : Part) (w lo hi : Nat) (q : Part) : Prop where
  same : q = { p with vregs := q.vregs, w := w, dead := p.dead &&& BitVec.ofNat 32 (2 ^ min p.w w - 1) }
  words : ∀ r l, l < 16 → q.word r l =
    if 4 * p.depth + lo ≤ r ∧ r < 4 * p.depth + hi then 0 else p.word r l

end Sys2Proof.Claims

section

open Sys2Proof

open Sys2Proof.Machine

/-- `br` goes to PC + OFF when every acting lane takes it and on to PC + 1 when none does; otherwise it traps with
BRANCH_NONUNIFORM and TLM = act.  `jmp` goes to PC + OFF; `jmpi` goes to the value its acting lanes agree on, and traps with
BRANCH_NONUNIFORM where two differ; a uniform operand is one value; `br p0` and `jmp` have the same effect.  `loop` with a lane to act decrements the part's
copy of its register and goes to PC + OFF unless that gives zero; with none it goes on (R221, R225).

Completes: `br`, `jmp`, `jmpi`, `loop`. -/
def Obligations.BranchResults : Prop :=
  (∀ (h : Hdr) (neg : Bool) (n : Fin 8) (off : Word) (s : State), Issues s h [] [] false →
    let c := Claims.taking s.current (s.current.act h) neg n
    (c = s.current.act h → Claims.GoesTo (.br h neg n off) h s (s.current.pc + off)) ∧
    (c = 0 → Claims.GoesTo (.br h neg n off) h s (s.current.pc + 1)) ∧
    (c ≠ s.current.act h → c ≠ 0 → Claims.Traps (.br h neg n off) s .branchNonuniform (s.current.act h))) ∧
  (∀ (h : Hdr) (off : Word) (s : State), Issues s h [] [] false →
    Claims.GoesTo (.jmp h off) h s (s.current.pc + off)) ∧
  (∀ (h : Hdr) (a : Opnd) (c x : Word) (s : State), Issues s h [(a, false)] [] false →
    Claims.Uniform s.current c a (s.current.act h) x → Claims.GoesTo (.jmpi h a c) h s x) ∧
  (∀ (h : Hdr) (r : Fin 32) (c : Word) (s : State), Issues s h [(.v r, false)] [] false →
    (∀ x, ¬ Claims.Uniform s.current c (.v r) (s.current.act h) x) →
    Claims.Traps (.jmpi h (.v r) c) s .branchNonuniform (s.current.act h)) ∧
  (∀ (h : Hdr) (a : Opnd) (c : Word) (s : State), (∀ r, a ≠ .v r) → Issues s h [(a, false)] [] false →
    Claims.GoesTo (.jmpi h a c) h s
      (BitVec.ofNat 32 (s.current.val c false a ((lanesOf (s.current.act h)).headD 0)))) ∧
  (∀ (h : Hdr) (off : Word) (s : State), exec (.br h false 0 off) s = exec (.jmp h off) s) ∧
  (∀ (h : Hdr) (n : Fin 16) (off : Word) (s : State), s.current.live = true → s.current.st = .ready →
    s.current.act h = 0 → Claims.GoesTo (.loop h n off) h s (s.current.pc + 1)) ∧
  (∀ (h : Hdr) (n : Fin 16) (off : Word) (s : State), Issues s h [] [] false →
    ∃ q, exec (.loop h n off) s = .next (s.setPart s.cur q) ∧
      Retires s.current s.cyc h (s.current.pc + (if s.current.readS n.val = 1 then 1 else off)) q ∧
      (∀ k, q.uni k = if k = n.val then s.current.readS n.val - 1 else s.current.uni k) ∧
      q.vregs = s.current.vregs ∧ q.preds = s.current.preds ∧ q.fpstat = s.current.fpstat ∧ q.dead = s.current.dead ∧
      q.pend.map Pend.result = s.current.pend.map Pend.result)

/-- `brd` where all acting lanes agree goes on as `br` does; where they differ it splits the part: the lanes that take it
go to PC + OFF in a new part, the others on to PC + 1, one path bit apart.  It opens the huddle at the split's level when
it is closed, with EXPECT the part's lanes, and stands by an open huddle only at its own level.  `hjoin` sends a JOIN to the
barrier unit and waits switched for the reply, with its live-set index kept for a pass; a guard that leaves out a lane traps
(R149 to R152, R222, R223).  That requests posted before a split count as both parts' is the model's choice (log 28).

Completes: `brd`, `hjoin`. -/
def Obligations.DivergenceResults : Prop :=
  (∀ (h : Hdr) (neg : Bool) (n : Fin 8) (hud : Fin 16) (off : Word) (s : State), Issues s h [] [] true →
    let p := s.current
    let c := Claims.taking p (p.act h) neg n
    let d := p.split.toNat % 16
    let e := s.huddle p hud.val
    (c = p.act h → Claims.GoesTo (.brd h neg n hud off) h s (p.pc + off)) ∧
    (c ≠ p.act h → c = 0 → Claims.GoesTo (.brd h neg n hud off) h s (p.pc + 1)) ∧
    (c ≠ p.act h → c ≠ 0 → e.isOpen = false → d < 15 →
      Claims.Splits (.brd h neg n hud off) h s (s.setHuddle p hud.val ⟨p.amask, 0, d, 0, false, true, 0⟩) c off (d + 1) d) ∧
    (c ≠ p.act h → c ≠ 0 → e.isOpen = true → e.level + 1 = d →
      Claims.Splits (.brd h neg n hud off) h s s c off d e.level) ∧
    (c ≠ p.act h → c ≠ 0 → (e.isOpen = false ∧ d = 15 ∨ e.isOpen = true ∧ e.level + 1 ≠ d) →
      Claims.Traps (.brd h neg n hud off) s .branchNonuniform (p.act h))) ∧
  (∀ (h : Hdr) (hud : Fin 16) (s : State), Issues s h [] [] true →
    (s.current.act h = s.current.amask →
      ∃ t, exec (.hjoin h hud) s = .next t ∧ t.msg s.ids = some (.join s.cur hud.val) ∧
        t.part s.cur = { s.current with
          pend := [Pend.wait s.ids]
          st := .switched
          lsi := h.lsi.val } ∧
        (∀ k, k ≠ s.cur → t.part k = s.part k) ∧ t.mem = s.mem ∧ t.teams = s.teams) ∧
    (s.current.act h ≠ s.current.amask → Claims.Traps (.hjoin h hud) s .branchNonuniform (s.current.act h))) ∧
  (∀ (s : State) (old new k : Nat), (s.shareReqs old new).preq k = (s.preq k).map (fun r =>
    if r.owners.contains old then { r with owners := r.owners ++ [new] } else r))

/-- `call` and `calli` slide the window up over the link and go to their target; a guard that leaves out a lane of the
part, a target that differs between lanes, a full spill area and a return PC of more than 30 bits trap instead.  `ret` goes
to the PC of the link and slides the window down by the link's groups, when the register file holds the groups of the
caller, which it otherwise fetches once a growth request has made room; a guard that leaves out a lane, a DEPTH of 0, a link that
lanes differ in, and a slide beyond DEPTH trap (R156, R226, R227).  That a target which differs between lanes comes before the
other traps is the model's choice (log 37).

Completes: `call`, `calli`, `ret`. -/
def Obligations.CallResults : Prop :=
  (∀ (h : Hdr) (slide : Fin 4) (i : Instr) (os : List (Opnd × Bool)) (target : Word → Prop) (s : State),
    ((∃ off, i = .call h slide off ∧ os = [] ∧ target = fun x => x = s.current.pc + off) ∨
      (∃ a c, i = .calli h slide a c ∧ os = [(a, false)] ∧ target = fun x => Claims.Uniform s.current c a s.current.amask x)) →
    4 * (slide.val + 1) ≤ s.current.w → Issues s h os [] true →
    let room := (s.current.spillu * 65536 - 256) / 256 - 2
    let d := s.current.depth + slide.val + 1
    (s.current.act h ≠ s.current.amask → Claims.Traps i s .branchNonuniform (s.current.act h)) ∧
    (∀ x, s.current.act h = s.current.amask → target x →
      (Claims.SlideFits s.current slide → Claims.Calls i h s slide x) ∧
      (room < d → Claims.Traps i s .spillAreaFull (s.current.act h)) ∧
      (d ≤ room → 2 ^ 30 ≤ s.current.pc.toNat + 1 → Claims.Traps i s .protection (s.current.act h)))) ∧
  (∀ (h : Hdr) (slide : Fin 4) (r : Fin 32) (c : Word) (s : State), 4 * (slide.val + 1) ≤ s.current.w →
    Issues s h [(.v r, false)] [] true → s.current.act h = s.current.amask →
    (∀ x, ¬ Claims.Uniform s.current c (.v r) s.current.amask x) →
    Claims.Traps (.calli h slide (.v r) c) s .branchNonuniform (s.current.act h)) ∧
  (∀ (h : Hdr) (s : State), Issues s h [] [] true →
    let p := s.current
    let i := Instr.ret h
    let word := fun (l : Nat) => (p.readAbs (4 * p.depth - 1) l).toNat
    let link := word ((lanesOf p.amask).headD 0)
    let agree := ∀ l, l < 16 → p.amask.getLsbD l = true → word l = link
    let m := link % 4 + 1
    let fetches := fun (lo : Nat) =>
      (∀ s1, s.growTo s.cur p.depth p.w (p.resLo - lo) id = .met s1 →
        exec i s = .next (s1.startFetch s.cur lo (s1.part s.cur).resLo 0)) ∧
      (∀ s1, s.growTo s.cur p.depth p.w (p.resLo - lo) id = .held s1 → exec i s = .next s1)
    (p.act h ≠ p.amask → Claims.Traps i s .branchNonuniform (p.act h)) ∧
    (p.act h = p.amask → p.depth = 0 → Claims.Traps i s .protection (p.act h)) ∧
    (p.act h = p.amask → p.depth ≠ 0 → p.depth - 1 < p.resLo → fetches (p.depth - 1)) ∧
    (p.act h = p.amask → p.depth ≠ 0 → p.resLo ≤ p.depth - 1 →
      (¬ agree → Claims.Traps i s .branchNonuniform (p.act h)) ∧
      (agree → p.depth < m → Claims.Traps i s .protection (p.act h)) ∧
      (agree → m ≤ p.depth → p.depth - m < p.resLo → fetches (p.depth - m)) ∧
      (agree → m ≤ p.depth → p.resLo ≤ p.depth - m → ∃ q, exec i s = .next (s.setPart s.cur q) ∧
        Claims.Returned p s.cyc h m (BitVec.ofNat 32 (link / 4)) q)))

/-- `wgrow` and `wshrink` change the window by 8, 16 or 24 registers; registers added or given up hold zero.  `wgrow` waits or
is evicted where the register file has no room.  A new size above 32 or below 8 is ILLEGAL_ENCODING, and a guard that leaves out a
lane traps (R157, R228).

Completes: `wgrow`, `wshrink`. -/
def Obligations.WindowResults : Prop :=
  ∀ (h : Hdr) (amt : Fin 4) (s : State), Issues s h [] [] true →
    let p := s.current
    let m := 8 * amt.val
    (32 < p.w + m → Claims.Traps (.wgrow h amt) s .illegalEncoding p.amask) ∧
    (p.w < 8 + m → Claims.Traps (.wshrink h amt) s .illegalEncoding p.amask) ∧
    (p.w + m ≤ 32 → p.act h ≠ p.amask → Claims.Traps (.wgrow h amt) s .branchNonuniform (p.act h)) ∧
    (8 + m ≤ p.w → p.act h ≠ p.amask → Claims.Traps (.wshrink h amt) s .branchNonuniform (p.act h)) ∧
    (p.w + m ≤ 32 → p.act h = p.amask →
      (Claims.Room s s.cur p.depth (p.w + m) id → ∃ q, Claims.Resized (Claims.granted p) (p.w + m) p.w (p.w + m) q ∧
        exec (.wgrow h amt) s = .next (s.setPart s.cur (q.retire h s.cyc (p.pc + 1)))) ∧
      (∀ s1, s.growTo s.cur p.depth (p.w + m) 0 id = .met s1 → (s1.part s.cur).live = true → (s1.part s.cur).w = p.w →
        ∃ q, Claims.Resized (s1.part s.cur) (p.w + m) p.w (p.w + m) q ∧
          exec (.wgrow h amt) s = .next ((Eff.done (s1.setPart s.cur q)).close h s.cur)) ∧
      (∀ s1, s.growTo s.cur p.depth (p.w + m) 0 id = .held s1 → exec (.wgrow h amt) s = .next s1)) ∧
    (8 + m ≤ p.w → p.act h = p.amask → ∃ q, Claims.Resized p (p.w - m) (p.w - m) p.w q ∧
      exec (.wshrink h amt) s = .next ((Eff.done (s.setPart s.cur q)).close h s.cur))

end
namespace Sys2Proof.Claims

open Sys2Proof.Machine

/-- The issuing part begins a memory instruction here: nothing of an earlier issue is latched (R258, R446). -/
structure Begins (s : State) : Prop where
  whole : s.current.umask = 0
  idle : s.current.mi = MemOp.idle
  unsampled : s.current.sample = none

/-- Nothing holds a memory instruction back: no pending result holds it, its release condition is met when it has one,
RESTARTABLE is clear when it clears it, no posted request of the part to this home is still in flight, and the home follows no
order log (R66, R260, R354, R415). -/
structure Unhindered (s : State) (rel clears : Bool) : Prop where
  loose : s.current.held = false
  release : rel = true → s.current.pend = [] ∧ s.outstanding s.cur = [] ∧
    s.current.rmHold ≤ (s.tickAt s.current.unit).toNat
  clear : clears = true → s.current.restartable = false
  ahead : s.postedAhead s.cur s.current.unit = false
  free : s.following s.current.prt s.current.unit = []

/-- The first three of these: what a memory instruction waits for before it looks at its lanes. -/
structure Untied (s : State) (rel clears : Bool) : Prop where
  loose : s.current.held = false
  release : rel = true → s.current.pend = [] ∧ s.outstanding s.cur = [] ∧
    s.current.rmHold ≤ (s.tickAt s.current.unit).toNat
  clear : clears = true → s.current.restartable = false

/-- `i`, none of whose acting lanes `m` has an address that is a multiple of `w`, takes the precise trap MISALIGNED with those lanes
in TLM and their addresses in TVA; no register, no other part, no byte of memory, no team and nothing in the fabric has changed
before it (R258, R340). -/
def TrapsMisaligned (i : Instr) (s : State) (w : Nat) (m : Mask) (addr : Nat → DWord) : Prop :=
  (∀ l, l < 16 → m.getLsbD l = true → (addr l).toNat % w ≠ 0) →
  ∃ u : State, exec i s = .next (u.trapAt s.cur .misaligned m ((lanesOf m).map (fun l => (l, addr l)))) ∧
    u.mem = s.mem ∧ u.teams = s.teams ∧ u.fab = s.fab ∧ (∀ k, k ≠ s.cur → u.part k = s.part k) ∧
    (u.part s.cur).pc = s.current.pc ∧ (u.part s.cur).vregs = s.current.vregs ∧ (u.part s.cur).sregs = s.current.sregs ∧
    (u.part s.cur).preds = s.current.preds ∧ (u.part s.cur).pend = s.current.pend

/-- Every acting lane passes the checks of R32 for an access of kind `k` and `w` bytes at its address: lane `l` reaches SPA
`spa l` under key slot `slot l`, which is live, at this home. -/
structure Resolved (s : State) (k : AKind) (w : Nat) (act : Mask) (addr : Nat → DWord) (spa slot : Nat → Nat) : Prop where
  passes : ∀ l, l < 16 → act.getLsbD l = true →
    s.checkLane s.cur s.current ⟨k, false⟩ w (addr l).toNat = .ok (spa l) (slot l)
  here : ∀ l, l < 16 → act.getLsbD l = true → spaUnit (spa l) = s.current.unit
  live : ∀ l, l < 16 → act.getLsbD l = true → s.keyAt (spa l) s.current.prt (slot l) ≠ 0

/-- The 32 bytes that each acting lane reads have no uncorrectable error (R259). -/
def Sound (s : State) (act : Mask) (spa : Nat → Nat) : Prop :=
  ∀ l, l < 16 → act.getLsbD l = true → Store.get false s.ecc (spa l / 32) = false

/-- Every acting lane's scratchpad offset is aligned, in the team's allocation, and outside stationary macros;
the part is at its base stack (R20, R22). -/
structure PadResolved (s : State) (w : Nat) (act : Mask) (off : Nat → DWord) : Prop where
  home : s.current.unit = s.current.base
  aligned : ∀ l, l < 16 → act.getLsbD l = true → (off l).toNat % w = 0
  inside : ∀ l, l < 16 → act.getLsbD l = true → 0 ≤ (off l).toInt ∧
    (off l).toNat + w ≤ (s.team s.current.team).mcount * 65536
  dense : ∀ l, l < 16 → act.getLsbD l = true → (s.team s.current.team).stationary ((off l).toNat / 65536) = false

/-- No scratchpad byte that an acting lane reads has an uncorrectable error (R259). -/
def PadSound (s : State) (act : Mask) (off : Nat → DWord) : Prop :=
  ∀ l, l < 16 → act.getLsbD l = true → s.padErr s.current.team (off l).toNat = false

/-- The next state of a memory instruction that has performed every lane: the part goes on at PC + 1 with the pending
results `new` added and its registers as they were; no other part but for a report that its wait is over, and no team,
changes. -/
structure Performed (s t : State) (h : Hdr) (dsts : List (Opnd × Bool)) (new : List Pend) : Prop where
  retires : Retires s.current s.cyc h (s.current.pc + 1) (t.part s.cur)
  vregs : (t.part s.cur).vregs = s.current.vregs
  sregs : (t.part s.cur).sregs = s.current.sregs
  preds : (t.part s.cur).preds = s.current.preds
  fpstat : (t.part s.cur).fpstat = s.current.fpstat
  dead : Revived s.current (t.part s.cur) dsts
  pend : (t.part s.cur).pend = s.current.pend ++ new
  others : ∀ k, k ≠ s.cur → t.part k = { s.part k with st := (t.part k).st }
  teams : t.teams = s.teams

/-- No two keys meet in the data unit of byte `b`: every acting lane that reaches the unit does so under one key, the unit's
own if it has been written under a key (R390). -/
def OneKey (s : State) (act : Mask) (spa slot : Nat → Nat) (b : Nat) : Prop :=
  ∃ key, ∀ l, l < 16 → act.getLsbD l = true → spa l / 64 = b / 64 →
    s.keyAt (spa l) s.current.prt (slot l) = key ∧ (s.tagAt b = 0 ∨ s.tagAt b = key)

/-- The highest acting lane whose `w` bytes at `at'` cover byte `b`: lanes are performed in ascending order (R111). -/
def covers (act : Mask) (place : Nat → Nat) (w b : Nat) : Option Nat :=
  (lanesOf act).reverse.find? (fun l => decide (place l ≤ b) && decide (b < place l + w))

/-- What byte `b` holds after acting lanes have stored `w` bytes of `val` each at `place`: the last lane's byte, or what it
held (R110, R111). -/
def storedByte (act : Mask) (place : Nat → Nat) (w : Nat) (val : Nat → Nat) (old : Byte) (b : Nat) : Byte :=
  match covers act place w b with
  | some l => BitVec.ofNat 8 (val l / 2 ^ (8 * (b - place l)))
  | none => old

/-- The value a location holds before lane `l`'s turn: from `x`, through each lower acting lane at the same place
(R111, R266). -/
def before (act : Mask) (place : Nat → Nat) (w : Nat) (f : Nat → Nat → Nat) (x l : Nat) : Nat :=
  ((lanesOf act).filter (fun j => decide (j < l) && decide (place j = place l))).foldl
    (fun y j => f j y % 2 ^ (8 * w)) x

/-- Locations of acting lanes are the same or do not overlap, as aligned ones are (R258). -/
def Apart (act : Mask) (place : Nat → Nat) (w : Nat) : Prop :=
  ∀ l j, l < 16 → j < 16 → act.getLsbD l = true → act.getLsbD j = true →
    place l = place j ∨ place l + w ≤ place j ∨ place j + w ≤ place l

/-- Operand B of an atomic operation (R171, R266). -/
def operand (p : Part) (m : AMod) (b : Opnd) (l : Nat) : Nat :=
  match m.op with
  | .fadd => p.valF 0 .f32 b l
  | .fmin => p.valF 0 .f32 b l
  | .fmax => p.valF 0 .f32 b l
  | _ => p.val 0 m.w64 b l

/-- An atomic of each acting lane at `place`, lanes in ascending order: `f l` gives the new value from the old one.  Lane
`l` gets the old value in the pending result `e`, and the last lane's new value is in memory (R111, R266). -/
structure Atomic (act : Mask) (place : Nat → Nat) (w : Nat) (x : Nat → Nat) (f : Nat → Nat → Nat) (val : Nat → Nat)
    (now : Nat → Nat) : Prop where
  old : ∀ l, l < 16 → act.getLsbD l = true → val l = before act place w f (x l) l
  new : ∀ l, l < 16 → act.getLsbD l = true → (∀ j, l < j → j < 16 → act.getLsbD j = true → place j ≠ place l) →
    now l = f l (val l) % 2 ^ (8 * w)

/-- A posted element of lane `l` is in flight to its home with the given operation and value (R65). -/
def InFlight (s t : State) (l : Nat) (kind : PKind) (spa slot w : Nat) (aop : Option AMod) (x : DWord) : Prop :=
  ∃ k r e, s.ids ≤ k ∧ t.preq k = some r ∧ r.pid = s.cur ∧ r.home = spaUnit spa ∧ r.kind = kind ∧ r.phase = .flight ∧
    r.pc = s.current.pc ∧ e ∈ r.elems ∧ e.spa = spa ∧ (aop = none → e.slot = slot) ∧ e.w = w ∧ e.aop = aop ∧ (l, x) ∈ e.vals

/-- The part departs for unit `u` with PC at the next instruction, carrying the registers `m` (R51, R446). -/
structure Departs (p : Part) (cyc lsi u : Nat) (m : BitVec 32) (q : Part) : Prop where
  same : q = { p with
    st := .departing 0
    dest := .unit u
    lsi := lsi
    carry := m
    pc := p.pc + 1
    umask := 0
    mi := MemOp.idle
    restrict := none
    flushed := false
    ask := 0
    shed := 0
    issues := p.issues + 1
    lastIssue := cyc
    bpPass := none }

/-- An instruction that completes later has been issued: the part goes on at PC + 1 with `e` pending besides, and its
registers, every other part, memory and every team are as they were (R145). -/
structure Pends (s t : State) (h : Hdr) (e : Pend) : Prop where
  retires : Retires s.current s.cyc h (s.current.pc + 1) (t.part s.cur)
  vregs : (t.part s.cur).vregs = s.current.vregs
  sregs : (t.part s.cur).sregs = s.current.sregs
  preds : (t.part s.cur).preds = s.current.preds
  fpstat : (t.part s.cur).fpstat = s.current.fpstat
  dead : (t.part s.cur).dead = s.current.dead
  pend : (t.part s.cur).pend = s.current.pend ++ [e]
  others : ∀ k, k ≠ s.cur → t.part k = s.part k
  mem : t.mem = s.mem
  teams : t.teams = s.teams

/-- FLUSH is on its way to every home that owes part `pid` an acknowledgement (R68). -/
def Flushes (s t : State) (pid : Nat) : Prop :=
  ∀ u ∈ s.outHomes pid, ∃ k, t.msg k = some (.flushMsg pid (s.part pid).unit (s.part pid).core u)

/-- The release condition of a pending result of part `pid` issued under number `id`, with `before` pending ahead of it: no
earlier result is pending, no posted request issued before it is outstanding, and every resent remote request has outlived
its lifetime (R260, R377). -/
def Releasable (s : State) (pid id : Nat) (before : List Pend) : Prop :=
  before = [] ∧ (∀ r ∈ s.outstanding pid, id ≤ r.1) ∧ (s.part pid).rmHold ≤ (s.tickAt (s.part pid).unit).toNat

/-- What may differ after a pass point in place, or after the departure: the part, its lookups and the order of the entries of
L1 TLBs. -/
def OnlyPart (s t : State) : Prop :=
  (∀ k, k ≠ s.cur → t.part k = s.part k) ∧ t.mem = s.mem ∧ t.teams = s.teams ∧ t.fab = s.fab ∧ t.mg = s.mg

/-- The number of bytes of a width. -/
def bytes (w : Width) : Nat := bitsW w / 8

end Sys2Proof.Claims

section

open Sys2Proof

open Sys2Proof.Machine

/-- `ld` whose lanes all resolve at this home, and `lds` at the base stack whose offsets are good, complete: the result is
pending, each lane's the little-endian value at its address or offset extended to the destination, and no byte of memory
changes (R20, R22, R110, R187, R258, R262).  The disjunct `tagAt = 0`, that a data unit never written under a key reads as its plain
bytes, is the model's choice (log 8).

Completes: `ld`, `lds`. -/
def Obligations.LoadResults : Prop :=
  (∀ (h : Hdr) (m : Acc) (d a : Opnd) (disp : Word) (s : State) (spa slot : Nat → Nat),
    (Instr.ld h m d a disp).wf = true →
    let p := s.current
    let act := p.act h
    let w64 := m.t.w == .w64
    Issues s h [(a, true)] [(d, w64)] false → Claims.Begins s →
    Claims.Unhindered s (m.ord == .ar || m.ord == .sc) false →
    Claims.Resolved s .load (Claims.bytes m.t.w) act (fun l => BitVec.ofNat 64 (p.val 0 true a l) + disp.signExtend 64) spa slot →
    Claims.Sound s act spa →
    ∃ t e val, exec (.ld h m d a disp) s = .next t ∧ Claims.Performed s t h [(d, w64)] [e] ∧ t.mem = s.mem ∧
      Holds p e act d w64 val ∧ e.flags = 0 ∧
      ∀ l, l < 16 → act.getLsbD l = true →
        (∀ i, i < Claims.bytes m.t.w → s.tagAt (spa l + i) = 0 ∨ s.tagAt (spa l + i) = s.keyAt (spa l) p.prt (slot l)) →
        val (if d.isS then 0 else l) =
          Claims.narrowed m.t false (Claims.int (bitsW m.t.w) m.t.sg (s.peek (spa l) (Claims.bytes m.t.w)))) ∧
  (∀ (h : Hdr) (m : Acc) (d a : Opnd) (disp : Word) (s : State), (Instr.lds h m d a disp).wf = true →
    let p := s.current
    let act := p.act h
    let w64 := m.t.w == .w64
    let off := fun l => BitVec.ofNat 64 (p.val 0 false a l) + disp.signExtend 64
    Issues s h [(a, false)] [(d, w64)] false → Claims.Begins s →
    Claims.Unhindered s (m.ord == .ar || m.ord == .sc) false → Claims.PadResolved s (Claims.bytes m.t.w) act off → Claims.PadSound s act off →
    ∃ t e val, exec (.lds h m d a disp) s = .next t ∧ Claims.Performed s t h [(d, w64)] [e] ∧ t.mem = s.mem ∧
      Holds p e act d w64 val ∧ e.flags = 0 ∧
      ∀ l, l < 16 → act.getLsbD l = true → val (if d.isS then 0 else l) =
        Claims.narrowed m.t false (Claims.int (bitsW m.t.w) m.t.sg (s.padPeek p.team (off l).toNat (Claims.bytes m.t.w))))

/-- `st` whose lanes all resolve at this home, and `sts` at the base stack whose offsets are good, complete: each byte of
memory holds the byte of the last acting lane that covers it, and every other byte is as it was (R21, R22, R110, R111, R258,
R263).  That a store into a data unit never written under a key leaves the plain bytes beside it, the disjunct `tagAt = 0` of
`OneKey`, is the model's choice (log 8).

Completes: `st`, `sts`. -/
def Obligations.StoreResults : Prop :=
  (∀ (h : Hdr) (m : Acc) (a b : Opnd) (disp : Word) (s : State) (spa slot : Nat → Nat),
    (Instr.st h m a b disp).wf = true →
    let p := s.current
    let act := p.act h
    let w64 := m.t.w == .w64
    let rel := m.ord == .rel || m.ord == .sc
    Issues s h [(a, true), (b, w64)] [] false → Claims.Begins s → Claims.Unhindered s rel rel →
    Claims.Resolved s .store (Claims.bytes m.t.w) act (fun l => BitVec.ofNat 64 (p.val 0 true a l) + disp.signExtend 64) spa slot →
    ∃ t, exec (.st h m a b disp) s = .next t ∧ Claims.Performed s t h [] [] ∧
      ∀ x, Claims.OneKey s act spa slot x →
        t.byte x = Claims.storedByte act spa (Claims.bytes m.t.w) (p.val 0 w64 b) (s.byte x) x) ∧
  (∀ (h : Hdr) (m : Acc) (a b : Opnd) (disp : Word) (s : State), (Instr.sts h m a b disp).wf = true →
    let p := s.current
    let act := p.act h
    let w64 := m.t.w == .w64
    let rel := m.ord == .rel || m.ord == .sc
    let off := fun l => BitVec.ofNat 64 (p.val 0 false a l) + disp.signExtend 64
    Issues s h [(a, false), (b, w64)] [] false → Claims.Begins s → Claims.Unhindered s rel rel →
    Claims.PadResolved s (Claims.bytes m.t.w) act off →
    ∃ t, exec (.sts h m a b disp) s = .next t ∧ Claims.Performed s t h [] [] ∧
      ∀ x, t.byte x = Claims.storedByte act (fun l => s.padSpa p.team (off l).toNat) (Claims.bytes m.t.w)
        (p.val 0 w64 b) (s.byte x) x)

/-- `atm`, `cas` and `ats` whose lanes all resolve complete: lanes act in ascending order, each gets the value before its
own update, and the location holds the last update; every byte outside the lanes' locations is as it was (R111, R265 to
R267).  That an atomic finds plain bytes in a data unit never written under a key, the disjunct `tagAt = 0` of `OneKey`, is the
model's choice (log 8).

Completes: `atm`, `cas`, `ats`. -/
def Obligations.AtomicResults : Prop :=
  ∀ (h : Hdr) (d a b : Opnd) (disp : Word) (s : State) (spa slot : Nat → Nat),
    let p := s.current
    let act := p.act h
    let own := fun w => ∀ l i, l < 16 → act.getLsbD l = true → i < w → Claims.OneKey s act spa slot (spa l + i)
    (∀ m : AMod, (Instr.atm h m d a b disp).wf = true →
      let w := if m.w64 then 8 else 4
      Issues s h [(a, true), (b, m.w64)] [(d, m.w64)] false → Claims.Begins s →
      Claims.Unhindered s (m.ord == .rel || m.ord == .ar || m.ord == .sc) true →
      Claims.Resolved s .atomic w act (fun l => BitVec.ofNat 64 (p.val 0 true a l) + disp.signExtend 64) spa slot →
      Claims.Sound s act spa → Claims.Apart act spa w → own w →
      ∃ t e val, exec (.atm h m d a b disp) s = .next t ∧ Claims.Performed s t h [(d, m.w64)] [e] ∧
        Holds p e act d m.w64 val ∧
        Claims.Atomic act spa w (fun l => s.peek (spa l) w) (fun l x => atomicNew m x (Claims.operand p m b l)) val
          (fun l => t.peek (spa l) w) ∧
        ∀ x, Claims.covers act spa w x = none → Claims.OneKey s act spa slot x → t.byte x = s.byte x) ∧
    (∀ m : Acc, (Instr.cas h m d a b disp).wf = true →
      let w := Claims.bytes m.t.w
      let w64 := m.t.w == .w64
      Issues s h [(a, true), (b, w64), (d, w64)] [(d, w64)] false → Claims.Begins s →
      Claims.Unhindered s (m.ord == .rel || m.ord == .ar || m.ord == .sc) true →
      Claims.Resolved s .atomic w act (fun l => BitVec.ofNat 64 (p.val 0 true a l) + disp.signExtend 64) spa slot →
      Claims.Sound s act spa → Claims.Apart act spa w → own w →
      ∃ t e val, exec (.cas h m d a b disp) s = .next t ∧ Claims.Performed s t h [(d, w64)] [e] ∧
        Holds p e act d w64 val ∧
        Claims.Atomic act spa w (fun l => s.peek (spa l) w)
          (fun l x => if x = p.val 0 w64 d l then p.val 0 w64 b l else x) val (fun l => t.peek (spa l) w) ∧
        ∀ x, Claims.covers act spa w x = none → Claims.OneKey s act spa slot x → t.byte x = s.byte x) ∧
    (∀ m : AMod, (Instr.ats h m d a b disp).wf = true →
      let w := if m.w64 then 8 else 4
      let off := fun l => BitVec.ofNat 64 (p.val 0 false a l) + disp.signExtend 64
      let at' := fun l => s.padSpa p.team (off l).toNat
      Issues s h [(a, false), (b, m.w64)] [(d, m.w64)] false → Claims.Begins s →
      Claims.Unhindered s (m.ord == .rel || m.ord == .ar || m.ord == .sc) true → Claims.PadResolved s w act off →
      Claims.PadSound s act off → Claims.Apart act at' w →
      ∃ t e val, exec (.ats h m d a b disp) s = .next t ∧ Claims.Performed s t h [(d, m.w64)] [e] ∧
        Holds p e act d m.w64 val ∧
        Claims.Atomic act at' w (fun l => s.padPeek p.team (off l).toNat w)
          (fun l x => atomicNew m x (Claims.operand p m b l)) val (fun l => t.padPeek p.team (off l).toNat w) ∧
        ∀ x, Claims.covers act at' w x = none → t.byte x = s.byte x)

/-- `stp` and `atp` whose lanes all pass the checks complete at once: each lane's element is in flight to its home, and no
byte of memory changes yet (R65, R264, R266).

Completes: `stp`, `atp`. -/
def Obligations.PostedResults : Prop :=
  ∀ (h : Hdr) (a b : Opnd) (disp : Word) (s : State) (spa slot : Nat → Nat) (hs : List Nat),
    let p := s.current
    let act := p.act h
    let addr := fun l => BitVec.ofNat 64 (p.val 0 true a l) + disp.signExtend 64
    p.held = false → hs.length ≤ 16 → (∀ x ∈ s.outHomes s.cur, x ∈ hs) → (∀ l, l < 16 → act.getLsbD l = true → spaUnit (spa l) ∈ hs) →
    Claims.Begins s →
    (∀ w : Width, (Instr.stp h w a b disp).wf = true → Issues s h [(a, true), (b, w == .w64)] [] false →
      (∀ l, l < 16 → act.getLsbD l = true →
        s.checkLane s.cur p ⟨.posted, false⟩ (Claims.bytes w) (addr l).toNat = .ok (spa l) (slot l)) →
      ∃ t, exec (.stp h w a b disp) s = .next t ∧ Claims.Performed s t h [] [] ∧ t.mem = s.mem ∧
        ∀ l, l < 16 → act.getLsbD l = true → Claims.InFlight s t l .stp (spa l) (slot l) (Claims.bytes w) none
          (BitVec.ofNat 64 (p.val 0 (w == .w64) b l))) ∧
    (∀ m : AMod, (Instr.atp h m a b disp).wf = true → Issues s h [(a, true), (b, m.w64)] [] false →
      p.restartable = false →
      (∀ l, l < 16 → act.getLsbD l = true →
        s.checkLane s.cur p ⟨.posted, true⟩ (if m.w64 then 8 else 4) (addr l).toNat = .ok (spa l) (slot l)) →
      ∃ t, exec (.atp h m a b disp) s = .next t ∧ Claims.Performed s t h [] [] ∧ t.mem = s.mem ∧
        ∀ l, l < 16 → act.getLsbD l = true → Claims.InFlight s t l .atp (spa l) (slot l) (if m.w64 then 8 else 4) (some m)
          (BitVec.ofNat 64 (Claims.operand p m b l)))

/-- Every load, store and atomic of global memory and of a scratchpad, every posted one, and every remote read and write, all of
whose acting lanes are misaligned, traps with MISALIGNED: TLM holds those lanes, TVA their addresses, and nothing has changed
before the trap is entered (R258, R262 to R267, R271, R272, R340). -/
def Obligations.MisalignedTraps : Prop :=
  ∀ (h : Hdr) (d a b : Opnd) (disp : Word) (s : State), Claims.Begins s →
    let p := s.current
    let act := p.act h
    let va := fun l => BitVec.ofNat 64 (p.val 0 true a l) + disp.signExtend 64
    let off := fun l => BitVec.ofNat 64 (p.val 0 false a l) + disp.signExtend 64
    (∀ m : Acc,
      let w := Claims.bytes m.t.w
      let w64 := m.t.w == .w64
      let rel := m.ord == .rel || m.ord == .sc
      let order := m.ord == .rel || m.ord == .ar || m.ord == .sc
      let both := m.ord == .ar || m.ord == .sc
      ((Instr.ld h m d a disp).wf = true → Issues s h [(a, true)] [(d, w64)] false → Claims.Untied s both false →
        Claims.TrapsMisaligned (.ld h m d a disp) s w act va) ∧
      ((Instr.lds h m d a disp).wf = true → Issues s h [(a, false)] [(d, w64)] false → Claims.Untied s both false →
        Claims.TrapsMisaligned (.lds h m d a disp) s w act off) ∧
      ((Instr.st h m a b disp).wf = true → Issues s h [(a, true), (b, w64)] [] false → Claims.Untied s rel rel →
        Claims.TrapsMisaligned (.st h m a b disp) s w act va) ∧
      ((Instr.sts h m a b disp).wf = true → Issues s h [(a, false), (b, w64)] [] false → Claims.Untied s rel rel →
        Claims.TrapsMisaligned (.sts h m a b disp) s w act off) ∧
      ((Instr.cas h m d a b disp).wf = true → Issues s h [(a, true), (b, w64), (d, w64)] [(d, w64)] false →
        Claims.Untied s order true → Claims.TrapsMisaligned (.cas h m d a b disp) s w act va)) ∧
    (∀ m : AMod,
      let w := if m.w64 then 8 else 4
      let order := m.ord == .rel || m.ord == .ar || m.ord == .sc
      ((Instr.atm h m d a b disp).wf = true → Issues s h [(a, true), (b, m.w64)] [(d, m.w64)] false →
        Claims.Untied s order true → Claims.TrapsMisaligned (.atm h m d a b disp) s w act va) ∧
      ((Instr.ats h m d a b disp).wf = true → Issues s h [(a, false), (b, m.w64)] [(d, m.w64)] false →
        Claims.Untied s order true → Claims.TrapsMisaligned (.ats h m d a b disp) s w act off) ∧
      ((Instr.atp h m a b disp).wf = true → Issues s h [(a, true), (b, m.w64)] [] false → Claims.Untied s false true →
        (s.outHomes s.cur).length ≤ 16 → Claims.TrapsMisaligned (.atp h m a b disp) s w act va)) ∧
    (∀ w : Width,
      ((Instr.stp h w a b disp).wf = true → Issues s h [(a, true), (b, w == .w64)] [] false → Claims.Untied s false false →
        (s.outHomes s.cur).length ≤ 16 → Claims.TrapsMisaligned (.stp h w a b disp) s (Claims.bytes w) act va) ∧
      ((Instr.rwr h w a b disp).wf = true → Issues s h [(a, true), (b, w == .w64)] [] false → Claims.Untied s false false →
        Claims.TrapsMisaligned (.rwr h w a b disp) s (Claims.bytes w) act va)) ∧
    ∀ t : IType, (Instr.rrd h t d a disp).wf = true → Issues s h [(a, true)] [(d, t.w == .w64)] true →
      Claims.Untied s false false → Claims.TrapsMisaligned (.rrd h t d a disp) s (Claims.bytes t.w) act va

/-- `fence` completes at once and stands pending, FLUSH sent to the homes when it has a release part; it holds later
instructions of classes 0x7 to 0xA until it lands, which is when every earlier result has landed and, with a release part, every
request posted before it is acknowledged; an `icinv` waits for the same.  `drain` completes when no posted request of the part
is outstanding and no deferral is on its way, and otherwise sends FLUSH once and waits (R68, R145, R260, R268, R269, R319,
R347, R377).  That `drain` waits at its own PC, so that no later instruction of the part issues meanwhile, is the model's choice (log 2).

Completes: `fence`, `drain`. -/
def Obligations.FenceResults : Prop :=
  (∀ (h : Hdr) (s : State), Issues s h [] [] false →
    let p := s.current
    let waits := (s.flushAll s.cur p).setPart s.cur { p with flushed := true }
    (∀ o c x y, p.held = false → ∃ t, exec (.fence h o c x y) s = .next t ∧
      (o = .rel ∨ o = .ar ∨ o = .sc → Claims.Pends s t h ⟨s.ids, [], [], 0, [], true, .release⟩ ∧ Claims.Flushes s t s.cur) ∧
      (o = .rlx ∨ o = .acq → Claims.Pends s t h ⟨s.ids, [], [], 0, [], true, .reads⟩)) ∧
    (p.held = true → ∀ o c x y, exec (.fence h o c x y) s = .next s ∧ exec (.drain h) s = .next s) ∧
    (p.held = false → s.outstanding s.cur = [] → s.deferComing s.cur = false →
      p.rmHold ≤ (s.tickAt p.unit).toNat → Claims.GoesTo (.drain h) h s (p.pc + 1)) ∧
    (p.held = false → s.outstanding s.cur ≠ [] → p.flushed = false → exec (.drain h) s = .next waits)) ∧
  (∀ (s : State) (pid k : Nat) (e : Pend), (s.part pid).pend[k]? = some e → s.msg e.id = none →
    e.vals = [] → e.svals = [] →
    (Claims.Releasable s pid e.id ((s.part pid).pend.take k) → e.cond = .release ∨ (∃ r, e.cond = .icinv r) →
      ∃ t, exec (.resultLand pid k) s = .next t ∧ (t.part pid).pend = (s.part pid).pend.eraseIdx k ∧ t.mem = s.mem) ∧
    (¬ Claims.Releasable s pid e.id ((s.part pid).pend.take k) → e.cond = .release ∨ (∃ r, e.cond = .icinv r) →
      exec (.resultLand pid k) s = .next s) ∧
    (e.cond = .reads → (∀ d ∈ (s.part pid).pend.take k, d.vals = [] ∧ d.svals = []) →
      ∃ t, exec (.resultLand pid k) s = .next t ∧ (t.part pid).pend = (s.part pid).pend.eraseIdx k ∧ t.mem = s.mem))

/-- `pass` is a switch point: it completes at once where the part already is at the home it names, and otherwise departs for
it with PC at the next instruction and the registers of its live set (R49, R51, R145, R270, R446).

Completes: `pass`. -/
def Obligations.PassResults : Prop :=
  ∀ (h : Hdr) (s : State), Claims.Begins s →
    let p := s.current
    let l := (lanesOf (p.act h)).headD 0
    let va := fun (o : Opnd) (disp : Word) => BitVec.ofNat 64 (p.val 0 true o l) + disp.signExtend 64
    (∀ disp, Issues s h [] [] true → p.base = p.unit → Claims.GoesTo (.pass h none disp) h s (p.pc + 1)) ∧
    (∀ disp m, Issues s h [] [] true → p.base ≠ p.unit → s.liveMask s.cur h.lsi.val = .inl m →
      ∃ t, exec (.pass h none disp) s = .next t ∧ Claims.Departs p s.cyc h.lsi.val p.base m (t.part s.cur) ∧ Claims.OnlyPart s t) ∧
    (∀ o disp x k, Issues s h [(o, true)] [] true →
      s.checkLane s.cur p ⟨.pass, false⟩ 1 (va o disp).toNat = .ok x k → spaUnit x = p.unit →
      ∃ t, exec (.pass h (some o) disp) s = .next t ∧ Claims.Moves p s.cyc h (p.pc + 1) (t.part s.cur) ∧
        Claims.OnlyPart s t) ∧
    (∀ o disp x k m, Issues s h [(o, true)] [] true →
      s.checkLane s.cur p ⟨.pass, false⟩ 1 (va o disp).toNat = .ok x k → spaUnit x ≠ p.unit →
      ((((s.mapPart s.cur (fun p => { p with
        mi := ⟨true, [(l, va o disp)], [], [], false⟩
        umask := BitVec.ofNat 16 (2 ^ l) })).clearXlats (.part s.cur)).touchLanes p [(l, (va o disp).toNat)]).liveMask s.cur
          h.lsi.val = .inl m) →
      ∃ t, exec (.pass h (some o) disp) s = .next t ∧ Claims.Departs p s.cyc h.lsi.val (spaUnit x) m (t.part s.cur) ∧
        Claims.OnlyPart s t)

end
namespace Sys2Proof.Claims

open Sys2Proof.Machine

/-- What `srd` reads of each special register: its value for lane `l`, element `e` (R308, R309). -/
def special (s : State) (p : Part) (r : SReg) (w64 : Bool) (e l : Nat) : Nat :=
  let team := s.team p.team
  let mine := team.recs.filter (fun r => r.sq == p.sq)
  match r with
  | .laneid => l
  | .sqid => p.sq
  | .teamid =>
    let nx := fieldOf (s.launchOf p).packet 8 2
    let ny := fieldOf (s.launchOf p).packet 10 2
    (p.tx.toNat + nx * p.ty.toNat + nx * ny * p.tz.toNat) % 2 ^ 32
  | .teamx => p.tx.toNat
  | .teamy => p.ty.toNat
  | .teamz => p.tz.toNat
  | .launchid => p.launch.toNat
  | .stackid => s.stackId p.unit p.prt
  | .partid => if p.world then p.prt + 8 else p.prt
  | .amask => p.amask.toNat
  | .gang => p.gang.toNat
  | .ticklo => if w64 then (s.tickAt p.unit).toNat else ((s.tickAt p.unit).extractLsb' 0 32).toNat
  | .tickhi => ((s.tickAt p.unit).extractLsb' 32 32).toNat
  | .fpstat => p.fpstat.toNat
  | .fpctl => p.fpctl.toNat
  | .tcause => p.tcause
  | .tpc => p.tpc.toNat
  | .tlm => p.tlm.toNat
  | .tva => if e < 16 then (Store.get 0 p.tva e).toNat else 0
  | .sfqhead => ((mine.head?).map (fun r => r.slot)).getD 0xFFFFFFFF
  | .sfqcount => mine.length
  | .mstat => if e < 8 then (Store.get 0 p.mstat e).toNat else 0

/-- The element a special-register operand names: the constant, or lane 0's value of the uniform register (R309). -/
def element (p : Part) : Option Opnd → Nat
  | none => 0
  | some o => p.val 0 false o 0

/-- Words 1 to 4 of the status word read as zero, every other word as before (R296). -/
def Cleared (m n : Store Word) : Prop :=
  ∀ e, Store.get 0 n e = if 1 ≤ e ∧ e ≤ 4 then 0 else Store.get 0 m e

/-- Part `p` takes cause code `c` where it stands: it is in no handler, its launch has a trap vector and enables the
cause (R341). -/
structure Enabled (s : State) (p : Part) (c : Nat) : Prop where
  outside : p.h = false
  vector : fieldOf (s.launchOf p).header 36 4 ≠ 0xFFFFFFFF
  enabled : (fieldOf (s.launchOf p).header 40 4).testBit c = true

/-- The part `p` at the entry of its handler (R341): cause, saved PC, lanes and addresses; the window slides by 8, its new
top registers hold zero; groups below the window may have been spilled. -/
structure Entered (p : Part) (c vec : Nat) (tpc : Word) (tlm : Mask) (tva : Nat → DWord) (q : Part) : Prop where
  same : q = { p with
    vregs := q.vregs
    resLo := q.resLo
    fetching := 0
    ask := 0
    trapq := none
    dead := p.dead >>> 8
    depth := p.depth + 2
    tcause := c
    tpc := tpc
    tlm := tlm
    tva := q.tva
    h := true
    pc := BitVec.ofNat 32 vec
    umask := 0
    mi := MemOp.idle
    restrict := none
    st := .ready
    flushed := false
    shed := 0
    bpPass := none
    step := none
    sample := none }
  addrs : ∀ l, l < 16 → Store.get 0 q.tva l = tva l
  words : ∀ r l, l < 16 → 4 * (p.depth + 2) ≤ r → q.word r l =
    if 4 * p.depth + p.w ≤ r ∧ r < 4 * p.depth + p.w + 8 then 0 else p.word r l

/-- `t` is `s` once part `pid` stands at the entry of its handler: other parts may have spilled registers below their windows,
and memory and teams are as they were (R157, R341). -/
structure Handles (s t : State) (pid c : Nat) (tpc : Word) (tlm : Mask) (tva : Nat → DWord) : Prop where
  self : Entered (s.part pid) c (fieldOf (s.launchOf (s.part pid)).header 36 4) tpc tlm tva (t.part pid)
  others : ∀ k, k ≠ pid → t.part k = { s.part k with
    vregs := (t.part k).vregs
    resLo := (t.part k).resLo }
  mem : t.mem = s.mem
  teams : t.teams = s.teams

/-- `t` is `s` with part `pid` waiting for its registers to fit before it enters its handler (R156, R341). -/
structure AwaitsEntry (s1 t : State) (pid : Nat) (w : TrapWait) : Prop where
  self : t.part pid = { s1.part pid with trapq := some w }
  others : ∀ k, k ≠ pid → t.part k = s1.part k

/-- The bytes of an error record (R330). -/
def errorBytes (s : State) (l : Launch) (tm : Team) (sq kind reason cause : Nat) (pc : Word) : List Byte :=
  leBytes 8 (s.tickAt 16).toNat ++ leBytes 4 l.id.toNat ++ leBytes 4 (fieldOf l.packet 124 4) ++
    (if kind = 1 ∨ kind = 6 then leBytes 6 0 else leBytes 2 tm.tx.toNat ++ leBytes 2 tm.ty.toNat ++ leBytes 2 tm.tz.toNat) ++
    leBytes 1 sq ++ leBytes 1 kind ++ leBytes 1 reason ++ leBytes 1 cause ++ leBytes 2 0 ++ leBytes 4 pc.toNat

/-- From `s` to `t` the management core has posted an error record to the queue of a launch: the record and WRIX where the queue has
room, DROPS where it has none, and ERRLOST where the queue is absent, its CAP is unfit or an access faults (R330). -/
def ErrorPosted (s t : State) (lk : Nat) (tm : Team) (sq kind reason cause : Nat) (pc : Word) : Prop :=
  let l := s.launch lk
  let q := fieldOf l.packet 112 8
  let lost := t.mem = s.mem ∧ t.mg.errLost = s.mg.errLost + 1
  (q = 0 ∨ s.mgmtRead l.prt q 0 28 = none → lost) ∧
  ∀ ctl, q ≠ 0 → s.mgmtRead l.prt q 0 28 = some ctl →
    let wr := fieldOf ctl 0 8
    let cap := fieldOf ctl 24 4
    let sound := 1 ≤ cap ∧ cap ≤ 65536 ∧ 2 ^ Nat.log2 cap = cap
    let room := (wr + 2 ^ 64 - fieldOf ctl 8 8) % 2 ^ 64 < cap
    let dst := (q + 64 + 32 * (wr % cap)) % 2 ^ 64
    let open' := s.mgmtCanWrite l.prt dst 32 = true ∧ s.mgmtCanWrite l.prt q 8 = true
    (¬ sound → lost) ∧
    (sound → room → ¬ open' → lost) ∧
    (sound → room → open' → t.mg.errLost = s.mg.errLost ∧ t.mem =
      ((s.mgmtWrite l.prt dst (errorBytes s l tm sq kind reason cause pc)).mgmtWrite l.prt q (leBytes 8 (wr + 1))).mem) ∧
    (sound → ¬ room → s.mgmtCanWrite l.prt (q + 16) 8 = false → lost) ∧
    (sound → ¬ room → s.mgmtCanWrite l.prt (q + 16) 8 = true → t.mg.errLost = s.mg.errLost ∧
      t.mem = (s.mgmtWrite l.prt (q + 16) (leBytes 8 (fieldOf ctl 16 8 + 1))).mem)

/-- The squad of the issuing part ends: the part is gone at once, and a kill is on its way to the barrier unit (R313). -/
def Ends (i : Instr) (s : State) (sq : Nat) : Prop :=
  ∃ t k, exec i s = .next t ∧ t.part s.cur = Part.absent ∧ t.msg k = some (.kill s.current.team sq 0) ∧
    (∀ j, j ≠ s.cur → t.part j = s.part j) ∧ t.teams = s.teams

/-- The part `p` back from its handler: DEPTH falls by 2, H clears, it goes on at TPC, and after a cause that is no boundary
cause its next instruction acts on TLM only (R312). -/
structure Left (p : Part) (cyc : Nat) (q : Part) : Prop where
  same : q = { p with
    vregs := q.vregs
    dead := (p.dead <<< 8) &&& BitVec.ofNat 32 (2 ^ p.w - 1)
    depth := p.depth - 2
    h := false
    pc := p.tpc
    restrict := if p.tcause = 12 ∨ p.tcause = 16 ∨ p.tcause = 17 ∨ p.tcause = 18 then none else some p.tlm
    umask := 0
    mi := MemOp.idle
    flushed := false
    ask := 0
    shed := 0
    bpPass := none
    issues := p.issues + 1
    lastIssue := cyc }
  words : ∀ r l, l < 16 → q.word r l =
    if 4 * p.depth + (p.w - 8) ≤ r ∧ r < 4 * p.depth + p.w then 0 else p.word r l

/-- The issuing part stands BLOCKED at its instruction on a wake condition; the barrier unit or base stack reports it when
it holds already.  No byte of memory and no team changes, and other parts differ in such a report only (R143, R163). -/
structure Blocks (s t : State) (w : Wake) : Prop where
  self : ∃ b, t.part s.cur = { s.current with
    st := .blocked w b
    lastIssue := s.cyc }
  others : ∀ k, k ≠ s.cur → t.part k = { s.part k with st := (t.part k).st }
  mem : t.mem = s.mem
  teams : t.teams = s.teams

end Sys2Proof.Claims

section

open Sys2Proof

open Sys2Proof.Machine

/-- `srd` completes with the value of the special register in each lane it acts on, or once in a uniform register; while a `gang` has
not landed, each lane of GANG gives the value before it or the one after (R146, R308, R309).

Completes: `srd`. -/
def Obligations.SpecialReads : Prop :=
  ∀ (h : Hdr) (w : Bool) (d : Opnd) (r : SReg) (e : Option Opnd) (s : State), (Instr.srd h w d r e).wf = true →
    let isGang := fun (x : Pend) => match x.cond with | .gang _ => true | _ => false
    (r ≠ .gang ∨ s.current.pend.any isGang = false → Claims.CompletesShort (.srd h w d r e) s
      ⟨h, [], [(d, w)], d, w, fun p _ l => Claims.special s p r w (Claims.element p e) l, fun _ _ _ => 0⟩) ∧
    (∀ x old, r = .gang → s.current.pend.find? isGang = some x → x.cond = .gang old →
      ∃ pick : Nat → Bool, Claims.CompletesShort (.srd h w d r e) s
        ⟨h, [], [(d, w)], d, w, fun p _ l => if pick l then p.gang.toNat else old.toNat, fun _ _ _ => 0⟩)

/-- `swr` writes the defined bits of FPSTAT and FPCTL, and TPC and TLM inside a handler; outside one those two trap with
PROTECTION.  Bit 31 written to MSTAT[1] clears words 1 to 4 of the part's copy of the status word at once, and of the team's when the
message it sends arrives; every other write to MSTAT is ignored (R296, R310).

Completes: `swr`. -/
def Obligations.SpecialWrites : Prop :=
  ∀ (h : Hdr) (w : Bool) (a : Opnd) (e : Option Opnd) (c : Word) (s : State), Issues s h [] [] false →
    let p := s.current
    let x := p.val c w a 0
    (∃ q, exec (.swr h w .fpstat a e c) s = .next (s.setPart s.cur q) ∧
      Claims.Moves { p with fpstat := BitVec.ofNat 16 (x % 64) } s.cyc h (p.pc + 1) q) ∧
    (∃ q, exec (.swr h w .fpctl a e c) s = .next (s.setPart s.cur q) ∧
      Claims.Moves { p with fpctl := BitVec.ofNat 8 (x % 64) } s.cyc h (p.pc + 1) q) ∧
    (p.h = true → ∃ q, exec (.swr h w .tpc a e c) s = .next (s.setPart s.cur q) ∧
      Claims.Moves { p with tpc := BitVec.ofNat 32 x } s.cyc h (p.pc + 1) q) ∧
    (p.h = true → ∃ q, exec (.swr h w .tlm a e c) s = .next (s.setPart s.cur q) ∧
      Claims.Moves { p with tlm := BitVec.ofNat 16 x } s.cyc h (p.pc + 1) q) ∧
    (p.h = false → Claims.Traps (.swr h w .tpc a e c) s .protection (p.act h)) ∧
    (p.h = false → Claims.Traps (.swr h w .tlm a e c) s .protection (p.act h)) ∧
    (Claims.element p e = 1 → x.testBit 31 = true → ∃ t, exec (.swr h w .mstat a e c) s = .next t ∧
      t.msg s.ids = some (.clearMst s.cur p.team) ∧ Claims.OnlyPart s t ∧
      let q := t.part s.cur
      Claims.Moves { p with mstat := q.mstat } s.cyc h (p.pc + 1) q ∧ Claims.Cleared p.mstat q.mstat) ∧
    (¬ (Claims.element p e = 1 ∧ x.testBit 31 = true) → Claims.GoesTo (.swr h w .mstat a e c) h s (p.pc + 1)) ∧
    (∀ k pid tk, s.msg k = some (.clearMst pid tk) → s.arrives k = true → ∃ t, execMstatClear k s = .next t ∧
      t.msg k = none ∧ Claims.Cleared (s.team tk).mstat (t.team tk).mstat ∧ t.parts = s.parts ∧ t.mem = s.mem)

/-- `trap n` and `brkpt n` take SOFTWARE and BREAKPOINT at the boundary after themselves: TCAUSE, TPC = PC + 1, TLM = act and
TVA = n for each lane of act, DEPTH two higher, H set and the PC at the trap vector, at once where the register file has room
and else when the growth request is met; a squad whose launch does not take the cause ends; a held part stops at `brkpt`
instead (R156, R311, R341, R342, R406).

Completes: `trap`, `brkpt`. -/
def Obligations.TrapResults : Prop :=
  ∀ (h : Hdr) (n : BitVec 16) (s : State), Issues s h [] [] true → 8 ≤ s.current.w →
    let p := s.current
    let tva := fun l => if (p.act h).getLsbD l then n.setWidth 64 else 0
    let file := s.growTo s.cur (p.depth + 2) p.w 0 Part.landAll
    (Claims.Enabled s p 18 → Claims.Room s s.cur (p.depth + 2) p.w Part.landAll →
      ∃ t, exec (.trap h n) s = .next t ∧ Claims.Handles s t s.cur 18 (p.pc + 1) (p.act h) tva) ∧
    (Claims.Enabled s p 16 → s.heldPart p = false → Claims.Room s s.cur (p.depth + 2) p.w Part.landAll →
      ∃ t, exec (.brkpt h n) s = .next t ∧ Claims.Handles s t s.cur 16 (p.pc + 1) (p.act h) tva) ∧
    (∀ s1, file = .met s1 →
      (Claims.Enabled s p 18 → ∃ t, exec (.trap h n) s = .next t ∧
        Claims.Handles s t s.cur 18 (p.pc + 1) (p.act h) tva) ∧
      (Claims.Enabled s p 16 → s.heldPart p = false → ∃ t, exec (.brkpt h n) s = .next t ∧
        Claims.Handles s t s.cur 16 (p.pc + 1) (p.act h) tva)) ∧
    (∀ s1, file = .held s1 →
      (Claims.Enabled s p 18 → ∃ t w, exec (.trap h n) s = .next t ∧ Claims.AwaitsEntry s1 t s.cur w ∧
        w.cause = .software ∧ w.tpc = p.pc + 1 ∧ w.tlm = p.act h) ∧
      (Claims.Enabled s p 16 → s.heldPart p = false → ∃ t w, exec (.brkpt h n) s = .next t ∧
        Claims.AwaitsEntry s1 t s.cur w ∧ w.cause = .breakpoint ∧ w.tpc = p.pc + 1 ∧ w.tlm = p.act h)) ∧
    (¬ Claims.Enabled s p 18 → p.dying = false → Claims.Ends (.trap h n) s p.sq) ∧
    (¬ Claims.Enabled s p 16 → p.dying = false → s.heldPart p = false → Claims.Ends (.brkpt h n) s p.sq) ∧
    (s.heldPart p = true → ∃ t, exec (.brkpt h n) s = .next t ∧
      Claims.Moves { p with stop := .breakpoint } s.cyc h (p.pc + 1) (t.part s.cur) ∧ Claims.OnlyPart s t)

/-- `eret` of the whole part inside a handler, with its caller's registers resident, goes on at TPC with H clear, DEPTH two
lower, and after a precise cause only on TLM; outside a handler, below DEPTH 2 or with a guard that leaves out a lane it
traps; registers that are not resident are fetched first, once a growth request has made room (R156, R307, R312).

Completes: `eret`. -/
def Obligations.EretResults : Prop :=
  ∀ (h : Hdr) (s : State), Issues s h [] [] true →
    let p := s.current
    let file := s.growTo s.cur p.depth p.w (p.resLo - (p.depth - 2)) id
    (p.act h = p.amask → p.h = true → 2 ≤ p.depth → p.resLo ≤ p.depth - 2 →
      ∃ q, exec (.eret h) s = .next (s.setPart s.cur q) ∧ Claims.Left p s.cyc q) ∧
    (p.act h ≠ p.amask → Claims.Traps (.eret h) s .branchNonuniform (p.act h)) ∧
    (p.act h = p.amask → p.h = false ∨ p.depth < 2 → Claims.Traps (.eret h) s .protection (p.act h)) ∧
    (p.act h = p.amask → p.h = true → 2 ≤ p.depth → p.depth - 2 < p.resLo →
      (∀ s1, file = .met s1 → exec (.eret h) s = .next (s1.startFetch s.cur (p.depth - 2) (s1.part s.cur).resLo 0)) ∧
      (∀ s1, file = .held s1 → exec (.eret h) s = .next s1))

/-- `exit` tells the barrier unit which lanes ended; a part with lanes left goes on without them, and a part without lanes
is gone.  `sqkill` ends the issuing part and sends the kill of its squad to the barrier unit; `tmkill` sends the kill of the
whole team and posts an error record of kind 2; a guard that leaves out a lane traps instead (R139, R154, R224, R307, R313, R314,
R330).

Completes: `exit`, `sqkill`, `tmkill`. -/
def Obligations.EndResults : Prop :=
  (∀ (h : Hdr) (s : State), Issues s h [] [] true →
    let p := s.current
    let a := p.act h
    let t := s.post (.exitMask p.team p.sq a)
    (p.amask &&& ~~~a ≠ 0 → ∃ q, exec (.exit h) s = .next (t.setPart s.cur q) ∧
      Claims.Moves { p with amask := p.amask &&& ~~~a } s.cyc h (p.pc + 1) q) ∧
    (p.amask &&& ~~~a = 0 → exec (.exit h) s = .next (t.endPart s.cur) ∧ (t.endPart s.cur).part s.cur = Part.absent)) ∧
  (∀ (h : Hdr) (s : State), Issues s h [] [] true →
    (s.current.act h = s.current.amask → Claims.Ends (.sqkill h) s s.current.sq ∧
      Claims.Ends (.tmkill h) s 64 ∧ ∀ t, exec (.tmkill h) s = .next t →
        Claims.ErrorPosted s t (State.lkey s.current.prt s.current.launch) (s.team s.current.team) s.current.sq 2 0 0
          s.current.pc) ∧
    (s.current.act h ≠ s.current.amask → Claims.Traps (.sqkill h) s .branchNonuniform (s.current.act h) ∧
      Claims.Traps (.tmkill h) s .branchNonuniform (s.current.act h)))

/-- `relax` makes the part ineligible for n cycles, 64 when n is 0.  `sleep` of 0 and `twait` of a tick already reached
complete at once; otherwise the part blocks until tick T0 + val(A), or val(A).  `smark` writes a record to the trace buffer
where marks are traced, and changes nothing else; `icinv` completes at once and stands pending, and when it lands no line of
the partition is left in the caches of its reach (R315 to R319).

Completes: `relax`, `sleep`, `twait`, `smark`, `icinv`. -/
def Obligations.WaitingResults : Prop :=
  ∀ (h : Hdr) (s : State),
    let p := s.current
    (Issues s h [] [] false →
      (∀ n : BitVec 12, ∃ q, exec (.relax h n) s = .next (s.setPart s.cur q) ∧
        Claims.Moves { p with relaxTo := s.cycAt p.unit + (if n = 0 then 64 else n.toNat) } s.cyc h (p.pc + 1) q) ∧
      (∀ n : BitVec 16, ∃ t, exec (.smark h n) s = .next t ∧ Claims.Moves p s.cyc h (p.pc + 1) (t.part s.cur) ∧
        Claims.OnlyPart s t ∧
        let ctl := s.ureg p.unit (dbgOff p.unit 0x100)
        let ptr := s.ureg p.unit (dbgOff p.unit 0x108)
        let on := ctl.getLsbD 0 = true ∧ ctl.getLsbD 2 = true ∧ ¬ (ctl.getLsbD 1 = true ∧ ptr.getLsbD 10 = true)
        (¬ on → t.dbg = s.dbg ∧ t.uregs = s.uregs) ∧
        (on → Store.get [] t.dbg.traces (p.unit * 1024 + ptr.toNat % 1024) =
          leBytes 8 (s.tickAt p.unit).toNat ++ [0] ++ leBytes 1 (p.prt + (if p.world then 8 else 0)) ++ leBytes 1 p.sq ++
            leBytes 1 p.core ++ leBytes 4 p.launch.toNat ++ leBytes 4 p.pc.toNat ++ leBytes 2 p.tx.toNat ++
            leBytes 2 p.ty.toNat ++ leBytes 2 p.tz.toNat ++ leBytes 2 p.amask.toNat ++ leBytes 4 n.toNat)) ∧
      (∀ reach : Fin 4, ∃ t, exec (.icinv h reach) s = .next t ∧
        Claims.Pends s t h ⟨s.ids, [], [], 0, [], false, .icinv reach.val⟩ ∧ Claims.Flushes s t s.cur)) ∧
    (∀ pid k e reach, (s.part pid).pend[k]? = some e → s.msg e.id = none → e.vals = [] → e.svals = [] →
      e.cond = .icinv reach → Claims.Releasable s pid e.id ((s.part pid).pend.take k) →
      ∃ t, exec (.resultLand pid k) s = .next t ∧ (t.part pid).pend = (s.part pid).pend.eraseIdx k ∧
        ∀ ck v, ck < 2 ^ 64 → v < 2 ^ 64 → ∀ prt, prt < 8 →
          Store.get none t.icache ((ck * 8 + prt) * 2 ^ 64 + v) =
            if prt = (s.part pid).prt ∧ (reach = 0 ∧ ck = (s.part pid).unit * 8 + (s.part pid).core ∨
              reach = 1 ∧ ck / 8 = (s.part pid).unit ∨ reach = 2 ∧ ck / 256 = (s.part pid).unit / 32 ∨ 3 ≤ reach) then none
            else Store.get none s.icache ((ck * 8 + prt) * 2 ^ 64 + v)) ∧
    (∀ (a : Opnd) (c : Word), Issues s h [(a, false)] [] true →
      (p.val c false a 0 = 0 → Claims.GoesTo (.sleep h a c) h s (p.pc + 1)) ∧
      (p.val c false a 0 ≠ 0 → ∃ t, exec (.sleep h a c) s = .next t ∧
        Claims.Blocks s t (.tick (s.tickAt p.unit + BitVec.ofNat 64 (p.val c false a 0))))) ∧
    (∀ (a : Opnd) (c : Word), Issues s h [(a, true)] [] true →
      (p.val c true a 0 ≤ (s.tickAt p.unit).toNat → Claims.GoesTo (.twait h a c) h s (p.pc + 1)) ∧
      ((s.tickAt p.unit).toNat < p.val c true a 0 → ∃ t, exec (.twait h a c) s = .next t ∧
        Claims.Blocks s t (.tick (BitVec.ofNat 64 (p.val c true a 0)))))

/-- Before an instruction acts: a register outside the window is ILLEGAL_ENCODING; a guard that leaves no lane makes it
complete with no effect but that its destinations are no longer dead; a dead source is DEAD_READ; and at an implicit switch point a part with a pending result waits
switched (R56, R145, R167, R169).  For `add`, `st`, `br` and `hjoin`, one instruction of each shape. -/
def Obligations.IssueRules : Prop :=
  ∀ (i : Instr) (h : Hdr) (srcs dsts : List (Opnd × Bool)) (switch : Bool) (s : State),
    ((∃ m o, i = .add h m o ∧ srcs = [(o.a, m.t.w.is64), (o.b, m.t.w.is64)] ∧ dsts = [(o.d, m.t.w.is64)] ∧ switch = false) ∨
     (∃ m a b d, i = .st h m a b d ∧ srcs = [(a, true), (b, m.t.w == .w64)] ∧ dsts = [] ∧ switch = false ∧ s.current.held = false) ∨
     (∃ neg n off, i = .br h neg n off ∧ srcs = [] ∧ dsts = [] ∧ switch = false) ∨
     (∃ hud, i = .hjoin h hud ∧ srcs = [] ∧ dsts = [] ∧ switch = true)) →
    s.current.live = true → s.current.st = .ready →
    let p := s.current
    (p.fits (srcs ++ dsts) = false → exec i s = .next (s.trapAt s.cur .illegalEncoding p.amask [])) ∧
    (p.fits (srcs ++ dsts) = true → p.act h = 0 → ∃ q, exec i s = .next (s.setPart s.cur q) ∧
      Claims.Moves { p with dead := q.dead } s.cyc h (p.pc + 1) q ∧ Revived p q dsts) ∧
    (p.fits (srcs ++ dsts) = true → p.act h ≠ 0 → p.umask = 0 → p.anyDead srcs = true →
      Claims.Traps i s .deadRead (p.act h)) ∧
    (p.fits (srcs ++ dsts) = true → p.act h ≠ 0 → p.anyDead srcs = false → switch = true → p.pend ≠ [] →
      exec i s = .next (s.setPart s.cur { p with st := .switched }))

/-- A precise trap saves its cause, PC, lanes and addresses, slides the window by 8, sets H and goes to the trap vector, when
no result of the part is pending and its registers fit; a part whose growth request waits keeps the trap, and one with a result
on its way waits for it.  The squad of a part that cannot take the cause ends, once only (R156, R176, R339 to R342). -/
def Obligations.TrapEntry : Prop :=
  ∀ (s : State) (pid : Nat) (c : Cause) (tlm : Mask) (tva : List (Nat × DWord)),
    let p := s.part pid
    let w : TrapWait := ⟨c, p.pc, tlm, tva, p.pc⟩
    p.live = true → 8 ≤ p.w → (∀ e ∈ tva, tva.find? (fun x => x.1 == e.1) = some e) →
    (Claims.Enabled s p (causeCode c) → p.pend = [] →
      (∀ s1, s.growTo pid (p.depth + 2) p.w 0 Part.landAll = .met s1 → Claims.Handles s (s.trapAt pid c tlm tva) pid (causeCode c) p.pc tlm
        (fun l => ((tva.find? (fun x => x.1 == l)).map Prod.snd).getD 0)) ∧
      (∀ s1, s.growTo pid (p.depth + 2) p.w 0 Part.landAll = .held s1 →
        (s.trapAt pid c tlm tva).part pid = { s1.part pid with trapq := some w })) ∧
    (Claims.Enabled s p (causeCode c) → (∃ e ∈ p.pend, s.msg e.id ≠ none ∨ e.cond ≠ .free) →
      s.trapAt pid c tlm tva = s.setPart pid { p with st := .switched, trapq := some w }) ∧
    (¬ Claims.Enabled s p (causeCode c) →
      (s.trapAt pid c tlm tva).part pid = Part.absent ∧
      (p.dying = false → ∃ k, (s.trapAt pid c tlm tva).msg k = some (.kill p.team p.sq 0)) ∧
      (p.dying = true → (s.trapAt pid c tlm tva).mg = s.mg ∧ (s.trapAt pid c tlm tva).mem = s.mem)) ∧
    (s.trapAt pid c tlm tva).teams = s.teams

end
namespace Sys2Proof.Claims

open Sys2Proof.Machine

/-- The release condition of R260 holds for the issuing part: no result pending, no posted request outstanding, and no copy
of a resent remote request alive. -/
structure Released (s : State) : Prop where
  settled : s.current.pend = []
  drained : s.outstanding s.cur = []
  aged : s.current.rmHold ≤ (s.tickAt s.current.unit).toNat

/-- `i` is long and completes at once: it stands pending on `c`, holding no later instruction, and FLUSH is on its way to every home
that owes the part an acknowledgement (R68, R145, R260). -/
def Awaits (i : Instr) (h : Hdr) (s : State) (c : PCond) : Prop :=
  ∃ t, exec i s = .next t ∧ Pends s t h ⟨s.ids, [], [], 0, [], false, c⟩ ∧ Flushes s t s.cur

/-- The `k`-th pending result of part `pid` waits on `c`: once its release condition holds, its message `m` is on its way to the
barrier unit, whose answer it waits for; until then nothing happens (R145, R260). -/
def PostsWhenReleased (s : State) (pid k : Nat) (e : Pend) (m : Msg) : Prop :=
  (Releasable s pid e.id ((s.part pid).pend.take k) → ∃ t, exec (.resultLand pid k) s = .next t ∧ t.msg s.ids = some m ∧
    (t.part pid).pend = (s.part pid).pend.set k (Pend.wait s.ids) ∧ t.mem = s.mem ∧ t.teams = s.teams ∧
    ∀ j, j ≠ pid → t.part j = s.part j) ∧
  (¬ Releasable s pid e.id ((s.part pid).pend.take k) → exec (.resultLand pid k) s = .next s)

/-- The part blocks on `w`, with the message `m` on its way under number `s.ids`. -/
def BlocksOn (i : Instr) (s : State) (m : Msg) (w : Wake) : Prop :=
  ∃ t, exec i s = .next t ∧ Blocks s t w ∧ t.msg s.ids = some m

/-- One check of an engine command: whether it holds, the trap it takes when it does not, and the value of TVA. -/
structure Check where
  holds : Bool
  cause : Cause
  tva : Option Nat

/-- An offset of the team's scratchpad is a multiple of `al`, and `n` bytes from it lie in the allocation (R276, R281). -/
def offset (s : State) (p : Part) (o al n : Nat) : List Check :=
  [⟨o % al == 0, .misaligned, some o⟩, ⟨decide (o + n ≤ (s.team p.team).mcount * 65536), .scratchBounds, some o⟩]

/-- A tile number is below the team's count (R23). -/
def tile (s : State) (p : Part) (n : Nat) : List Check := [⟨decide (n < (s.team p.team).acct), .scratchBounds, some n⟩]

/-- The squad has copy-issue rights (R141). -/
def rights (s : State) (p : Part) : List Check :=
  [⟨p.sq == rightsSquad (s.launchOf p).roles 0, .copyRights, none⟩]

/-- In a scrum the part holds every lane of its squad that has not exited (R160). -/
def whole (s : State) (p : Part) : List Check :=
  [⟨p.gang == 0 || p.amask == ~~~((s.team p.team).exitedOf p.sq), .scrumMismatch, none⟩]

/-- A gather index of each lane, none outside act (R286). -/
def indices (p : Part) (act : Mask) (b : Opnd) : List (Option Nat) :=
  (List.range 16).map (fun l => if act.getLsbD l then some (p.val 0 false b l) else none)

/-- Bytes a drain's rows span: all but the last row at the stride, and one row (R291). -/
def drained (m : DMod) (row : Nat) : Nat := (m.rows.toNat - 1) * (16 * m.rstride.toNat) + row

/-- Bits of a packed element (R84). -/
def elementBits : Fmt → Nat
  | .e2m1 => 4
  | .e3m2 => 6
  | .e2m3 => 6
  | _ => 8

/-- A command: its operands, its checks in order, its queue, what it names, and the offset of its tensor record.  `product`
commands are performed at the base stack and meet at the latch in a scrum; `drain` ones only meet there (R160, R161). -/
structure CmdSpec where
  h : Hdr
  srcs : List (Opnd × Bool)
  product : Bool := false
  scrum : Bool := false
  checks : State → Part → List Check
  queue : Nat
  cmd : Part → Mask → Cmd
  recOff : Part → Option Nat := fun _ => none

/-- The fields of a product (R285, R287, R288). -/
def productSpec (h : Hdr) (m : MMod) (kind : Part → ProdKind) (d a b : Opnd) : CmdSpec :=
  { h := h
    srcs := [(a, false), (b, false)]
    product := true
    scrum := true
    checks := fun s p => whole s p ++ tile s p (tileOf d) ++ offset s p (p.val 0 false a 0) 64 64
    queue := 4
    cmd := fun p act => .prod (kind p) m.shape m.amode
      (if m.shape = .auto then some (p.readS m.creg.val).toNat else none) m.region.val m.colt.val (tileOf d)
      (if m.amode = .ga then 0 else p.val 0 false b 0) (if m.amode = .ga then indices p act b else [])
    recOff := fun p => some (p.val 0 false a 0) }

/-- The fields of a copy (R297); of an offset whose length is known only at the base stack, its first byte is checked (the
model's choice, log 31). -/
def copySpec (h : Hdr) (q : Fin 4) (out : Bool) (d a b : Opnd) : CmdSpec :=
  { h := h
    srcs := [(d, false), (a, false), (b, false)]
    checks := fun s p => rights s p ++ offset s p (p.val 0 false a 0) 64 64 ++ offset s p (p.val 0 false b 0) 4 4 ++
      offset s p (p.val 0 false d 0) 1 1
    queue := q.val
    cmd := fun p _ => .copy out (p.val 0 false d 0) (p.val 0 false b 0)
    recOff := fun p => some (p.val 0 false a 0) }

/-- What each engine command sends (R283 to R302). -/
def cmdSpec : Instr → Option CmdSpec
  | .mstat h ty pat a b region => some
    { h := h
      srcs := [(a, false), (b, false)]
      checks := fun s p => offset s p (p.val 0 false a 0) 64 64
      queue := 4
      cmd := fun p _ => .fill ty pat (p.val 0 false b 0) region.val
      recOff := fun p => some (p.val 0 false a 0) }
  | .mfree h region => some
    { h := h, srcs := [], checks := fun _ _ => [], queue := 4, cmd := fun _ _ => .free region.val }
  | .mmx h m d a b => some (productSpec h m (fun _ => .dense) d a b)
  | .mmxs h m s14 d a b => some (productSpec h m (fun _ => .sparse s14) d a b)
  | .mmxd h m full sreg d a b => some (productSpec h m
      (fun p => .delta full ((p.readS sreg.val).extractLsb' 0 8).toNat ((p.readS sreg.val).extractLsb' 16 16).toNat) d a b)
  | .mzero h d => some
    { h := h, srcs := [], checks := fun s p => tile s p (tileOf d), queue := 4, cmd := fun _ _ => .zero (tileOf d) }
  | .mslotInv h a => some
    { h := h
      srcs := [(a, false)]
      checks := fun _ _ => []
      queue := 4
      cmd := fun p _ => .slotInv (p.val 0 false a 0 % 256) }
  | .mslotNint h a b => some
    { h := h
      srcs := [(a, false), (b, false)]
      checks := fun _ _ => []
      queue := 4
      cmd := fun p _ => .slotNint (p.val 0 false a 0 % 256) (p.val 0 false b 0) }
  | .mdrn h bf m d a => some
    { h := h
      srcs := [(d, false)]
      checks := fun s p => tile s p (tileOf a) ++ offset s p (p.val 0 false d 0) (if bf then 2 else 4)
        (drained m (32 * (m.cb.val + 1) * (if bf then 2 else 4)))
      queue := 5
      cmd := fun p _ => .drainN bf m (tileOf a) (p.val 0 false d 0) }
  | .mdrq h fmt m d a b => some
    { h := h
      srcs := [(d, false), (b, false)]
      checks := fun s p => tile s p (tileOf a) ++
        offset s p (p.val 0 false d 0) 1 (drained m (4 * (m.cb.val + 1) * elementBits fmt)) ++
        offset s p (p.val 0 false b 0) 1 (m.rows.toNat * (m.cb.val + 1))
      queue := 5
      cmd := fun p _ => .drainQ fmt m (tileOf a) (p.val 0 false d 0) (p.val 0 false b 0) }
  | .mdrx h m d a b => some
    { h := h
      srcs := [(d, false), (b, false)]
      scrum := true
      checks := fun s p => whole s p ++ tile s p (tileOf a) ++ offset s p (p.val 0 false d 0) 4 4
      queue := 5
      cmd := fun p act => .drainX m (tileOf a) (p.val 0 false d 0) (indices p act b) }
  | .cpG2s h q d a b => some (copySpec h q false d a b)
  | .cpS2g h q d a b => some (copySpec h q true d a b)
  | .cpg h q d a b cc => some
    { h := h
      srcs := [(d, false), (a, false), (b, false), (cc, false)]
      checks := fun s p => rights s p ++ offset s p (p.val 0 false a 0) 64 64 ++ offset s p (p.val 0 false b 0) 4 4 ++
        offset s p (p.val 0 false d 0) 1 1 ++ offset s p (p.val 0 false cc 0) 1 1
      queue := q.val
      cmd := fun p _ => .gather (p.val 0 false d 0) (p.val 0 false b 0) (p.val 0 false cc 0)
      recOff := fun p => some (p.val 0 false a 0) }
  | .qfence h qset => some
    { h := h
      srcs := []
      checks := fun s p => if qset.extractLsb' 0 4 = 0 then [] else rights s p
      queue := 0
      cmd := fun _ _ => .join qset }
  | _ => none

/-- The queue entry of the command, not begun. -/
def CmdSpec.entry (r : CmdSpec) (p : Part) : Entry := newEntry p r.queue (r.cmd p (p.act r.h)) (r.recOff p)

/-- The command counts for `mwait`: it stands in the matrix or the drain queue (R295). -/
def CmdSpec.matrix (r : CmdSpec) (p : Part) : Bool :=
  match r.cmd p (p.act r.h) with
  | .join qs => qs.getLsbD 4 || qs.getLsbD 5
  | _ => r.queue == 4 || r.queue == 5

/-- The scratchpad word at `off` has every bit of `m` (R300, R301). -/
def met (s : State) (off : Nat) (m : Word) : Bool := BitVec.ofNat 32 (s.padPeek s.current.team off 4) &&& m == m

/-- A request of the part to the window `k % 4096` of peer `k / 4096` has been formed for every acting lane, and not yet
sent (R373). -/
def Formed (s t : State) (h : Hdr) (slot k : Nat) (wr : Bool) (ty : IType) (addr : Nat → DWord) (data : Nat → DWord)
    (r : Remote) : Prop :=
  let p := s.current
  r.pid = s.cur ∧ r.team = p.team ∧ r.sq = p.sq ∧ r.pc = p.pc ∧ r.prt = p.prt ∧ r.hub = hubOf p.unit ∧ r.slot = slot ∧
    r.wr = wr ∧ r.t = ty ∧ r.peer = k / 4096 ∧ r.win = k % 4096 ∧ r.ent = s.peer p.prt (k / 4096) ∧ r.lat = p.lat ∧
    r.lanes = (lanesOf (p.act h)).map (fun l => (l, BitVec.ofNat 64 ((addr l).toNat % 2 ^ 40), data l)) ∧ r.sends = 0 ∧
    (∃ n, t.remote n = some r)

end Sys2Proof.Claims

section

open Sys2Proof

open Sys2Proof.Machine

/-- `bar` sends its arrival to the barrier unit once the release condition holds, and blocks until the phase is complete; `barw`
blocks without arriving.  `bara` and `sgo` complete at once and stand pending: their message goes out when the release condition
of what was issued before them holds.  `swt` blocks until its stage's phase bit has the value named; a ring the team does not have
traps with SCRATCH_BOUNDS (R145, R159, R162, R260, R273, R274).  That `bar` waits for its release condition at its own PC is the
model's choice (log 2).

Completes: `bar`, `bara`, `barw`, `sgo`, `swt`. -/
def Obligations.TeamResults : Prop :=
  ∀ (h : Hdr) (s : State),
    let p := s.current
    (∀ (n : Fin 8) mx, Issues s h [] [] true → Claims.Released s →
      Claims.BlocksOn (.bar h n mx) s (.arrive s.cur p.team p.sq n.val p.amask true) (.phase n.val 0 false)) ∧
    (∀ (n : Fin 8) mx, Issues s h [] [] false → p.held = false → Claims.Awaits (.bara h n mx) h s (.arrive n.val)) ∧
    (∀ n : Fin 8, Issues s h [] [] true →
      Claims.BlocksOn (.barw h n) s (.arrive s.cur p.team p.sq n.val 0 true) (.phase n.val 0 true)) ∧
    (∀ (r : Fin 8) mx a, Issues s h [(a, false)] [] false → r.val < (s.team p.team).rings → p.held = false →
      Claims.Awaits (.sgo h r mx a) h s (.go r.val (p.val 0 false a 0 % 8))) ∧
    (∀ pid k e, (s.part pid).pend[k]? = some e → s.msg e.id = none →
      (∀ n, e.cond = .arrive n → Claims.PostsWhenReleased s pid k e
        (.arrive pid (s.part pid).team (s.part pid).sq n (s.part pid).amask false)) ∧
      (∀ r n, e.cond = .go r n → Claims.PostsWhenReleased s pid k e (.sgo pid (s.part pid).team r n))) ∧
    (∀ (r : Fin 8) a b, Issues s h [(a, false), (b, false)] [] true → r.val < (s.team p.team).rings →
      let k := p.val 0 false a 0 % 8
      let f := (p.val 0 false b 0).testBit 0
      Claims.BlocksOn (.swt h r a b) s (.swt s.cur p.team r.val k f) (.stage r.val k f)) ∧
    (∀ (r : Fin 8) mx a b, p.held = false → (s.team p.team).rings ≤ r.val →
      let trap := .next (s.trapAt s.cur .scratchBounds (p.act h) ((lanesOf (p.act h)).map (fun l => (l, BitVec.ofNat 64 r.val))))
      (Issues s h [(a, false)] [] false → exec (.sgo h r mx a) s = trap) ∧
      (Issues s h [(a, false), (b, false)] [] true → exec (.swt h r a b) s = trap)) ∧
    (∀ (n : Fin 8) mx, Issues s h [] [] true → s.outstanding s.cur ≠ [] → p.flushed = false →
      exec (.bar h n mx) s = .next ((s.flushAll s.cur p).setPart s.cur { p with flushed := true }))

/-- Every engine command whose checks hold is sent to the base stack with the operand values of its issue, and the part goes
on.  A command with a tensor record holds later instructions of classes 0x7 to 0xA until the record has been read; the first
check that fails is the trap it takes.  Products are issued at the base stack, and outside a scrum (R23, R126, R141, R260,
R276, R281, R283 to R302).  That a range whose length the issue does not know is checked by its first byte, or its first word, is
the model's choice (log 31).

Completes: `mstat`, `mfree`, `mmx`, `mmxs`, `mmxd`, `mzero`, `mslotInv`, `mslotNint`, `mdrn`, `mdrq`, `mdrx`, `cpG2s`,
`cpS2g`, `cpg`, `qfence`. -/
def Obligations.CommandResults : Prop :=
  ∀ (i : Instr) (r : Claims.CmdSpec) (s : State), i.wf = true → Claims.cmdSpec i = some r →
    Issues s r.h r.srcs [] r.product → s.current.held = false →
    let p := s.current
    ((∀ x ∈ r.checks s p, x.holds = true) → (r.product = true → p.unit = p.base) → (r.scrum = true → p.gang = 0) →
      ∃ q, exec i s = .next ((s.post (.command s.cur p.team { r.entry p with id := s.ids })).setPart s.cur q) ∧
        Claims.Moves { p with
          pend := p.pend ++ [{ Pend.wait s.ids with hold := (r.recOff p).isSome }]
          cmds := if r.matrix p then p.cmds ++ [s.ids] else p.cmds } s.cyc r.h (p.pc + 1) q) ∧
    (∀ x, (r.scrum = true → p.gang = 0 ∨ p.pend = []) → (r.checks s p).find? (fun y => !y.holds) = some x →
      exec i s = .next (s.trapAt s.cur x.cause (p.act r.h) (match x.tva with
        | some v => (lanesOf (p.act r.h)).map (fun l => (l, BitVec.ofNat 64 v))
        | none => [])))

/-- `gang` is long: it sets GANG to 0 or to a listing of 2 to 6 squads of the launch's product roles with the part's own among
them, and traps with SCRUM_MISMATCH on any other value.  A product away from the base stack departs for it at its own PC; in
a scrum a product or `mdrx` at the base stack waits at the rendezvous latch, with the squad's scrum count one higher (R49,
R145, R160, R161, R282, R446).

Completes: `gang`, `mmx`, `mmxs`, `mmxd`, `mdrx`. -/
def Obligations.ScrumResults : Prop :=
  (∀ (h : Hdr) (a : Opnd) (c : Word) (s : State), Issues s h [(a, false)] [] false → s.current.held = false →
    let p := s.current
    let g := BitVec.ofNat 32 (p.val c false a 0)
    let listed := (List.range 32).filter (fun i => g.getLsbD i)
    let legal := g = 0 ∨ 2 ≤ listed.length ∧ listed.length ≤ 6 ∧ p.sq ∈ listed ∧
      ∀ q ∈ listed, roleKind (s.launchOf p).roles q = some 1 ∨ roleKind (s.launchOf p).roles q = some 3
    (legal → ∃ q, exec (.gang h a c) s = .next { s.setPart s.cur q with ids := s.ids + 1 } ∧
      Claims.Moves { p with
        gang := g
        pend := p.pend ++ [⟨s.ids, [], [], 0, [], false, .gang p.gang⟩] } s.cyc h (p.pc + 1) q) ∧
    (¬ legal → Claims.Traps (.gang h a c) s .scrumMismatch (p.act h))) ∧
  (∀ (i : Instr) (r : Claims.CmdSpec) (s : State), i.wf = true → Claims.cmdSpec i = some r → r.scrum = true →
    Issues s r.h r.srcs [] r.product → (∀ x ∈ r.checks s s.current, x.holds = true) →
    let p := s.current
    (p.unit = p.base → p.gang ≠ 0 → p.pend = [] →
      ∃ t n ops idx c, exec i s = .next t ∧ n = (Store.get 0 (s.team p.team).scrum p.sq + 1) % 256 ∧
        t.part s.cur = { p with st := .latched } ∧ (∀ k, k ≠ s.cur → t.part k = s.part k) ∧
        t.msg s.ids = some (.latchAt s.cur n i.raw.pack ops (p.act r.h) idx (newEntry p r.queue c (r.recOff p))) ∧
        Cmd.withIdx c idx = r.cmd p (p.act r.h) ∧
        Store.get 0 (t.team p.team).scrum p.sq = n ∧ t.mem = s.mem) ∧
    (∀ m, p.unit ≠ p.base → r.product = true ∨ p.gang ≠ 0 ∧ p.pend = [] → s.liveMask s.cur r.h.lsi.val = .inl m →
      ∃ t b, exec i s = .next t ∧ t.part s.cur = { p with
          st := .departing 0
          umask := p.act r.h
          dest := .unit p.base
          lsi := r.h.lsi.val
          carry := m ||| b } ∧ Claims.OnlyPart s t))

/-- `mwait` and `qwait` block until the commands they name have completed; `cpw` until its bitmap word has every bit of its
mask; `cpy` goes to PC + OFF where its word has them, else moves into the base stack's hold area, or blocks where that is
full.  A word of either that is misaligned, outside the allocation or in a stationary macro traps, with its offset in TVA (R22,
R83, R276, R281, R295, R300, R301, R303).  That the hold area gives its lowest free slot is the model's choice (log 39).

Completes: `mwait`, `qwait`, `cpw`, `cpy`. -/
def Obligations.EngineWaits : Prop :=
  ∀ (h : Hdr) (s : State),
    let p := s.current
    (Issues s h [] [] true → ∃ t, exec (.mwait h) s = .next t ∧ Claims.Blocks s t (.cmds p.cmds true)) ∧
    (∀ qset : BitVec 6, Issues s h [] [] true → ∃ t, exec (.qwait h qset) s = .next t ∧
      Claims.Blocks s t (.cmds (((s.team p.team).ents.filter (fun e =>
        (List.range 6).any (fun q => qset.getLsbD q && e.inQ q))).map (fun e => e.id)) false)) ∧
    (∀ a b disp, Issues s h [(a, false), (b, false)] [] true →
      let off : Int := p.val 0 false a 0 + disp.toInt
      (off % 4 = 0 → 0 ≤ off → off + 4 ≤ (s.team p.team).mcount * 65536 →
        (s.team p.team).stationary (off.toNat / 65536) = true →
        exec (.cpw h a b disp) s = .next (s.trapAt s.cur .stationaryAccess (p.act h)
          ((lanesOf (p.act h)).map (fun l => (l, BitVec.ofNat 64 off.toNat))))) ∧
      (off % 4 = 0 → 0 ≤ off → off + 4 ≤ (s.team p.team).mcount * 65536 →
        (s.team p.team).stationary (off.toNat / 65536) = false →
        ∃ t, exec (.cpw h a b disp) s = .next t ∧
          Claims.Blocks s t (.chunks off.toNat (BitVec.ofNat 32 (p.val 0 false b 0)))) ∧
      (off % 4 ≠ 0 → exec (.cpw h a b disp) s = .next (s.trapAt s.cur .misaligned (p.act h)
        ((lanesOf (p.act h)).map (fun l => (l, BitVec.ofInt 64 off))))) ∧
      (off % 4 = 0 → off < 0 ∨ (s.team p.team).mcount * 65536 < off + 4 →
        exec (.cpw h a b disp) s = .next (s.trapAt s.cur .scratchBounds (p.act h)
          ((lanesOf (p.act h)).map (fun l => (l, BitVec.ofInt 64 off)))))) ∧
    (∀ a b off, Issues s h [(a, false), (b, false)] [] true →
      let o := p.val 0 false a 0
      let m := BitVec.ofNat 32 (p.val 0 false b 0)
      let traps := fun (c : Cause) => exec (.cpy h a b off) s = .next (s.trapAt s.cur c (p.act h)
        ((lanesOf (p.act h)).map (fun l => (l, BitVec.ofNat 64 o))))
      (o % 4 ≠ 0 → traps .misaligned) ∧
      (o % 4 = 0 → (s.team p.team).mcount * 65536 < o + 4 → traps .scratchBounds) ∧
      (o % 4 = 0 → o + 4 ≤ (s.team p.team).mcount * 65536 → (s.team p.team).stationary (o / 65536) = true →
        traps .stationaryAccess) ∧
      (o % 4 = 0 → o + 4 ≤ (s.team p.team).mcount * 65536 → (s.team p.team).stationary (o / 65536) = false →
      (Claims.met s o m = true → Claims.GoesTo (.cpy h a b off) h s (p.pc + off)) ∧
      (∀ n, Claims.met s o m = false → n < 8192 → Store.get 0 s.fab.hold (p.base * 8192 + n) = 0 →
        (∀ k, k < n → Store.get 0 s.fab.hold (p.base * 8192 + k) ≠ 0) →
        ∃ t, exec (.cpy h a b off) s = .next t ∧ t.part s.cur = { p with
            st := .departing 0
            dest := .hold p.base n o m (p.pc + off)
            umask := 0
            mi := MemOp.idle
            restrict := none
            flushed := false } ∧
          Store.get 0 t.fab.hold (p.base * 8192 + n) = s.cur + 1 ∧ t.mem = s.mem ∧ t.teams = s.teams ∧
          ∀ k, k ≠ s.cur → t.part k = s.part k) ∧
      (Claims.met s o m = false → (∀ n, n < 8192 → Store.get 0 s.fab.hold (p.base * 8192 + n) ≠ 0) →
        ∃ t, exec (.cpy h a b off) s = .next t ∧ Claims.Blocks s t (.held o m (p.pc + off) none))))

/-- `trec` completes with the status word of the record at its offset pending: the first check of R280 that fails, or 0 and
for a copy the count of 512-byte chunks.  `lnch` writes the 128 bytes at its offset to the next entry of launch queue 15 and
rings its doorbell; a queue that is not enabled has ERR set, and a full one makes it wait (R304, R305, R322, R323).  That `trec.fill`
judges a sparse record by the pattern factor 2 is the model's reading (log 18).

Completes: `trec`, `lnch`. -/
def Obligations.RecordResults : Prop :=
  ∀ (h : Hdr) (s : State),
    let p := s.current
    let alloc := (s.team p.team).mcount * 65536
    (∀ u d a, (Instr.trec h u d a).wf = true → p.held = false → p.val 0 false a 0 % 64 = 0 →
      p.val 0 false a 0 + 64 ≤ alloc → (s.team p.team).stationary (p.val 0 false a 0 / 65536) = false →
      Claims.CompletesLong (.trec h u d a) s ⟨h, [(a, false)], [(d, false)], d, false, fun p _ _ =>
        let bs := s.padBytes p.team (p.val 0 false a 0) 64
        let c := recCheck alloc bs u (if u = .fill ∧ (parseRec bs).sparse = true then 2 else 1)
        if c = 0 ∧ u = .cp then 256 * (((parseRec bs).streamBytes + 511) / 512) else c, fun _ _ _ => 0⟩) ∧
    (∀ a, Issues s h [(a, false)] [] false → p.val 0 false a 0 % 128 = 0 → p.val 0 false a 0 + 128 ≤ alloc →
      (s.team p.team).stationary (p.val 0 false a 0 / 65536) = false →
      Claims.Released s → p.restartable = false →
      let q := 0x51000 + 0x200 * p.prt + 0x20 * 15
      let cfg := s.ureg 16 (q + 8)
      let size := 2 ^ min 12 (cfg.toNat % 16)
      let tail := ((s.ureg 16 (q + 0x10)).extractLsb' 0 32).toNat
      let head := ((s.ureg 16 (q + 0x18)).extractLsb' 0 32).toNat
      let n := (tail + 2 ^ 32 - head) % 2 ^ 32
      (cfg.getLsbD 4 = true → n < size →
        ∃ r, exec (.lnch h a) s = .next (((s.mgmtWrite p.prt ((s.ureg 16 q).toNat + 128 * (tail % size))
            (s.padBytes p.team (p.val 0 false a 0) 128)).ring p.prt 15 (BitVec.ofNat 32 (tail + 1)) false).setPart s.cur r) ∧
          Claims.Moves p s.cyc h (p.pc + 1) r) ∧
      (cfg.getLsbD 4 = true → size ≤ n → exec (.lnch h a) s = .next s) ∧
      (cfg.getLsbD 4 = false → ∃ r, exec (.lnch h a) s = .next ((s.setUreg 16 (q + 8) (cfg ||| 32)).setPart s.cur r) ∧
        Claims.Moves p s.cyc h (p.pc + 1) r))

/-- `rrd` whose lanes name one window of a valid peer forms a request and blocks until it is answered; `rwr` forms a posted
request and goes on.  Lanes whose peer is not valid trap with PROTECTION (R25, R26, R271, R272, R373).  Which hub of the package
sends the request, `hubOf`, is the model's choice (log 21).

Completes: `rrd`, `rwr`. -/
def Obligations.RemoteResults : Prop :=
  ∀ (h : Hdr) (a : Opnd) (disp : Word) (s : State) (k : Nat),
    let p := s.current
    let act := p.act h
    let addr := fun l => BitVec.ofNat 64 (p.val 0 true a l) + disp.signExtend 64
    let hub := hubOf p.unit
    let good := fun (w : Nat) => ∀ l, l < 16 → act.getLsbD l = true → (addr l).toNat % w = 0 ∧ (addr l).toNat / 2 ^ 40 = k
    Claims.Begins s →
    (∀ (t : IType) d slot, p.fits [(d, t.w == .w64)] = true → Issues s h [(a, true)] [] true → good (Claims.bytes t.w) →
      (s.peer p.prt (k / 4096)).v = true → s.remoteLanes s.cur = [] → s.freeReq (unitPkg hub) p.prt = some slot →
      ∃ u r b, exec (.rrd h t d a disp) s = .next u ∧ Claims.Formed s u h slot k false t addr (fun _ => 0) r ∧ r.dst = d ∧
        u.part s.cur = { p with
          st := .blocked (.remote d t) b
          umask := act
          mi := ⟨true, (lanesOf act).map (fun l => (l, addr l)), [], [], false⟩
          sample := (u.part s.cur).sample
          lastIssue := s.cyc } ∧
        u.mem = s.mem ∧ u.teams = s.teams) ∧
    (∀ (w : Width) b slot, Issues s h [(a, true), (b, w == .w64)] [] false → good (Claims.bytes w) →
      p.held = false → (s.peer p.prt (k / 4096)).v = true → (s.outHomes s.cur ++ [hub]).eraseDups.length ≤ 16 →
      s.freeReq (unitPkg hub) p.prt = some slot →
      ∃ u r x, exec (.rwr h w a b disp) s = .next u ∧
        Claims.Formed s u h slot k true ⟨w, false⟩ addr (fun l =>
          BitVec.ofNat 64 (p.val 0 (w == .w64) b l % 2 ^ (8 * Claims.bytes w))) r ∧
        u.preq r.preq = some x ∧ x.pid = s.cur ∧ x.home = hub ∧ x.kind = .rwr ∧ x.phase = .flight ∧ x.pc = p.pc ∧
        Claims.Moves p s.cyc h (p.pc + 1) (u.part s.cur) ∧ u.mem = s.mem ∧ u.teams = s.teams) ∧
    ((∀ l, l < 16 → act.getLsbD l = true → (s.peer p.prt ((addr l).toNat / 2 ^ 52)).v = false) →
      let trap := fun (u : State) => Host.Outcome.next
        (u.trapAt s.cur .protection act ((lanesOf act).map (fun l => (l, addr l))))
      (∀ t d, p.fits [(d, t.w == .w64)] = true → Issues s h [(a, true)] [] true →
        (∀ l, l < 16 → act.getLsbD l = true → (addr l).toNat % Claims.bytes t.w = 0) →
        ∃ u : State, exec (.rrd h t d a disp) s = trap u ∧ u.mem = s.mem ∧ (u.part s.cur).pc = p.pc ∧
          (u.part s.cur).vregs = p.vregs ∧ u.teams = s.teams) ∧
      (∀ w b, Issues s h [(a, true), (b, w == .w64)] [] false → p.held = false →
        (∀ l, l < 16 → act.getLsbD l = true → (addr l).toNat % Claims.bytes w = 0) →
        ∃ u : State, exec (.rwr h w a b disp) s = trap u ∧ u.mem = s.mem ∧ (u.part s.cur).pc = p.pc ∧
          (u.part s.cur).vregs = p.vregs ∧ u.teams = s.teams))

end
namespace Sys2Proof.Claims

open Sys2Proof.Machine

/-- Event `e` completes and leaves `t`. -/
abbrev Does (e : Instr) (s t : State) : Prop := exec e s = .next t

/-- The part after its wait has ended: it goes on at `pc` (R143, R163). -/
def woken (p : Part) (cyc : Nat) (pc : Word) : Part :=
  { p with
    st := if p.pend.isEmpty then .ready else .switched
    pc := pc
    umask := 0
    mi := MemOp.idle
    restrict := none
    flushed := false
    bpPass := none
    issues := p.issues + 1
    lastIssue := cyc }

/-- The part READY at the instruction at which it waited, which runs again: a record has been assigned to it (R350). -/
def rerun (p : Part) (cyc : Nat) : Part :=
  { p with
    st := if p.pend.isEmpty then .ready else .switched
    recWake := false
    umask := 0
    mi := MemOp.idle
    restrict := none
    flushed := false
    lastIssue := cyc }

/-- Registers of the window that a frame carries: those of the live set and the operands, every one in an eviction or
`cpy` frame (R51, R157, R301). -/
def inFrame (p : Part) : BitVec 32 :=
  match p.dest with
  | .evict _ => 0xFFFFFFFF
  | .hold _ _ _ _ _ => 0xFFFFFFFF
  | _ => p.carry

/-- The part `p` in its frame: registers it does not carry are dead and zero, those below the window have gone to the spill
area, and of its predicates the frame holds the lanes of AMASK (R51, R54, R56, R57). -/
structure Framed (p q : Part) : Prop where
  same : q = { p with
    st := .departing 2
    vregs := q.vregs
    dead := q.dead
    preds := q.preds
    resLo := p.depth }
  words : ∀ n l, n < 32 → n < p.w → l < 16 →
    q.word (4 * p.depth + n) l = if (inFrame p).getLsbD n then p.word (4 * p.depth + n) l else 0
  dead : ∀ n, n < 32 → n < p.w → q.dead.getLsbD n = (p.dead.getLsbD n || !(inFrame p).getLsbD n)
  preds : ∀ n, n < 8 → Store.get 0 q.preds n = Store.get 0 p.preds n &&& p.amask

/-- Nothing but the lookup `k` and what translation units hold differs. -/
def Looks (s t : State) : Prop := t.parts = s.parts ∧ t.teams = s.teams ∧ t.fab = s.fab ∧ t.mg = s.mg ∧ t.uregs = s.uregs

/-- From `s` to `t` the translations that `named` names have left every TLB of unit `u`: the L1 TLBs of its cores, the unit's own
and the walk-ahead translator's.  Every other one stays (R44). -/
def Swept (s t : State) (u : Nat) (named : Tlb → Prop) : Prop :=
  (∀ c e, c < 8 → (e ∈ t.l1 u c ↔ e ∈ s.l1 u c ∧ ¬ named e)) ∧ (∀ e, e ∈ t.utlb u ↔ e ∈ s.utlb u ∧ ¬ named e) ∧
    ∀ e, e ∈ t.wtlb u ↔ e ∈ s.wtlb u ∧ ¬ named e

/-- Lookup `j` is served by the walk of lookup `k`: it is that lookup, or was merged with its walk (R39). -/
def ServedBy (s : State) (k j : Nat) (y : Xlat) : Prop := s.xlat j = some y ∧ (j = k ∨ y.st = .joined k)

/-- `s` with lookup `k` in state `st`, the message of its next table read or update sent under number `s.ids` (R71). -/
def Sends (s : State) (k : Nat) (x : Xlat) (st : WalkSt) : State :=
  { s.setXlat k (some { x with
      st := st
      rd := s.ids }) with ids := s.ids + 1 }

/-- The message numbered `n` on route `v` arrives now: the route flows, and nothing sent on it before is still on its way (R71). -/
def Arrived (s : State) (n : Nat) (v : Via) : Prop := s.flowing v = true ∧ s.nextOn n v = true

/-- The walk of lookup `k` ends with `st` for every lookup it serves, and for no other. -/
def WalkEnds (s t : State) (k : Nat) (st : WalkSt) : Prop :=
  Looks s t ∧ t.mem = s.mem ∧ (∀ j y, ServedBy s k j y → t.xlat j = some { y with st := st }) ∧
    ∀ j, (∀ y, ¬ ServedBy s k j y) → t.xlat j = s.xlat j

end Sys2Proof.Claims

section

open Sys2Proof

open Sys2Proof.Machine Sys2Proof.Claims

/-- RELAX_EXPIRE and YIELD_EXPIRE end their intervals; SLEEP_WAKE and TWAIT_WAKE let a part go on once the tick of its running
package has reached its target, and not before; SQUAD_START makes a squad eligible at its START; PART_WAKE ends the wait whose
condition has been reported; a held `cpy` frame whose condition holds leaves the hold area, at its continuation PC, or one to which
a record has been assigned, at its `cpy`; TICK; a class-0 bucket gains RATE flits for each period of 1024 cycles, up to BURST (R4,
R62, R74, R143, R147, R163, R295, R301, R315 to R317, R333, R350, R408).  That relax, yield and the periods are counted in the cycles
that the package has run, and that one event is one cycle, is the model's choice (log 2).

Completes: `relaxExpire`, `yieldExpire`, `c0LimiterRefill`, `squadStart`, `partWake`, `cpyHoldRelease`, `sleepWake`,
`twaitWake`, `tick`. -/
def Obligations.WakeEvents : Prop :=
  ∀ (s : State) (pid : Nat),
    let p := s.part pid
    let thawed := (s.team p.team).frozen = false
    let running := thawed ∧ (s.team p.team).ended.contains p.sq = false
    (p.relaxTo ≤ s.cycAt p.unit → Does (.relaxExpire pid) s (s.setPart pid { p with relaxTo := 0 })) ∧
    (p.yieldTo ≤ s.cycAt p.unit → Does (.yieldExpire pid) s (s.setPart pid { p with yieldTo := 0 })) ∧
    (∀ t r, p.live = true → p.st = .blocked (.tick t) r → thawed → s.pkgStopped (unitPkg p.unit) = false →
      (t.toNat ≤ (s.tickAt p.unit).toNat → Does (.sleepWake pid) s (s.setPart pid (woken p s.cyc (p.pc + 1))) ∧
        Does (.twaitWake pid) s (s.setPart pid (woken p s.cyc (p.pc + 1)))) ∧
      ((s.tickAt p.unit).toNat < t.toNat → Does (.sleepWake pid) s s ∧ Does (.twaitWake pid) s s)) ∧
    (p.live = true → p.start ≠ 0 → p.start.toNat ≤ (s.tickAt p.unit).toNat →
      ∃ t, Does (.squadStart pid) s t ∧ t.part pid = { p with
        start := 0
        lastIssue := s.cyc } ∧ OnlyPart { s with cur := pid } t) ∧
    (p.live = true → running →
      (∀ w, (match w with | .phase _ _ _ => true | .stage _ _ _ => true | .chunks _ _ => true | _ => false) = true →
        p.st = .blocked w true → Does (.partWake pid) s (s.setPart pid (woken p s.cyc (p.pc + 1)))) ∧
      (∀ o m c, p.st = .blocked (.held o m c none) true → Does (.partWake pid) s (s.setPart pid (woken p s.cyc c))) ∧
      (∀ ids mw, p.st = .blocked (.cmds ids mw) true → ∃ t, Does (.partWake pid) s t ∧
        let mine := (s.team p.team).recs.filter (fun r => r.sq == p.sq && decide (3 ≤ r.kind) && !r.assigned)
        t.part pid = { woken p s.cyc (p.pc + 1) with
          defer := p.defer + mine.length
          mstat := if mw then (s.team p.team).mstat else p.mstat
          cmds := if mw then [] else p.cmds } ∧
        (∀ r ∈ (t.team p.team).recs, r.sq = p.sq → 3 ≤ r.kind → r.assigned = true) ∧ t.mem = s.mem)) ∧
    (∀ o m c n b, p.live = true → thawed → p.st = .blocked (.held o m c (some n)) b → s.badFrame pid = false →
      s.parkRoom p.unit p.prt 1 = true →
      let freed : State := { s with fab := { s.fab with hold := Store.set 0 s.fab.hold (p.unit * 8192 + n) 0 } }
      (p.recWake = true → Does (.cpyHoldRelease pid) s ((freed.setPart pid (rerun p s.cyc)).arrive pid p.unit)) ∧
      (p.recWake = false → b = true →
        Does (.cpyHoldRelease pid) s ((freed.setPart pid (woken p s.cyc c)).arrive pid p.unit)) ∧
      (p.recWake = false → b = false → Does (.cpyHoldRelease pid) s s)) ∧
    ((∃ k ∈ s.mg.pkgs, s.pkgStopped k = false) → s.net.slew = 0 → s.lag = [] → ∃ t, Does .tick s t ∧ t.tick = s.tick + 1 ∧ t.cyc = s.cyc + 1 ∧
      t.parts = s.parts ∧ t.mem = s.mem ∧ t.teams = s.teams) ∧
    (∀ u c n, let lim := s.ureg u ((if isStack u then 0x100200 else 0x1C0200) + 0x10000 * c + 8 * n)
      let key := (u * 8 + c) * 8 + n
      let periods := s.cycAt u / 1024 - Store.get 0 s.fab.gained key
      (periods = 0 → Does (.c0LimiterRefill u c n) s s) ∧
      (periods ≠ 0 → ∃ t, Does (.c0LimiterRefill u c n) s t ∧ t.parts = s.parts ∧ t.mem = s.mem ∧
        (∀ k, Store.get 0 t.fab.gained k = if k = key then s.cycAt u / 1024 else Store.get 0 s.fab.gained k) ∧
        ∀ k, Store.get 0 t.fab.level k = if k = key ∧ lim.extractLsb' 0 16 ≠ 0 then
          min (lim.extractLsb' 16 16).toNat (Store.get 0 s.fab.level key + (lim.extractLsb' 0 16).toNat * periods)
          else Store.get 0 s.fab.level k))

/-- INSTRUCTION_FETCH brings the word at a part's PC into its core's instruction cache.  A probe finds a translation in a
TLB, or joins a walk of its page, or begins one while fewer than 16 are in flight; a walk step reads one entry and goes to the
next table, ends in a fault for every lookup it serves, or ends in a leaf whose A and D bits the compare-and-swap of AD_UPDATE
writes, unless a shootdown has discarded it; a command's next page is taken up ahead, a fault of it only when the engine stands
at the page (R35, R36, R39 to R42, R44, R47, R71, R166, R413).  The code a core has not cached is the choice of the free value that
log 14 names; that walks of one 64 KiB page merge is the model's choice (log 27).

Completes: `translationProbe`, `pageWalkStep`, `adUpdate`, `walkAheadTranslate`, `instructionFetch`. -/
def Obligations.TranslationEvents : Prop :=
  (∀ (s : State) (pid w : Nat),
    let p := s.part pid
    p.live = true → p.st = .ready → s.xlatWait (.part pid) = false → s.fetch pid = .word w →
    ∃ t, Does (.instructionFetch pid) s t ∧ t.parts = s.parts ∧ t.mem = s.mem ∧ t.teams = s.teams ∧
      ∀ i, i < 12 → Store.get none t.icache (State.codeKey p (s.codeVa p p.pc + i)) =
        match Store.get none s.icache (State.codeKey p (s.codeVa p p.pc + i)) with
        | some b => some b
        | none => some (BitVec.ofNat 8 (w / 2 ^ (8 * i)))) ∧
  (∀ (s : State) (k : Nat) (x : Xlat), s.xlat k = some x → Store.wf none s.tr.xlats = true →
    (x.st = .probe → x.setD = none →
      (∀ e, s.probeFind x = some e → ∃ t, Does (.translationProbe k) s t ∧ Looks s t ∧ t.mem = s.mem ∧ t.xlat k = none ∧
        ((s.ringFind x).isSome = true → t.tr.utlb = s.tr.utlb) ∧
        ((s.ringFind x).isSome = false → (t.utlb x.unit).head? = some e) ∧
        ∀ pid, x.who = .part pid → (t.l1 x.unit x.core).head? = some e) ∧
      (s.probeFind x = none →
        ((∀ e ∈ s.walking x.unit, e.1 = k ∨ e.2.prt ≠ x.prt ∨ e.2.va / 65536 ≠ x.va / 65536) →
          ((s.walking x.unit).length < 16 → Does (.translationProbe k) s (Sends s k x (s.walkStart x.unit x.prt x.va false))) ∧
          (16 ≤ (s.walking x.unit).length → Does (.translationProbe k) s (s.setXlat k (some x)))) ∧
        ((∃ e ∈ s.walking x.unit, e.1 ≠ k ∧ e.2.prt = x.prt ∧ e.2.va / 65536 = x.va / 65536) →
          ∃ e ∈ s.walking x.unit, e.2.prt = x.prt ∧ e.2.va / 65536 = x.va / 65536 ∧
            Does (.translationProbe k) s (s.setXlat k (some { x with st := .joined e.1 }))))) ∧
    (∀ lvl tbl, x.st = .walk lvl tbl → Arrived s x.rd ⟨x.unit, spaUnit tbl, x.prt, 4⟩ →
      (s.shoot x.unit).waits.contains k = false →
      (∀ next, s.walkStep x.prt x.va x.world lvl tbl = .inl next → ∃ t, Does (.pageWalkStep k) s t ∧
        t.xlat k = some { x with
          st := .walk (lvl + 1) next
          rd := s.ids } ∧ Looks s t ∧ t.mem = s.mem) ∧
      (s.walkStep x.prt x.va x.world lvl tbl = .inr .unres →
        ∃ t, Does (.pageWalkStep k) s t ∧ WalkEnds s t k .unres) ∧
      (∀ r l, s.walkStep x.prt x.va x.world lvl tbl = .inr (.fault r l) →
        ∃ t, Does (.pageWalkStep k) s t ∧ WalkEnds s t k (.failed r l)) ∧
      (∀ l spa pte e, s.walkStep x.prt x.va x.world lvl tbl = .inr (.leaf l spa pte e) → e.getLsbD 9 = true →
        x.setD = none → s.served k = [(k, x)] → Does (.pageWalkStep k) s
          ((s.install x (leafTlb x l spa pte e) true).setXlat k none)) ∧
      (∀ l spa pte e, s.walkStep x.prt x.va x.world lvl tbl = .inr (.leaf l spa pte e) → e.getLsbD 9 = false →
        x.setD = none → Does (.pageWalkStep k) s
          (Sends s k x (.update pte e (e ||| 512) (leafTlb x l spa pte e)))) ∧
      (∀ l spa pte e, s.walkStep x.prt x.va x.world lvl tbl = .inr (.leaf l spa pte e) → e.getLsbD 10 = false →
        e.getLsbD 1 = true → x.setD = some (leafTlb x l spa pte e).spa → Does (.pageWalkStep k) s
          (Sends s k x (.update pte e (e ||| 512 ||| 1024) ({ leafTlb x l spa pte e with d := true }))))) ∧
    (∀ pte old new e, x.st = .update pte old new e → Arrived s x.rd ⟨x.unit, spaUnit pte, x.prt, 4⟩ →
      ((s.shoot x.unit).waits.contains k = false →
        (s.pteAt x.prt pte = old → s.served k = [(k, x)] → Does (.adUpdate k) s
          ((((s.pokeK (s.keyAt pte x.prt 0) pte 8 new.toNat).noteWrite x.prt none pte).install x e true).setXlat k none)) ∧
        (s.pteAt x.prt pte ≠ old → Does (.adUpdate k) s (Sends s k x (s.walkStart x.unit x.prt x.va true)))) ∧
      ((s.shoot x.unit).waits.contains k = true → ∃ t, Does (.adUpdate k) s t ∧ Looks s t ∧ t.mem = s.mem ∧
        t.xlat k = none ∧ t.tr.l1 = s.tr.l1 ∧ t.tr.utlb = s.tr.utlb ∧ t.tr.wtlb = s.tr.wtlb))) ∧
  (∀ (s : State) (tk q : Nat) (e : Entry) (g : Nat), s.pkgStopped (unitPkg (tk / 256)) = false →
    (s.team tk).headOf q = some e → e.begun = true → e.done = false →
    e.parked = false → s.xlatWait (.entry tk e.id) = false → e.wants.find? (s.walkable tk e) = some g →
    let t0 := s.team tk
    let u := tk / 256
    let world := (s.partition t0.prt).secure
    (tlbFind (s.wtlb u) t0.prt world (g * 65536) = none → s.xlatFor (.entry tk e.id) (g * 65536) = none →
      ∃ t, Does (.walkAheadTranslate tk q) s t ∧ Looks s t ∧ t.mem = s.mem ∧
        t.xlat s.ids = some ⟨u, 8, t0.prt, world, g * 65536, e.kind, .entry tk e.id, 0, none, .probe, 0⟩) ∧
    (∀ x, tlbFind (s.wtlb u) t0.prt world (g * 65536) = some x →
      (∀ spa slot, s.checkLeaf t0.prt ⟨e.kind, false⟩ x (g * 65536) = .ok spa slot → Does (.walkAheadTranslate tk q) s
        ((s.setWtlb u (tlbPut 1024 x (s.wtlb u))).setEntry tk
          { e with pages := e.pages ++ [⟨x.size, x.va, x.spa, slot, x.n⟩] })) ∧
      (∀ r l n, s.checkLeaf t0.prt ⟨e.kind, false⟩ x (g * 65536) = .fault r l n → g ∈ e.front ∧
        ∃ t f, Does (.walkAheadTranslate tk q) s t ∧ (t.xfq u).wait = (s.xfq u).wait ++ [f] ∧ t.mem = s.mem ∧
          f.who = .entry tk e.id ∧ f.va = x.va * 2 ^ x.size ∧ f.reason = r ∧ f.level = l ∧ f.kind = e.kind)))

/-- A shootdown removes the translations it names, and no other, from every TLB of the unit, at its start and again at its end; it is
busy until the walks and posted requests it waits for have ended; another one, or an invalid command, sets LOST, and one whose
class does not flow waits.  A translation fault is written as a record at TAIL;
HEAD moves no further than TAIL; an answer frees its record, and a part whose last record is answered is READY again, with
denied lanes noted, or for the fetch of an instruction in progress the trap (R43 to R48, R72).  That the model takes the 64 KiB page
of the address, where a fault of a higher level has no page size, and code 0 for the KIND of a `pass`, is its choice (log 27).

Completes: `shootdownComplete`, `xfqRecordWrite`, `shootdownPage`, `shootdownAll`, `sdcmdInvalid`, `xfqptrHeadWrite`,
`xfrespRetry`, `xfrespDeny`. -/
def Obligations.TranslationQueueEvents : Prop :=
  ∀ (s : State) (u : Nat),
    let sh := s.shoot u
    let q := s.xfq u
    let sent := fun (prt : Nat) => s.linked ⟨unitPkg u * 32 + 16, u, prt, 4⟩ = true
    let starts := fun (t : State) => (t.shoot u).busy = true ∧ t.parts = s.parts ∧ t.mem = s.mem
    (sh.busy = false → ∀ part size, size < 3 → sent (part % 8) → ∃ t, Does (.shootdownPage u part size) s t ∧ starts t ∧
      Swept s t u (fun e => e.prt = part % 8 ∧ e.size = (if size = 0 then 16 else if size = 1 then 28 else 40) ∧
        e.va = (s.ureg u 0x20048).toNat / 65536 * 65536 / 2 ^ e.size)) ∧
    (sh.busy = false → ∀ part, sent (part % 8) → ∃ t, Does (.shootdownAll u part) s t ∧ starts t ∧
      Swept s t u (fun e => e.prt = part % 8)) ∧
    (sh.busy = true → ∀ part size, size < 3 → sent (part % 8) →
      Does (.shootdownPage u part size) s (s.setShoot u { sh with lost := true }) ∧
      Does (.shootdownAll u part) s (s.setShoot u { sh with lost := true })) ∧
    (∀ part size, size < 3 → ¬ sent (part % 8) → Does (.shootdownPage u part size) s s ∧ Does (.shootdownAll u part) s s) ∧
    (∀ part size, 3 ≤ size → Does (.shootdownPage u part size) s (s.setShoot u { sh with lost := true })) ∧
    (∀ cmd : Word, cmd.getLsbD 7 = true → sh.busy = true ∨ cmd.getLsbD 4 = true ∨
        cmd.extractLsb' 3 4 = 0b1100 → Does (.sdcmdInvalid u cmd) s (s.setShoot u { sh with lost := true })) ∧
    (sh.busy = true → (∀ k ∈ sh.waits, s.xlat k = none) → (∀ k ∈ sh.posts, s.preq k = none) →
      ∃ t, Does (.shootdownComplete u) s t ∧ (t.shoot u).busy = false ∧ (t.shoot u).done = (sh.done + 1) % 65536 ∧
        t.parts = s.parts ∧ t.mem = s.mem ∧ Swept s t u (fun e => e.prt = sh.prt ∧
          (sh.all = true ∨ e.size = sh.size ∧ e.va = sh.va / 2 ^ e.size))) ∧
    (∀ f fs, q.wait = f :: fs →
      let i := q.tail % 64
      let slot := Store.get XSlot.empty q.slots i
      slot.busy = false → ∃ t, Does (.xfqRecordWrite u) s t ∧ (t.xfq u).tail = (q.tail + 1) % 128 ∧
        (t.xfq u).wait = fs ∧ (t.xfq u).outst = q.outst + 1 ∧ t.parts = s.parts ∧ t.mem = s.mem ∧
        Store.get XSlot.empty (t.xfq u).slots i = ⟨true, slot.uses + 1, f.who, f.lanes, f.va, f.kind == .fetch⟩ ∧
        ∀ n, n < 4 → t.ureg u (0x21000 + 32 * i + 8 * n) =
          BitVec.ofNat 64 (fieldOf (State.xfRecord f (i + 64 * (slot.uses % 1024))) (8 * n) 8)) ∧
    (∀ h, let n := (h % 128 + 128 - q.head) % 128
      let m := (q.tail + 128 - q.head) % 128
      (n ≤ m → Does (.xfqptrHeadWrite u h) s (s.setXfq u { q with head := h % 128 })) ∧
      (m < n → Does (.xfqptrHeadWrite u h) s (s.setXfq u { q with err := true }))) ∧
    (∀ park pid i slot, s.xfSlot u (park % 65536) = some (i, slot) → slot.who = .part pid →
      (s.part pid).live = true → (s.part pid).st = .parked → (s.part pid).pend = [] →
      (s.xfFree u i slot).parkedOn u pid = false →
      (∃ t, Does (.xfrespRetry u park) s t ∧ (t.part pid).st = .ready ∧ (t.part pid).pc = (s.part pid).pc ∧
        (t.part pid).umask = (s.part pid).umask ∧ (t.part pid).mi = (s.part pid).mi ∧ t.mem = s.mem) ∧
      ∃ t, Does (.xfrespDeny u park) s t ∧ (t.part pid).st = .ready ∧ (t.part pid).pc = (s.part pid).pc ∧
        (slot.fetch = false ∨ (s.part pid).mi.on = false →
          ∀ l, l < 16 → slot.lanes.getLsbD l = true → ∃ va, (l, va) ∈ (t.part pid).mi.denied) ∧
        (slot.fetch = true → (s.part pid).mi.on = true → ∃ vas, (t.part pid).trapq =
          some ⟨.protection, (s.part pid).pc, slot.lanes, vas, (s.part pid).pc⟩) ∧ t.mem = s.mem) ∧
    (∀ park, s.xfSlot u (park % 65536) = none →
      Does (.xfrespRetry u park) s (s.setXfq u { q with err := true }) ∧
      Does (.xfrespDeny u park) s (s.setXfq u { q with err := true }))

/-- A departing part sends FLUSH, gets a departure buffer entry with the registers its frame carries, and is injected once
its requests are acknowledged, its class is not stopped and its limiter allows; a frame that is next on its route is placed,
queued, merged, held, or discarded when its squad is gone; waiting and parked frames are taken up again; register groups are
fetched back, with the control record of a part in a handler; a growth request is served in its turn or the part evicted; STOP and
GO of flow control between a sender and a receiver (R49 to R63, R69, R71, R72, R74, R152, R156, R157, R301, R387, R408, R415).  That
one link stands for each route is the model's choice (log 26), and so is where a frame waits that is not the next of an order log,
and that requests of a merged or split part belong to the parts it came from (log 28).

Completes: `depart`, `departureBufferGrant`, `frameInject`, `frameArrival`, `frameDispatch`, `frameUnpark`,
`frameFetch`, `frameFetchData`, `growthRequest`, `flowStop`, `flowGo`. -/
def Obligations.PassingEvents : Prop :=
  (∀ (s : State) (pid : Nat),
    let p := s.part pid
    let runs := s.pkgStopped (unitPkg p.unit) = false
    (p.live = true → p.st = .departing 0 → p.pend = [] → runs → ∃ t, Does (.depart pid) s t ∧
      t.part pid = { p with st := .departing 1 } ∧ t.mem = s.mem ∧ t.teams = s.teams ∧
      ∀ u ∈ s.outHomes pid, ∃ k, t.msg k = some (.flushMsg pid p.unit p.core u)) ∧
    (p.live = true → p.st = .departing 1 → runs →
      (s.parts.filter (fun e => e.2.unit == p.unit && e.2.core == p.core && e.2.st == .departing 2)).length < 32 →
      ∃ t, Does (.departureBufferGrant pid) s t ∧ Framed p (t.part pid) ∧ t.mem = s.mem ∧ t.teams = s.teams) ∧
    (p.live = true → p.st = .departing 2 → s.outstanding pid = [] → runs →
      let key := (p.unit * 8 + p.core) * 8 + p.prt
      let level := Store.get 0 s.fab.level key
      let dst := p.dest.unitOf
      let sent := fun (c0 : Bool) => { p with
        st := .travelling
        cls0 := c0
        seq := s.ids }
      let starts := fun (cls : Nat) => p.unit = dst ∨
        s.stopped p.unit dst p.prt cls = false ∧ s.hasSlots ⟨p.unit, dst, p.prt, cls⟩ = true
      (p.lat = false ∨ s.c0Rate p = 0 → starts 1 →
        ∃ t, Does (.frameInject pid) s t ∧ t.part pid = sent false ∧ t.fab.level = s.fab.level ∧
          t.via s.ids = some ⟨p.unit, dst, p.prt, 1⟩) ∧
      (p.lat = true → s.c0Rate p ≠ 0 → starts 0 →
        p.flits ≤ level ∨ (s.c0Burst p.unit p.core p.prt < p.flits ∧ s.c0Burst p.unit p.core p.prt ≤ level) →
        ∃ t, Does (.frameInject pid) s t ∧ t.part pid = sent true ∧ Store.get 0 t.fab.level key = level - p.flits ∧
          t.via s.ids = some ⟨p.unit, dst, p.prt, 0⟩)) ∧
    (let u := p.dest.unitOf
      let waited := p.st = .queued ∧ p.unlogged = true
      p.live = true → p.dest ≠ .none → s.pkgStopped (unitPkg u) = false →
      waited ∨ p.st = .travelling ∧ s.arrives p.seq = true ∧ s.arrStopped u p.prt p.cls0 = false →
      let q := { p with unlogged := false }
      let s1 := ((s.setVia p.seq none).leaveQueue pid u).setPart pid q
      (s.orphan p = true → (∀ v, p.dest = .unit v ∨ p.dest = .evict v ∨ (∃ c h, p.dest = .host v c h) →
          Does (.frameArrival pid) s (s1.endPart pid)) ∧
        ∀ v n o m c, p.dest = .hold v n o m c → Does (.frameArrival pid) s ((s1.freeHold v n).endPart pid)) ∧
      (s.orphan p = false →
        let ent := State.orderEntry p 0 p.amask (match p.dest with | .hold _ _ _ _ c => c | _ => p.pc)
        let s2 := s1.order p.prt u ent
        (s.orderAllows p.prt u ent = true →
          (p.dest = .unit u ∨ p.dest = .evict u → Does (.frameArrival pid) s (s2.arrive pid u)) ∧
          (∀ c h, p.dest = .host u c h →
            ((s.team p.team).frozen = false → Does (.frameArrival pid) s (s2.merge pid h true)) ∧
            ((s.team p.team).frozen = true → Does (.frameArrival pid) s (s2.enqueue pid u))) ∧
          (∀ n o m c, p.dest = .hold u n o m c →
            let held := { q with
              st := .blocked (.held o m c (some n)) false
              unit := u
              dest := .none }
            Does (.frameArrival pid) s
              (((s2.setPart pid held).writeFrame { held with pc := c } (holdSpa u n)).evalWaits p.team))) ∧
        (s.orderAllows p.prt u ent = false →
          (waited → Does (.frameArrival pid) s s) ∧
          (¬ waited → Does (.frameArrival pid) s ((s1.setPart pid { p with unlogged := true }).enqueue pid u))))) ∧
    (∀ d w k arrived, p.live = true → p.st = .growing d w k arrived → s.growAhead p = false → runs →
      let out := ∃ t, Does (.growthRequest pid) s t ∧ (t.part pid).st = .departing 0 ∧
        (t.part pid).dest = .evict p.unit ∧ (t.part pid).ask = 0 ∧ t.mem = s.mem ∧ t.teams = s.teams
      (arrived = false → (((s.setPart pid (State.asking p d w k)).growFits pid).2 = true →
          Does (.growthRequest pid) s (s.setPart pid { p with
            st := .ready
            lastIssue := s.cyc })) ∧
        (((s.setPart pid (State.asking p d w k)).growFits pid).2 = false → out)) ∧
      (arrived = true → (s.usedGroups p.unit p.core ≤ 2048 → p.h = false → p.after = none →
          Does (.growthRequest pid) s (s.setPart pid { p with
            st := .ready
            after := none
            ask := 0
            lastIssue := s.cyc })) ∧
        ((s.growFits pid).2 = false → out))) ∧
    (∀ k lo hi ctl, s.fetchMsg pid = some (k, lo, hi, ctl) → s.arrives k = true → s.spillAhead p = false →
      s.fetchErr p lo hi ctl = false →
      ∃ t vals c, Does (.frameFetch pid) s t ∧ t.msg s.ids = some (.fetchData pid lo hi ctl vals c) ∧
        (t.part pid).pend = p.pend.map (fun e => if e.id == k then { e with id := s.ids } else e) ∧
        (∀ g j l, lo ≤ g → g < hi → j < 4 → l < 16 → p.amask.getLsbD l = true →
          (vkey (4 * g + j) l, BitVec.ofNat 32 (s.peekK (s.keyAt (p.spill * 65536) p.prt 0)
            (p.spill * 65536 + 256 + 256 * g + 16 * l + 4 * j) 4)) ∈ vals) ∧
        (ctl ≠ 0 → c = leBytes 136 (s.peekK (s.keyAt (p.spill * 65536) p.prt 0) (p.spill * 65536) 136))) ∧
    (∀ k lo hi ctl vals c, s.fab.msgs.find? (fun e => match e.2 with | some (.fetchData q _ _ _ _ _) => q == pid | _ => false) =
        some (k, some (.fetchData pid lo hi ctl vals c)) → s.arrives k = true → p.live = true → p.st = .switched →
        (∀ e ∈ p.pend, e.id = k) →
      let q := { p with
        pend := []
        fetching := 0
        st := .ready
        lastIssue := s.cyc }
      (ctl = 0 → Does (.frameFetchData pid) s ((s.dropMsg k).setPart pid { q with
        vregs := if p.resLo = hi then vals.foldl (fun m v => Store.set 0 m v.1 v.2) p.vregs else p.vregs
        resLo := if p.resLo = hi then lo else p.resLo })) ∧
      (ctl ≠ 0 → ∃ t, Does (.frameFetchData pid) s t ∧ t.part pid = { q with
          tpc := BitVec.ofNat 32 (fieldOf c 0 4)
          tlm := BitVec.ofNat 16 (fieldOf c 4 2)
          tcause := fieldOf c 6 1
          tva := (t.part pid).tva } ∧ t.mem = s.mem ∧
        ∀ l, l < 16 → Store.get 0 (t.part pid).tva l =
          if ctl.getLsbD l then BitVec.ofNat 64 (fieldOf c (8 + 8 * l) 8) else Store.get 0 p.tva l))) ∧
  (∀ (s : State) (u i : Nat),
    let moves := fun (j : Nat) => !(s.team (s.part j).team).frozen && !(s.part j).unlogged
    let queue := (s.arrQueue u).filter moves
    let parked0 := (s.parking u).filter (fun j => moves j && (s.part j).cls0)
    let wait := queue.filter (fun j => (s.part j).cls0) ++ queue.filter (fun j => !(s.part j).cls0 &&
      (isStack u && parked0.isEmpty || !isStack u && parked0.all (fun k => (s.part k).prt != (s.part j).prt)))
    let p := s.part i
    let s1 := s.setQueue u ((s.arrQueue u).erase i)
    (s.pkgStopped (unitPkg u) = false → wait.find? (fun i =>
        s.orphan (s.part i) || (s.part i).dest.merges || (s.pickCore u (s.part i).prt).isSome) = some i →
      (s.orphan p = true → Does (.frameDispatch u) s (s1.endPart i)) ∧
      (s.orphan p = false → ∀ a b h, p.dest = .host a b h → Does (.frameDispatch u) s (s1.merge i h true)) ∧
      (∀ c, s.orphan p = false → (∀ a b h, p.dest ≠ .host a b h) → s1.pickCore u p.prt = some c →
        Does (.frameDispatch u) s (s1.place i u c))) ∧
    (((s.parking u).filter (fun j => !(s.part j).unlogged)).find? (fun i => s.queueRoom u (s.part i).prt (s.part i).cls0) =
        some i →
      (s.badFrame i = false → Does (.frameUnpark u) s
        (((s.setParking u ((s.parking u).erase i)).setQueue u (s.arrQueue u ++ [i])).parkStops u p.prt)) ∧
      (s.badFrame i = true → Does (.frameUnpark u) s s)) ∧
    (∀ dst part cls, part < 8 → cls < 8 → dst < 2048 →
      (∃ t, Does (.flowStop ⟨u, dst⟩ part cls) s t ∧ t.stopped u dst part cls = true ∧ t.parts = s.parts ∧ t.mem = s.mem ∧
        ∀ a b n c, b < 2048 → n < 8 → c < 8 → ¬ (a = u ∧ b = dst ∧ n = part ∧ c = cls) →
          t.stopped a b n c = s.stopped a b n c) ∧
      ∃ t, Does (.flowGo ⟨u, dst⟩ part cls) s t ∧ t.stopped u dst part cls = false ∧ t.parts = s.parts ∧ t.mem = s.mem ∧
        ∀ a b n c, b < 2048 → n < 8 → c < 8 → ¬ (a = u ∧ b = dst ∧ n = part ∧ c = cls) →
          t.stopped a b n c = s.stopped a b n c))

/-- A home performs a posted store that is next on its route, acknowledges performed requests 128 cycles later or on FLUSH,
and an acknowledged request is gone.  A fault record goes to its team's collector and a notice to the part, whose DEFER count
rises; at its next boundary outside a handler the part takes STORE_FAULT_DEFERRED with the oldest record of its squad (R66 to
R68, R71, R344 to R350).  That a store into a data unit never written under a key keeps the plain bytes beside it, the disjunct
`tagAt = 0`, is the model's choice (log 8), and so is that the collector gives its lowest free slot (log 39).

Completes: `flush`, `postedRequest`, `ackTimer`, `acknowledgement`, `faultRecordArrival`, `faultNotice`,
`storeFaultDeferred`, `deferralNotice`. -/
def Obligations.PostedEvents : Prop :=
  (∀ (s : State) (k : Nat) (r : PReq), s.preq k = some r →
    (∀ e l x, r.phase = .flight → r.kind = .stp → r.elems = [e] → e.aop = none → e.vals = [(l, x)] →
      s.arrives k = true → s.earlierInFlight k r = false → s.following r.prt r.home = [] →
      s.keyAt e.spa r.prt e.slot ≠ 0 → s.tagAt e.spa = 0 ∨ s.tagAt e.spa = s.keyAt e.spa r.prt e.slot →
      ∃ t q, Does (.postedRequest k) s t ∧ t.peek e.spa e.w = x.toNat % 2 ^ (8 * e.w) ∧
        (∀ b, b < e.spa ∨ e.spa + e.w ≤ b → t.byte b = s.byte b) ∧ t.preq k = some q ∧ q.phase ≠ .flight ∧
        t.parts = s.parts ∧ t.teams = s.teams) ∧
    (Store.wf none s.fab.posted = true → r.pid ∈ r.owners → r.phase = .performed → r.viaRec = false →
      r.doneAt + 128 ≤ s.cycAt r.home →
      ∃ t n, Does (.ackTimer r.pid r.home) s t ∧ t.preq k = some { r with
          phase := .acking
          ack := n } ∧ t.via n = some ⟨r.home, r.unit, r.prt, 4⟩ ∧ t.parts = s.parts ∧ t.mem = s.mem) ∧
    (r.phase = .acking → s.arrives r.ack = true →
      Does (.acknowledgement k) s (((s.release k).setVia r.ack none).teamEnd r.team) ∧ (s.release k).preq k = none)) ∧
  (∀ (s : State) (k pid u c home : Nat), s.msg k = some (.flushMsg pid u c home) → s.arrives k = true →
    Store.wf none s.fab.posted = true →
    (∀ j r, s.preq j = some r → pid ∈ r.owners → r.home = home → j < k → r.phase ≠ .flight) →
    ∃ t, Does (.flush k) s t ∧ t.msg k = none ∧ t.parts = s.parts ∧ t.mem = s.mem ∧ t.teams = s.teams ∧
      ∀ j r, s.preq j = some r → pid ∈ r.owners → r.home = home → j < k → r.phase = .performed → r.viaRec = false →
        ∃ n, t.preq j = some { r with
          phase := .acking
          ack := n }) ∧
  (∀ (s : State) (k tk : Nat) (r : FRec), s.msg k = some (.frec tk r none none) → s.arrives k = true →
    (s.team tk).recs.length = 64 →
    Does (.faultRecordArrival k) s (((s.dropMsg k).storeRecord tk r).teamEnd tk)) ∧
  (∀ (s : State) (k tk q pid : Nat) (r : FRec), s.msg k = some (.frec tk r (some q) (some pid)) → s.arrives k = true →
    (s.team tk).recs.length ≠ 64 →
    Does (.faultRecordArrival k) s (((((s.dropMsg k).storeRecord tk r).post (.notice pid q)).assignRecord tk r).teamEnd tk)) ∧
  (∀ (s : State) (tk n : Nat) (r : FRec), n < 64 → (∀ x ∈ (s.team tk).recs, x.slot ≠ n) →
    (∀ m, m < n → ∃ x ∈ (s.team tk).recs, x.slot = m) →
    ((s.storeRecord tk r).team tk).recs = (s.team tk).recs ++ [{ r with
      slot := n
      order := (s.team tk).recOrder }]) ∧
  (∀ (s : State) (k pid q : Nat), s.msg k = some (.notice pid q) → s.arrives k = true →
    (∀ e ∈ (s.dropMsg k).fab.msgs, (∀ t r i, e.2 ≠ some (.frec t r (some q) i)) ∧ (∀ i, e.2 ≠ some (.notice i q))) →
    let u := (s.dropMsg k).acked q
    let p := u.part pid
    p.live = true →
    ((∀ n, p.st ≠ .departing n) → Does (.faultNotice k) s (u.setPart pid { p with defer := p.defer + 1 })) ∧
    (∀ n, p.st = .departing n → Does (.faultNotice k) s (u.post (.deferral pid)))) ∧
  (∀ (s : State) (k pid : Nat), s.msg k = some (.deferral pid) → s.arrives k = true → (s.part pid).live = true →
    Does (.deferralNotice k) s ((s.dropMsg k).setPart pid { s.part pid with defer := (s.part pid).defer + 1 })) ∧
  (∀ (s : State) (pid : Nat) (r : FRec),
    let p := s.part pid
    p.live = true → p.st = .ready → p.defer ≠ 0 → p.umask = 0 → p.mi.on = false → p.restrict = none → p.pend = [] →
    8 ≤ p.w → Enabled s p 12 → Room s pid (p.depth + 2) p.w Part.landAll → r ∈ (s.team p.team).recs → r.sq = p.sq →
    (∀ x ∈ (s.team p.team).recs, x ≠ r → x.sq = p.sq → r.order < x.order) →
    Store.get 0 (s.team p.team).drops p.sq = 0 →
    ∃ t, Does (.storeFaultDeferred pid) s t ∧ r ∉ (t.team p.team).recs ∧
      Entered { p with defer := p.defer - 1 } 12 (fieldOf (s.launchOf p).header 36 4) p.pc r.lanes (fun l =>
        if l = 0 then r.va else if l = 1 then r.pc.setWidth 64 else if l = 2 then r.tick
        else if l = 3 then BitVec.ofNat 64 (r.cause + 256 * r.kind) else 0) (t.part pid))

end
section

open Sys2Proof

open Sys2Proof.Machine Sys2Proof.Claims

/-- The barrier unit answers a JOIN at a closed huddle CLOSED, refuses one at another level or with another window, makes the
first part the host, sends later ones to it, and completes the huddle when every expected lane has arrived or exited; the
core acts on the answer, and a part that is sent to another core reads its live set first; an exit and a kill reach the barrier
unit and the cores; arrivals complete phases; a stage's bit is inverted; a scrum arrival opens an entry of the latch, completes
it, or makes it fail.  A posted bind record creates its squads, in ascending number, 2048 ticks before its start; messages come
in the order of their route (R51, R55, R71, R138, R152 to R154, R159, R161, R162, R313, R314, R334, R336, R354).  That the squads of a record
wait until the parking area has room for all of them, is the model's choice (log 28).

Completes: `squadCreate`, `joinRequest`, `joinReply`, `huddleFinalMask`, `exitNotice`, `barrierArrival`, `stageGo`,
`stageWait`, `latchArrival`, `killDelivery`, `restartableClear`, `stpost`. -/
def Obligations.BarrierEvents : Prop :=
  (∀ (s : State) (k pid h : Nat), s.msg k = some (.join pid h) → s.arrives k = true → s.earlierMsg k pid = false → (s.part pid).live = true →
    let p := s.part pid
    let e := s.huddle p h
    let host := s.part e.hpid
    let agrees := e.level + 1 = p.sdepth ∧
      (e.hostv = true → host.w = p.w ∧ host.depth = p.depth ∧ host.h = p.h)
    let full := e.expect &&& ~~~((e.arrived ||| p.amask) ||| (s.team p.team).exitedOf p.sq) = 0
    let joined := { e with arrived := e.arrived ||| p.amask }
    (e.isOpen = false → Does (.joinRequest k) s (s.answerMsg k pid (.joinReply pid h 0 0 0))) ∧
    (e.isOpen = true → ¬ agrees → Does (.joinRequest k) s (s.answerMsg k pid (.joinReply pid h 1 0 0))) ∧
    (e.isOpen = true → agrees → full → e.hostv = false →
      Does (.joinRequest k) s ((s.setHuddle p h Huddle.closed).answerMsg k pid (.joinReply pid h 2 e.level 0))) ∧
    (e.isOpen = true → agrees → full → e.hostv = true → Does (.joinRequest k) s
      (((s.setHuddle p h Huddle.closed).answerMsg k pid (.joinReply pid h 4 e.level e.hpid)).post
        (.finalMask e.hpid (e.arrived ||| p.amask) e.level))) ∧
    (e.isOpen = true → agrees → ¬ full → e.hostv = false → Does (.joinRequest k) s
      ((s.setHuddle p h { joined with
        hostv := true
        host := p.unit * 8 + p.core
        hpid := pid }).answerMsg k pid (.joinReply pid h 3 e.level 0))) ∧
    (e.isOpen = true → agrees → ¬ full → e.hostv = true →
      Does (.joinRequest k) s ((s.setHuddle p h joined).answerMsg k pid (.joinReply pid h 4 e.level e.hpid)))) ∧
  (∀ (s : State) (k pid h kind level host : Nat),
    s.fab.msgs.find? (fun e => match e.2 with | some (.joinReply q _ _ _ _) => q == pid | _ => false) =
      some (k, some (.joinReply pid h kind level host)) → s.arrives k = true → (s.part pid).live = true →
    let p := { s.part pid with pend := [] }
    let u := s.dropMsg k
    (kind = 0 → Does (.joinReply pid) s (u.setPart pid (woken p s.cyc (p.pc + 1)))) ∧
    (kind = 1 → Does (.joinReply pid) s ((u.setPart pid { p with
        st := .ready
        lastIssue := s.cyc }).trapAt pid .branchNonuniform p.amask [])) ∧
    (kind = 2 → level < 16 → ∃ x : Word, x.toNat % 16 = level ∧
      (∀ b, 4 ≤ b → b < 32 → x.getLsbD b = (decide (b < 4 + level) && p.split.getLsbD b)) ∧
      Does (.joinReply pid) s (u.setPart pid { woken p s.cyc (p.pc + 1) with split := x })) ∧
    (kind = 3 → Does (.joinReply pid) s (u.setPart pid { p with
      st := .joining h level none
      restrict := none })) ∧
    (kind = 4 → (s.part host).unit = p.unit → (s.part host).core = p.core →
      Does (.joinReply pid) s ((u.setPart pid p).merge pid host false)) ∧
    (kind = 4 → ¬ ((s.part host).unit = p.unit ∧ (s.part host).core = p.core) → p.st = .switched →
      s.xlatWait (.part pid) = false → p.mi.denied = [] →
      ∀ m, s.liveMask pid p.lsi = .inl m → ∃ t, Does (.joinReply pid) s t ∧ t.msg k = none ∧ t.mem = s.mem ∧
        t.teams = s.teams ∧ t.part pid = { p with
          st := .departing 0
          dest := .host (s.part host).unit (s.part host).core host
          restrict := none
          carry := m })) ∧
  (∀ (s : State) (k pid level h : Nat) (m : Mask) (x : Option Mask),
    s.fab.msgs.find? (fun e => match e.2 with | some (.finalMask q _ _) => q == pid | _ => false) =
      some (k, some (.finalMask pid m level)) → s.arrives k = true → (s.part pid).live = true → (s.part pid).st = .joining h level x →
    (m &&& ~~~(s.part pid).amask ≠ 0 → Does (.huddleFinalMask pid) s
      ((s.dropMsg k).setPart pid { s.part pid with st := .joining h level (some m) })) ∧
    (m &&& ~~~(s.part pid).amask = 0 → (s.team (s.part pid).team).frozen = false →
      ∃ t, Does (.huddleFinalMask pid) s t ∧
        (t.part pid).st = (if (s.part pid).pend.isEmpty then .ready else .switched) ∧ (t.part pid).pc = (s.part pid).pc + 1 ∧
        (t.part pid).amask = (s.part pid).amask ∧ (t.part pid).vregs = (s.part pid).vregs ∧ t.msg k = none)) ∧
  (∀ (s : State) (k tk sq : Nat) (m : Mask), s.msg k = some (.exitMask tk sq m) → s.arrives k = true →
    ∃ u : State, Does (.exitNotice k) s (u.exitLanes tk sq m) ∧ u.msg k = none ∧ u.parts = s.parts ∧ u.teams = s.teams ∧
      u.mem = s.mem) ∧
  (∀ (s : State) (k pid tk sq id : Nat) (m : Mask) (wait : Bool), s.msg k = some (.arrive pid tk sq id m wait) →
    s.arrives k = true →
    s.earlierMsg k pid = false → (Store.get Bar.fresh (s.team tk).bars id).fullFor sq m = false → m ≠ 0 →
    ∃ t, Does (.barrierArrival k) s t ∧ t.msg k = none ∧ t.mem = s.mem ∧
      let b := (Store.get Bar.fresh (s.team tk).bars id).record sq m
      t.team tk = ({ s.team tk with bars := Store.set Bar.fresh (s.team tk).bars id b } : Team).barAll) ∧
  (∀ (s : State) (k pid tk ring stage : Nat), s.msg k = some (.sgo pid tk ring stage) → s.arrives k = true →
    s.earlierMsg k pid = false →
    ∃ t, Does (.stageGo k) s t ∧ t.msg k = none ∧ t.mem = s.mem ∧
      (t.team tk).stages = (s.team tk).stages ^^^ BitVec.ofNat 64 (2 ^ (8 * ring + stage))) ∧
  (∀ (s : State) (k pid tk ring stage : Nat) (f : Bool), s.msg k = some (.swt pid tk ring stage f) →
    s.arrives k = true → s.earlierMsg k pid = false → Does (.stageWait k) s ((s.dropMsg k).evalWaits tk)) ∧
  (∀ (s : State) (k pid n word : Nat) (ops : List Word) (act : Mask) (idx : List (Option Nat)) (e : Entry),
    s.fab.msgs.find? (fun e => match e.2 with | some (.latchAt q _ _ _ _ _ _) => q == pid | _ => false) =
      some (k, some (.latchAt pid n word ops act idx e)) → s.arrives k = true → (s.part pid).live = true →
    (s.part pid).st = .latched →
    let p := s.part pid
    let t := s.team p.team
    let me := (p.sq, pid, act, idx)
    (t.latch.find? (fun x => x.gang == p.gang && x.count == n) = none → t.latch.length < 64 →
      Does (.latchArrival pid) s (((s.dropMsg k).setTeam p.team { t with
        latch := t.latch ++ [⟨p.gang, n, word, ops, e, [me], false⟩] }).latchSweep p.team)) ∧
    (∀ x, t.latch.find? (fun x => x.gang == p.gang && x.count == n) = some x → x.failed = false → x.word = word →
      x.ops = ops → (∀ q ∈ gangList x.gang, q = p.sq ∨ ∃ a ∈ x.arrived, a.1 = q) →
      let x1 : Latch := { x with
        arrived := x.arrived ++ [me]
        failed := false }
      let t1 : Team := { t with
        latch := t.latch.map (fun y => if y.gang == x.gang && y.count == x.count then x1 else y) }
      Does (.latchArrival pid) s (((s.dropMsg k).setTeam p.team t1).latchDone p.team x1)) ∧
    (∀ x, t.latch.find? (fun x => x.gang == p.gang && x.count == n) = some x → x.failed = true ∨ x.word ≠ word ∨ x.ops ≠ ops →
      let x1 : Latch := { x with
        arrived := x.arrived ++ [me]
        failed := true }
      let t1 : Team := { t with
        latch := t.latch.map (fun y => if y.gang == x.gang && y.count == x.count then x1 else y) }
      Does (.latchArrival pid) s (((s.dropMsg k).setTeam p.team t1).latchSweep p.team))) ∧
  (∀ (s : State) (k tk sq u : Nat), s.msg k = some (.kill tk sq (u + 1)) → s.arrives k = true → Store.wf Part.absent s.parts = true →
    ∃ t, Does (.killDelivery k) s t ∧ ∀ pid, let p := s.part pid
      p.live = true → p.team = tk → (64 ≤ sq ∨ p.sq = sq) → p.unit = u →
        (p.st = .ready → (t.part pid) = { p with dying := true }) ∧
        (p.st = .parked ∨ p.st = .queued ∨ p.st = .latched → t.part pid = Part.absent)) ∧
  (∀ (s : State) (k tk sq : Nat), s.msg k = some (.kill tk sq 0) → s.arrives k = true → ∃ t, Does (.killDelivery k) s t ∧
    ∀ pid, let p := s.part pid
      p.live = true → p.team = tk → (sq < 64 ∧ p.sq = sq ∨ 64 ≤ sq ∧ p.sq < (s.team tk).sqn) →
        ∃ j, t.msg j = some (.kill tk sq (p.unit + 1))) ∧
  (∀ (s : State) (pid : Nat),
    let p := s.part pid
    p.live = true → p.mi.sent = true → p.restartable = true → ∃ t, Does (.restartableClear pid) s t ∧
      t.part pid = { p with
        restartable := false
        mi := { p.mi with sent := false } } ∧ (t.team p.team).restartable = false ∧ t.mem = s.mem ∧
      ∀ k, k ≠ pid → t.part k = s.part k) ∧
  (∀ (s : State) (u r : Nat),
    let n := r % 256
    let lo := s.ureg u (0x61000 + 16 * n)
    let hi := s.ureg u (0x61008 + 16 * n)
    let posted := s.mg.binds.any (fun x => x.unit == u && x.slot == n)
    let tk := u * 256 + (hi.extractLsb' 32 8).toNat
    (posted = true → lo.toNat ≤ (s.tickAt u).toNat + 2048 → (s.team tk).v = true →
      s.parkRoom u (s.team tk).prt (hi.extractLsb' 56 6).toNat = true →
      (∀ i, i < (hi.extractLsb' 56 6).toNat → (s.team tk).ended.contains ((hi.extractLsb' 48 5).toNat + i) = false) →
      ∃ (t : State) (id : Nat → Nat), Does (.squadCreate u r) s t ∧ (∀ i, s.ids + i ≤ id i) ∧ (∀ i j, i < j → id i < id j) ∧
      ∀ i, i < (hi.extractLsb' 56 6).toNat →
        let q := t.part (id i)
        q.live = true ∧ q.team = tk ∧ q.sq = (hi.extractLsb' 48 5).toNat + i ∧
          q.pc = hi.extractLsb' 0 32 ∧ q.amask = 0xFFFF ∧ q.w = 8 * ((hi.extractLsb' 62 2).toNat + 1) ∧ q.depth = 0 ∧
          q.h = false ∧ q.start = lo ∧ Store.get 0 q.sregs 3 = BitVec.ofNat 32 q.sq ∧
          (∀ n, 4 ≤ n → Store.get 0 q.sregs n = 0)) ∧
    (lo.toNat > (s.tickAt u).toNat + 2048 → Does (.squadCreate u r) s s) ∧
    (posted = true → Does (.stpost u r) s (s.setUreg u 0x60008 (s.ureg u 0x60008 ||| 0x200))) ∧
    (posted = false → Does (.stpost u r) s { s with mg := { s.mg with binds := s.mg.binds ++ [⟨u, n⟩] } }))

end
namespace Sys2Proof.Claims

open Sys2Proof.Machine

/-- The head `e` of queue `q` may begin: the unit runs in this cycle, the entry has not begun, and no earlier entry names its tile
(R276, R294, R408, R423). -/
def Ready (s : State) (tk q : Nat) (e : Entry) : Prop :=
  s.unitRuns (tk / 256) = true ∧ (s.team tk).headOf q = some e ∧ e.begun = false ∧ e.done = false ∧ (s.team tk).tileFree e = true

/-- The bytes of `[a, a + n)` are zero, and every byte outside it is as it was. -/
def Zeroed (s t : State) (a n : Nat) : Prop :=
  ∀ b, t.byte b = if a ≤ b ∧ b < a + n then 0 else s.byte b

/-- Every byte outside `[a, a + n)` is as it was. -/
def Outside (s t : State) (a n : Nat) : Prop := ∀ b, b < a ∨ a + n ≤ b → t.byte b = s.byte b

/-- First byte of accumulator tile `n` of a team (R23, R89). -/
def tileBase (s : State) (tk n : Nat) : Nat := tileSpa (tk / 256) ((s.team tk).tilemap.toNat / 2 ^ (5 * n) % 32)

/-- Rows 0 to `m - 1` of tile `n` hold `f`, row by row and column by column (R89, R90). -/
def TileIs (t : State) (tk n m : Nat) (f : Nat → Nat → Nat) : Prop :=
  ∀ i j, i < m → j < 256 → t.getTile tk n i j = f i j % 2 ^ 32

/-- A fault record of the command's team with cause `c` is on its way to the collector (R277, R345). -/
def Reported (t : State) (tk : Nat) (c : Cause) : Prop := ∃ k r, t.msg k = some (.frec tk r none none) ∧ r.cause = causeCode c

/-- The head of the queue has performed all it writes. -/
def HeadDone (t : State) (tk q : Nat) (e : Entry) : Prop :=
  (t.team tk).headOf q = some { e with
    begun := true
    done := true }

end Sys2Proof.Claims

section

open Sys2Proof

open Sys2Proof.Machine Sys2Proof.Claims

/-- A command that arrives has its record read and is appended when it is the first that waits and its queues have room, refused
at once when its record lies in a stationary macro; a join leaves when it heads every queue it names, and any other head when it
is done; a copy or a gather that begins waits with its chunks, refused when its record, its list or its ranges fail a check; the
bytes of a chunk stand at their destinations when its bit is set, in a macro that is not stationary (R38, R69, R71, R83, R126, R276,
R277, R280, R297 to R299, R302, R408).  The disjunct `tagAt = 0`, that a data unit never written under a key keeps its plain bytes,
is the model's choice (log 8).

Completes: `commandAppend`, `copyBegin`, `chunkComplete`, `joinEntry`, `entryCompletion`. -/
def Obligations.QueueEvents : Prop :=
  (∀ (s : State) (k pid tk : Nat) (e : Entry), s.msg k = some (.command pid tk e) → s.arrives k = true →
    let t0 := s.team tk
    let read : Entry := match e.recOff with
      | some o => if s.padStat tk o 64 then { e with statRec := true } else { e with recd := s.padBytes tk o 64 }
      | none => e
    t0.v = true → (∃ q ∈ e.squads, t0.ended.contains q = false) →
    (t0.inbox.contains k = false → (∀ i ∈ t0.inbox, s.msg i = none) → t0.roomFor e = true → e.statRec = false →
      ∃ t, Does (.commandAppend k) s t ∧ t.msg k = none ∧ t.mem = s.mem ∧
        (∀ x ∈ (t.part pid).pend, x.id = k → x.hold = false) ∧
        (read.statRec = false → (t.team tk).ents = t0.ents ++ [read]) ∧
        (read.statRec = true → ∃ n r, t.msg n = some (.frec tk r none none) ∧ r.cause = causeCode .stationaryAccess)) ∧
    (t0.inbox.contains k = false → t0.roomFor e = false →
      ∃ t, Does (.commandAppend k) s t ∧ t.msg k = some (.command pid tk read) ∧ (t.team tk).ents = t0.ents ∧
        (t.team tk).inbox = t0.inbox ++ [k]) ∧
    (t0.inbox.contains k = true → t0.roomFor e = false → Does (.commandAppend k) s s)) ∧
  (∀ (s : State) (tk q : Nat) (e : Entry), s.clocked (tk / 256) = true → (s.team tk).headOf q = some e →
    (∀ qs, e.cmd = .join qs → (∀ j, j < 6 → qs.getLsbD j = true → ∃ x, (s.team tk).headOf j = some x ∧ x.id = e.id) →
      Does (.joinEntry tk q) s (((s.setTeam tk { s.team tk with
        ents := (s.team tk).ents.filter (fun x => x.id != e.id) }).evalWaits tk).teamEnd tk)) ∧
    (e.begun = true → e.done = true → s.recordDue tk = false → Does (.entryCompletion tk q) s
      ((((s.clearXlats (.entry tk e.id)).setTeam tk { s.team tk with
        ents := (s.team tk).ents.filter (fun x => x.id != e.id)
        mstat := match e.reuse with | some w => Store.set 0 (s.team tk).mstat 0 w | none => (s.team tk).mstat }).evalWaits
          tk).teamEnd tk))) ∧
  (∀ (s : State) (tk q : Nat) (e : Entry) (out : Bool) (soff bmp : Nat), Ready s tk q e → e.cmd = .copy out soff bmp →
    let alloc := (s.team tk).mcount * 65536
    let code := recCheck alloc e.recd .cp 1
    let n := (parseRec e.recd).streamBytes
    let chunks := (n + 511) / 512
    let bits := 4 * ((chunks + 31) / 32)
    (code = 0 → soff + n ≤ alloc → bmp + bits ≤ alloc → s.padStat tk bmp bits = false → Does (.copyBegin tk q) s
      (s.setEntry tk { e with
        begun := true
        chunks := List.range chunks })) ∧
    (code ≠ 0 → Does (.copyBegin tk q) s (s.refuseCmd tk e .illegalEncoding 0)) ∧
    (code = 0 → alloc < soff + n → Does (.copyBegin tk q) s (s.refuseCmd tk e .scratchBounds soff)) ∧
    (code = 0 → soff + n ≤ alloc → alloc < bmp + bits →
      Does (.copyBegin tk q) s (s.refuseCmd tk e .scratchBounds bmp)) ∧
    (code = 0 → soff + n ≤ alloc → bmp + bits ≤ alloc → s.padStat tk bmp bits = true →
      Does (.copyBegin tk q) s (s.refuseCmd tk e .stationaryAccess bmp))) ∧
  (∀ (s : State) (tk q : Nat) (e : Entry) (soff bmp list : Nat), Ready s tk q e → e.cmd = .gather soff bmp list →
    let alloc := (s.team tk).mcount * 65536
    let code := recCheck alloc e.recd .cpg 1
    let n := s.padPeek tk list 4
    let size := n * (parseRec e.recd).rowBytes
    let chunks := (size + 511) / 512
    let bits := 4 * ((chunks + 31) / 32)
    let refused := fun (c : Cause) (va : Nat) => Does (.copyBegin tk q) s (s.refuseCmd tk e c va)
    (code ≠ 0 → refused .illegalEncoding 0) ∧
    (code = 0 → alloc < list + 4 → refused .scratchBounds list) ∧
    (code = 0 → list + 4 ≤ alloc → s.padStat tk list 4 = true → refused .stationaryAccess list) ∧
    (code = 0 → list + 4 ≤ alloc → s.padStat tk list 4 = false →
      (n = 0 ∨ 524288 < size → refused .illegalEncoding 0) ∧
      (n ≠ 0 → size ≤ 524288 →
        (alloc < list + 4 + 4 * n → refused .scratchBounds list) ∧
        (list + 4 + 4 * n ≤ alloc → s.padStat tk list (4 + 4 * n) = true → refused .stationaryAccess list) ∧
        (list + 4 + 4 * n ≤ alloc → s.padStat tk list (4 + 4 * n) = false → soff + size ≤ alloc → bmp + bits ≤ alloc →
          s.padStat tk bmp bits = false → Does (.copyBegin tk q) s (s.setEntry tk { e with
            rows := (List.range n).map (fun k => s.padPeek tk (list + 4 + 4 * k) 4)
            begun := true
            chunks := List.range chunks }))))) ∧
  (∀ (s : State) (tk q c : Nat) (e : Entry) (out : Bool) (soff bmp : Nat), s.clocked (tk / 256) = true →
    (s.team tk).headOf q = some e → e.cmd = .copy out soff bmp ∨ (out = false ∧ ∃ list, e.cmd = .gather soff bmp list) →
    e.begun = true → e.done = false → e.parked = false → e.pos = 0 → e.hurt = false → c ∈ e.chunks →
    (∀ va, some va ∈ chunkAddrs e c → e.hasPage (va / 65536) = true ∧ s.engineFlows tk e out va = true) → bmp % 4 = 0 →
    (out = true → ∀ d ∈ e.chunks.takeWhile (fun d => d != c), chunksMeet e c d = false) →
    (s.team tk).stationary ((bmp + 4 * (c / 32)) / 65536) = false →
    let len := (chunkAddrs e c).length
    let va := fun (i : Nat) => ((chunkAddrs e c).getD i none).getD 0
    let page := fun (i : Nat) => s.pageAt (s.team tk).prt e (va i)
    let key := fun (i : Nat) => (page i).2.2
    let dst := fun (i : Nat) => if out then (page i).2.1 else s.padSpa tk (soff + 512 * c + i)
    let word := s.padSpa tk (bmp + 4 * (c / 32))
    ∀ val : Nat → Byte,
    (∀ i, i < len → (if out then s.pieceOut tk e (soff + 512 * c + i) (va i)
        else s.pieceIn tk e (soff + 512 * c + i) ((chunkAddrs e c).getD i none)) = .move (val i)) →
    (∀ i j, i < len → j < len → i ≠ j → dst i ≠ dst j) → (∀ i, i < len → dst i < word ∨ word + 4 ≤ dst i) →
    (out = true → ∀ i j, i < len → j < len → dst i / 64 = dst j / 64 →
      key i = key j ∧ (s.tagAt (dst i) = 0 ∨ s.tagAt (dst i) = key i)) →
    ∃ t pages, Does (.chunkComplete tk q c) s t ∧
      (t.team tk).headOf q = some { e with
        pages := pages
        chunks := e.chunks.erase c
        done := (e.chunks.erase c).isEmpty } ∧
      (t.padPeek tk (bmp + 4 * (c / 32)) 4).testBit (c % 32) = true ∧
      ∀ i, i < len → (if out then t.byteK (key i) (dst i) else t.byte (dst i)) = val i)

/-- A fill begins with its region filling under the next version, installs the scale and codes of each block or makes it a poison
block, and ends with the region in use; a freed region is released; a product, dense or sparse, adds its rows to the tile where its
checks hold, else it is refused with their cause; a delta invocation computes from its reuse slot or in full, writes the slot's
header, and reports a key that is not live; a tile is zeroed, a reuse slot zeroised or given its NINT under its live key; drains
write, quantise or add rows of the tile; RSCMD zeroises the slots it names and is busy until it completes; the scrub counts a
corrected error and makes a block with an uncorrectable one a poison block (R69, R77 to R108, R259, R277, R283 to R293, R391, R408,
R423).  The model's choices here: the disjunct `tagAt = 0`, that a data unit never written under a key keeps its plain bytes (log 8);
which reads meet an error that is corrected, the `c` of the scrub (log 9); and that FLAGS and OWNER of a slot are read without a
key, and that the key named is that of OWNER (log 30).

Completes: `regionFillBegin`, `regionFillEnd`, `regionFree`, `productBegin`, `deltaInvocation`, `tileZero`,
`slotInvalidate`, `slotNintWrite`, `drainBegin`, `rscmdComplete`, `macScrub`, `rscmdOne`, `rscmdPart`, `rscmdKey`,
`rscmdAll`, `rscmdInvalid`. -/
def Obligations.EngineEvents : Prop :=
  (∀ (s : State) (tk : Nat) (e : Entry), Ready s tk 4 e →
    (∀ ty pat mac n, e.cmd = .fill ty pat mac n →
      let t := s.team tk
      let r := parseRec e.recd
      let g : Region := { Region.unused with
        filling := true
        mac := mac
        ty := ty
        pat := pat
        kx := r.e 0 * patG pat
        nx := r.e 1
        recd := e.recd }
      recCheck t.alloc e.recd .fill (patG pat) = 0 → r.sparse = (pat != .dense) →
      r.fp = some ty ∨ r.fp = some .f32 ∨ r.fp = some .f16 ∨ r.fp = some .bf16 →
      t.dmac ≤ mac → mac + g.total ≤ t.mcount →
      (∀ x ∈ t.regions, x.1 ≠ n → (x.2.used = true ∨ x.2.filling = true) →
        x.2.mac + x.2.count ≤ mac ∨ mac + g.total ≤ x.2.mac) →
      ((s.region tk n).used = true → (s.region tk n).mac = mac ∧ (s.region tk n).count = g.total) →
      ∃ u, Does (.regionFillBegin tk) s u ∧
        u.region tk n = { g with
          count := g.total
          version := ((s.ureg (tk / 256) 0x50000).toNat + 1) % 2 ^ 32 } ∧
        (u.team tk).headOf 4 = some { e with begun := true }) ∧
    (∀ n, e.cmd = .free n → Does (.regionFree tk) s ((s.freeRegion tk n).doneCmd tk e)) ∧
    (∀ kind pat sh am cnt n colt tile row0 ix, e.cmd = .prod kind sh am cnt n colt tile row0 ix →
      kind = .dense ∧ pat = .dense ∨ kind = .sparse false ∧ pat = .s24 ∨ kind = .sparse true ∧ pat = .s14 →
      (∀ c, s.beginProduct tk e (some pat) sh am cnt n colt row0 ix = .inl c →
        Does (.productBegin tk) s (s.refuseCmd tk e c 0)) ∧
      (∀ b, s.beginProduct tk e (some pat) sh am cnt n colt row0 ix = .inr b →
        ∃ t, Does (.productBegin tk) s t ∧ HeadDone t tk 4 e ∧ Outside s t (tileBase s tk tile) (b.m * 1024) ∧
          TileIs t tk tile b.m (fun i j =>
            s.accRow tk b.g (256 * colt + j) (s.rowQuant tk b i) (s.getTile tk tile i j)))) ∧
    (∀ full slot tag sh am cnt n colt tile row0 ix, e.cmd = .prod (.delta full slot tag) sh am cnt n colt tile row0 ix →
      slot < 256 →
      (∀ c, s.beginProduct tk e none sh am cnt n colt row0 ix = .inl c →
        Does (.deltaInvocation tk) s (s.refuseCmd tk e c 0)) ∧
      (∀ b, s.beginProduct tk e none sh am cnt n colt row0 ix = .inr b → b.m = 0 →
        Does (.deltaInvocation tk) s (s.doneCmd tk e)) ∧
      (∀ b, s.beginProduct tk e none sh am cnt n colt row0 ix = .inr b → b.m ≠ 0 → b.g.kx ≤ 4096 →
        let u := tk / 256
        let a := slotSpa u slot
        let why := s.reuseReason tk slot tag n colt full b
        let key := s.keyAt a (s.team tk).prt b.g.key
        ∃ t skip, Does (.deltaInvocation tk) s t ∧ (why ≠ 0 → skip = 0) ∧
          HeadDone t tk 4 { e with
            reuse := some (BitVec.ofNat 32 ((if why = 0 then 1 else 0) + 2 * why + 256 * skip + 2 ^ 24 * slot)) } ∧
          TileIs t tk tile b.m (fun i j => if why = 0 then s.deltaEl tk slot colt b i j (s.frozenRow tk slot b i)
            else s.accRow tk b.g (256 * colt + j) (s.rowQuant tk b i) 0) ∧
          (∀ x, x < a ∨ a + 0x100000 ≤ x → x < tileBase s tk tile ∨ tileBase s tk tile + b.m * 1024 ≤ x →
            t.byte x = s.byte x) ∧
          (why = 9 ∨ why ≠ 0 ∧ key = 0 → ∀ x, a ≤ x → x < a + 0x100000 → t.byte x = s.byte x) ∧
          (why ≠ 0 → why ≠ 9 → key = 0 → Reported t tk .protection) ∧
          (why ≠ 0 → why ≠ 9 → key ≠ 0 → (t.slotField u slot 0 1).testBit 0 = true ∧
            t.slotField u slot 2 2 = tag % 65536 ∧ t.slotField u slot 4 4 = b.g.version % 2 ^ 32 ∧
            t.slotField u slot 14 1 = 1))) ∧
    (∀ n, e.cmd = .zero n → ∃ t, Does (.tileZero tk) s t ∧
      Zeroed s t (tileSpa (tk / 256) ((s.team tk).tilemap.toNat / 2 ^ (5 * n) % 32)) 0x20000 ∧ HeadDone t tk 4 e) ∧
    (∀ n, e.cmd = .slotInv n → ∃ t, Does (.slotInvalidate tk) s t ∧ Zeroed s t (slotSpa (tk / 256) n) 0x100000 ∧
      HeadDone t tk 4 e) ∧
    (∀ n v, e.cmd = .slotNint n v → 1 ≤ v → v ≤ 64 →
      let a := slotSpa (tk / 256) n
      let flags := s.byte a
      let other := flags.getLsbD 0 = true ∧ flags.getLsbD 1 ≠ (s.partition (s.team tk).prt).secure
      let key := s.slotKeyAt (tk / 256) n (s.team tk).prt
      (other → Does (.slotNintWrite tk) s (s.doneCmd tk e)) ∧
      (¬ other → key ≠ 0 → s.tagAt a = 0 ∨ s.tagAt a = key → ∃ t, Does (.slotNintWrite tk) s t ∧ HeadDone t tk 4 e ∧
        ∀ b, t.byte b = if b = a + 15 then BitVec.ofNat 8 v else s.byte b) ∧
      (¬ other → key = 0 → ∃ t, Does (.slotNintWrite tk) s t ∧ HeadDone t tk 4 e ∧ t.mem = s.mem ∧
        Reported t tk .protection)) ∧
    (∀ n v, e.cmd = .slotNint n v → v < 1 ∨ 64 < v →
      Does (.slotNintWrite tk) s (s.refuseCmd tk e .scratchBounds 0))) ∧
  (∀ (s : State) (tk : Nat) (e : Entry) (ty : Fmt) (pat : Pat) (mac n : Nat), s.clocked (tk / 256) = true →
    (s.team tk).headOf 4 = some e → e.cmd = .fill ty pat mac n → e.begun = true → e.done = false → e.parked = false →
    let rec' := parseRec e.recd
    let todo := (fillBlocks rec').drop e.pos
    let ready := fun (b : Nat × Nat) => ∀ x ∈ blockSpans rec' b.1 b.2, ∀ g ∈ unitSpan x.1 x.2,
      e.hasPage g = true ∧ s.engineFlows tk e false (g * 65536) = true
    let g : Region := { s.region tk n with key := if e.pos = 0 then e.firstKey else (s.region tk n).key }
    ((∀ b ∈ todo, ready b) → ∃ t, Does (.regionFillEnd tk) s t ∧
      t.region tk n = { g with
        used := true
        filling := false } ∧
      HeadDone t tk 4 { e with pos := e.pos + todo.length }) ∧
    (∀ col b rest, todo = (col, b) :: rest → ready (col, b) → (∀ c r, rest = c :: r → ¬ ready c) →
      let x := s.fillBlock tk e rec' g col b
      ∃ t, Does (.regionFillEnd tk) s t ∧
        (∀ c, x.2.2.2 = some c → t.isPoison tk g b col = true) ∧
        (x.2.2.2 = none → (t.byte (s.scaleSpa tk g b col)).toNat = x.1 % 256 ∧
          ((∀ i, i < x.2.1.length → s.padSpa tk (g.elemOff (32 * b + i) col) ≠ s.scaleSpa tk g b col) →
            ∀ i, i < x.2.1.length → t.weight tk g (32 * b + i) col =
              x.2.1.getD i 0 % (if g.ty = .e2m1 then 16 else 256))) ∧
        (rest ≠ [] → ∃ pages, (t.team tk).headOf 4 = some { e with
          pages := pages
          pos := e.pos + 1 }))) ∧
  (∀ (s : State) (tk : Nat) (e : Entry), Ready s tk 5 e →
    (∀ bf m tile dst, e.cmd = .drainN bf m tile dst →
      let w := if bf then 2 else 4
      let cols := 32 * (m.cb.val + 1)
      let rows := (List.range m.rows.toNat).map (fun i => (m.row0.toNat + i, dst + i * (16 * m.rstride.toNat)))
      (s.drainStat tk (cols * w) rows = true → Does (.drainBegin tk) s (s.refuseCmd tk e .stationaryAccess dst)) ∧
      (s.drainStat tk (cols * w) rows = false → Does (.drainBegin tk) s
        ((rows.foldl (fun (s : State) r => (List.range cols).foldl (fun (s : State) c =>
          s.padStore tk (r.2 + c * w) w (State.drainVal bf (s.getTile tk tile r.1 c))) s) s).evalWaits tk |>.doneCmd tk e))) ∧
    (∀ fmt m tile dst sdst, e.cmd = .drainQ fmt m tile dst sdst →
      let n := m.cb.val + 1
      let bytes := 4 * mxBits fmt
      let rows := (List.range m.rows.toNat).map (fun i => (m.row0.toNat + i, dst + i * (16 * m.rstride.toNat)))
      let stat := s.drainStat tk (n * bytes) rows || s.padStat tk sdst (rows.length * n)
      (stat = true → Does (.drainBegin tk) s (s.refuseCmd tk e .stationaryAccess dst)) ∧
      (stat = false → Does (.drainBegin tk) s
        ((rows.foldl (fun (s : State) r => (List.range n).foldl (fun (s : State) b =>
          let q := quantBlock fmt ((List.range 32).map (fun c => fval .f32 (s.getTile tk tile r.1 (32 * b + c))))
          (s.padStores tk (r.2 + b * bytes) (leBytes bytes (packBits (mxBits fmt) q.2.1))).padStore tk
            (sdst + (r.1 - m.row0.toNat) * n + b) 1 q.1) s) s).evalWaits tk |>.doneCmd tk e))) ∧
    (∀ m tile dst idx, e.cmd = .drainX m tile dst idx →
      let cols := 32 * (m.cb.val + 1)
      let named := (idx.zipIdx).filterMap (fun x => match x.1 with
        | some n => if m.row0.toNat + x.2 < 128 then some (m.row0.toNat + x.2, dst + n * (16 * m.rstride.toNat)) else none
        | none => none)
      let inside := fun (r : Nat × Nat) => s.padIn tk r.2 (4 * cols)
      let rows := named.filter inside
      let added := fun (s : State) => (rows.foldl (fun (s : State) r => (List.range cols).foldl (fun (s : State) c =>
          s.padStore tk (r.2 + 4 * c) 4 (State.drainAdd (s.padPeek tk (r.2 + 4 * c) 4) (s.getTile tk tile r.1 c))) s) s).evalWaits
            tk |>.doneCmd tk e
      (s.drainStat tk (4 * cols) rows = true → Does (.drainBegin tk) s (s.refuseCmd tk e .stationaryAccess dst)) ∧
      (s.drainStat tk (4 * cols) rows = false → (∀ r ∈ named, inside r = true) → Does (.drainBegin tk) s (added s)) ∧
      (s.drainStat tk (4 * cols) rows = false → ∀ r, named.find? (fun r => !inside r) = some r →
        Does (.drainBegin tk) s (added (s.cmdFault tk e .scratchBounds r.2))))) ∧
  (∀ (s : State) (u : Nat),
    let ctl := s.ureg u 0x80008
    (ctl.getLsbD 0 = false → ∀ n, ∃ t, Does (.rscmdOne u n) s t ∧ Zeroed s t (slotSpa u (n % 256)) 0x100000 ∧
      t.ureg u 0x80008 = ctl ||| 1 ∧ t.parts = s.parts ∧ t.teams = s.teams) ∧
    (ctl.getLsbD 0 = false → ∀ part key, ∃ t, Does (.rscmdPart u part) s t ∧ t.ureg u 0x80008 = ctl ||| 1 ∧
      (∀ n b, n ∈ s.slotsOf u (part % 8) none → slotSpa u n ≤ b → b < slotSpa u n + 0x100000 → t.byte b = 0) ∧
      ∃ t, Does (.rscmdKey u part key) s t ∧ t.ureg u 0x80008 = ctl ||| 1 ∧
        ∀ n b, n ∈ s.slotsOf u (part % 8) (some (key % 16)) → slotSpa u n ≤ b → b < slotSpa u n + 0x100000 →
          t.byte b = 0) ∧
    (ctl.getLsbD 0 = false → ∃ t, Does (.rscmdAll u) s t ∧ t.ureg u 0x80008 = ctl ||| 1 ∧
      ∀ n b, n < 256 → slotSpa u n ≤ b → b < slotSpa u n + 0x100000 → t.byte b = 0) ∧
    (ctl.getLsbD 0 = true → isStack u = true → ∀ n part key,
      let lost := s.setUreg u 0x80008 (ctl ||| 2)
      Does (.rscmdOne u n) s lost ∧ Does (.rscmdPart u part) s lost ∧ Does (.rscmdKey u part key) s lost ∧
        Does (.rscmdAll u) s lost ∧ Does (.rscmdInvalid u n) s lost) ∧
    (∀ kind, 4 ≤ kind → Does (.rscmdInvalid u kind) s (s.setUreg u 0x80008 (ctl ||| 2))) ∧
    (ctl.getLsbD 0 = true → isStack u = true → ∃ t, Does (.rscmdComplete u) s t ∧ (t.ureg u 0x80008).getLsbD 0 = false ∧
      (t.ureg u 0x80008).getLsbD 1 = ctl.getLsbD 1 ∧
      (t.ureg u 0x80008).extractLsb' 16 16 = ctl.extractLsb' 16 16 + 1 ∧ t.mem = s.mem)) ∧
  (∀ (s : State) (u mac blk tk n j : Nat) (g : Region), (s.ureg u 0x50010).toNat % 65536 ≠ 0 →
    s.regionOf u mac = some (tk, n, g, j) → j < g.weights → blk / 8 < g.cols →
    let col := j / g.kt * g.cols + blk / 8
    let b := j % g.kt * 8 + blk % 8
    s.isPoison tk g b col = false →
    ∃ c, c ≤ 1 ∧
      let s1 := ({ s with ctr := s.ctr + 1 } : State).bumpUreg u 0x50018 32 c
      (s.blockErr tk g b col = true → Does (.macScrub u mac blk) s (s1.poisonBlock tk n g b col 4 blk j)) ∧
      (s.blockErr tk g b col = false → Does (.macScrub u mac blk) s s1))

end
namespace Sys2Proof.Claims

open Sys2Proof.Machine

/-- From `s` to `t` the launch `l` of entry `lk` has been admitted: it runs, and its partition's replay mode is the one set, with an
empty record where that mode is new (R326, R412). -/
structure Admitted (s t : State) (lk : Nat) (l : Launch) : Prop where
  runs : t.launch lk = { l with st := .admitted }
  mode : t.partition l.prt = { s.partition l.prt with
    replay := (s.partition l.prt).replayNext
    replayT := (s.partition l.prt).replayTNext }
  record : (s.partition l.prt).replay ≠ (s.partition l.prt).replayNext → (s.partition l.prt).replayNext ≠ 2 →
    Store.get Replay.none t.dbg.replay l.prt = Replay.none
  others : ∀ k, k ≠ lk → t.launch k = s.launch k

/-- From `s` to `t` a launch has been refused for a reason: one error record of kind 1 is posted, and no team of it is placed
(R328, R330). -/
structure Refused (s t : State) (lk : Nat) (l : Launch) (reason : Nat) : Prop where
  ended : t.launch lk = { l with st := .refused }
  error : ErrorPosted (s.setLaunch lk { l with st := .refused }) t lk Team.absent 0xFF 1 reason 0 0
  teams : t.teams = s.teams
  parts : t.parts = s.parts

/-- A team is being killed: an error record of a kind is posted and the kill is on its way to the barrier unit (R314, R330). -/
def Killing (s t : State) (tk sq kind : Nat) : Prop :=
  ErrorPosted s t (State.lkey (s.team tk).prt (s.team tk).launch) (s.team tk) sq kind 0 0 0 ∧
    (∃ i, t.msg i = some (.kill tk 64 0)) ∧ t.teams = s.teams ∧ t.parts = s.parts

end Sys2Proof.Claims

section

open Sys2Proof

open Sys2Proof.Machine Sys2Proof.Claims

/-- A doorbell is ignored before the boot has ended; a write of TAIL beyond the queue, to a queue that is not enabled, or by
the host to queue 15, sets ERR; else TAIL is written and one entry is taken into a new launch.  A doorbell
of the host to the function of a partition that does not exist is ignored.  The wait events of a queue head are evaluated; a queue
head, in CAPTURE mode the head of all the partition's queues, is checked, then refused with the first reason that applies, admitted
or left waiting, a TIMED one also while a launch that ranks higher has a team to place; the next team of an admitted launch goes to
the stack the rule gives, unless a launch that ranks higher has a team that can be placed; a launch that is over adds CINC at CDONE
and leaves the table, in a re-run once all that the log holds before its end has been applied (R322, R323, R326 to R333, R363, R412,
R417, R419, R420).  That a queue head which could be admitted at once ranks among the launches with a
team to place is the model's choice (log 1).

Completes: `waitEventPoll`, `launchAdmit`, `teamPlace`, `launchComplete`, `doorbell`. -/
def Obligations.LaunchEvents : Prop :=
  (∀ (s : State) (part q : Nat) (tail : Word) (host : Bool),
    let o := lqOff (part % 8) (q % 16)
    let cfg := s.ureg 16 (o + 8)
    let head := (s.ureg 16 (o + 0x18)).toNat % 2 ^ 32
    let n := (tail.toNat + 2 ^ 32 - head) % 2 ^ 32
    let refused := 2 ^ lqLog cfg < n ∨ cfg.getLsbD 4 = false ∨ (host = true ∧ q % 16 = 15)
    let t0 := s.setUreg 16 (o + 0x10) (tail.setWidth 64)
    let heard := s.mg.boot = 9 ∧ (host = false ∨ (s.partition (part % 8)).ex = true)
    (¬heard → Does (.doorbell part q tail host) s s) ∧
    (heard → refused → Does (.doorbell part q tail host) s (s.setUreg 16 (o + 8) (cfg ||| 32))) ∧
    (heard → ¬refused → n = 0 → Does (.doorbell part q tail host) s t0) ∧
    (∀ bs, heard → ¬refused → n = 1 →
      t0.mgmtRead (part % 8) ((s.ureg 16 o).toNat + 128 * (head % 2 ^ lqLog cfg)) 0 128 = some bs →
      ∃ t id, Does (.doorbell part q tail host) s t ∧ id ≠ 0 ∧ t.ureg 16 (o + 0x18) = tail.setWidth 64 ∧
        t.ureg 16 (o + 0x10) = tail.setWidth 64 ∧ t.parts = s.parts ∧ t.teams = s.teams ∧ t.mem = s.mem ∧
        t.launch (State.lkey (part % 8) id) = { Launch.absent with
          ex := true
          prt := part % 8
          q := q % 16
          id := id
          packet := bs
          seq := s.ids
          pos := head })) ∧
  (∀ (s : State) (part q lk : Nat), q < 16 → s.queueHead (part % 8) q = some lk →
    (∀ r, r < 16 → r ≠ q → s.queueHead (part % 8) r = none) → (s.launch lk).checked = true →
    let late := (s.launch lk).timed = true ∧ (s.launch lk).pk 24 8 ≤ s.tick.toNat
    (late → ∃ t, Does (.waitEventPoll part) s t ∧ Refused s t lk (s.launch lk) 7) ∧
    (¬late → ∀ l, s.evalEvents (s.launch lk) = some l → Does (.waitEventPoll part) s (s.setLaunch lk l)) ∧
    (¬late → s.evalEvents (s.launch lk) = none → ∃ t, Does (.waitEventPoll part) s t ∧ Refused s t lk (s.launch lk) 8)) ∧
  (∀ (s : State) (lk : Nat), (s.launch lk).ex = true → (s.launch lk).st = .queued →
    s.queueHead (s.launch lk).prt (s.launch lk).q = some lk →
    (s.partition (s.launch lk).prt).replayNext ≠ 2 ∨ s.earlierOpen (s.launch lk) = false →
    let c := if (s.launch lk).checked then (0, s.launch lk) else s.checkLaunch (s.launch lk)
    let late := c.2.timed = true ∧ c.2.pk 24 8 ≤ s.tick.toNat
    let refused := fun reason => ∃ t, Does (.launchAdmit lk) s t ∧ Refused s t lk c.2 reason
    (c.1 ≠ 0 → refused c.1) ∧ (c.1 = 0 → late → refused 7) ∧ (c.1 = 0 → ¬late → s.evalEvents c.2 = none → refused 8) ∧
    (∀ l, c.1 = 0 → ¬late → s.evalEvents c.2 = some l →
      let s1 := s.setLaunch lk l
      let waits := (l.pk 120 1 % 2 = 1 ∧ s1.prevOpen l = true) ∨ l.met.all id = false ∨ 256 ≤ s1.running l.prt ∨
        s1.mayAdmit l = false
      (waits → Does (.launchAdmit lk) s s1) ∧
      (¬waits → l.timed = false → (s1.bestStack l).isSome = true → ∃ t, Does (.launchAdmit lk) s t ∧ Admitted s1 t lk l ∧
        t.teams = s.teams ∧ t.parts = s.parts ∧ t.mem = s.mem) ∧
      (¬waits → l.timed = false → s1.bestStack l = none → Does (.launchAdmit lk) s s1) ∧
      (¬waits → l.timed = true → s1.outranked lk l = true ∨ s1.placeTimed l 0 [] l.teams = none →
        Does (.launchAdmit lk) s s1) ∧
      (∀ s2 ts, ¬waits → l.timed = true → s1.outranked lk l = false → s1.placeTimed l 0 [] l.teams = some (s2, ts) →
        ∃ t, Does (.launchAdmit lk) s t ∧ Admitted s1 t lk { l with next := l.teams } ∧ t.teams = s2.teams ∧
          ts.length = l.teams ∧ t.parts = s.parts))) ∧
  (∀ (s : State) (lk k u : Nat),
    let l := s.launch lk
    let ahead := fun (r : Launch) => r ∈ s.rivals lk l.prt ∧ launchBefore r l = true
    l.ex = true → l.st = .admitted → (s.partition l.prt).closing = none → l.next = k → k < l.teams →
    s.bestStack l = some u →
    (∀ r, ahead r → (r.q = l.q ∨ ∀ x ∈ s.rivals lk l.prt, x.q = r.q → r.seq ≤ x.seq) → Does (.teamPlace lk k u) s s) ∧
    ((∀ r, ¬ ahead r) → ∃ e, s.freeEntry u = some e ∧ ∃ t, Does (.teamPlace lk k u) s t ∧ (t.launch lk).next = k + 1 ∧
      t.parts = s.parts ∧
      let x := t.team (u * 256 + e)
      x.v = true ∧ x.launch = l.id ∧ x.prt = l.prt ∧ x.sqn = l.squads ∧ x.mcount = l.need ∧ x.acct = l.hd 15 1 ∧
        x.bindtick = s.tick ∧ x.tx = BitVec.ofNat 16 (k % l.pk 8 2) ∧
        x.ty = BitVec.ofNat 16 (k / l.pk 8 2 % l.pk 10 2) ∧
        x.tz = BitVec.ofNat 16 (k / (l.pk 8 2 * l.pk 10 2)))) ∧
  (∀ (s : State) (lk : Nat),
    let done := s.launchOver lk = true ∧ s.sumAwaited (s.launch lk).prt = false
    (¬done → Does (.launchComplete lk) s s) ∧
    (∀ t, done → (s.captureEnd lk).addDone (s.launch lk) = some t →
      Does (.launchComplete lk) s ((t.setLaunch lk Launch.absent).pollEvents (s.launch lk).prt)) ∧
    (done → (s.captureEnd lk).addDone (s.launch lk) = none →
      Does (.launchComplete lk) s ((((s.captureEnd lk).errorRecord lk Team.absent 0xFF 6 0 0 0).setLaunch lk
        Launch.absent).pollEvents (s.launch lk).prt)))

/-- A team to be pre-empted is frozen until its partition's limit, once every record of XFQ that names it is answered; once
everything of it has come to rest its image is saved and the team is gone; at the limit it is killed, frozen as it is, or thawed.
A lost team restarts while it may, with every part of it ended, else its lost part ends and the team is killed with an error
record, once; a restart on a usable base stack zeroes the barrier unit's state and counts in TRESTART; a saved image is laid back
on a stack that has what the team needs, its regions are refilled, and then its parts enter once the stack has slots for the hosts
of its huddles, parking for the others and registers (R47, R353 to R361).  That a freeze waits for the answers of XFQ is R47's;
which of its requests a lost core still held, and what an image keeps of a part, are the model's choice (logs 20, 28).

Completes: `teamRestart`, `freeze`, `freezeTimeout`, `contextLoss`, `resume`. -/
def Obligations.TeamLossEvents : Prop :=
  (∀ (s : State) (tk : Nat),
    let x := s.team tk
    (x.v = true → s.ending tk = false → s.checkpointing x.prt = false → s.mg.relink.contains tk = false → s.resuming tk = false →
      (x.frozen = false → s.xfNames tk = false → Does (.freeze tk) s (s.setTeam tk { x with
        frozen := true
        deadline := s.tick.toNat + (s.partition x.prt).plimit })) ∧
      (x.frozen = false → s.xfNames tk = true → Does (.freeze tk) s s) ∧
      (x.frozen = true → s.imageReady tk = true → ∃ t n im, Does (.freeze tk) s t ∧ t.team tk = Team.absent ∧
        (∀ pid, (t.part pid).live = true → (t.part pid).team ≠ tk) ∧ Store.get none t.mg.images n = some im ∧
        im.laid = none ∧ im.tk = tk ∧ im.team = x ∧ im.vnum = s.stackId (tk / 256) x.prt ∧
        im.parts = (s.teamParts tk).map (fun e => (e.1, e.2.saved))) ∧
      (x.frozen = true → s.imageReady tk = false → Does (.freeze tk) s s)) ∧
    (x.v = true → s.ending tk = false → x.frozen = true → s.checkpointing x.prt = false →
      (s.tick.toNat < x.deadline → Does (.freezeTimeout tk) s s) ∧
      (x.deadline ≤ s.tick.toNat → (s.partition x.prt).pkill = true →
        ∃ t, Does (.freezeTimeout tk) s t ∧ Killing s t tk 0xFF 4) ∧
      (x.deadline ≤ s.tick.toNat → (s.partition x.prt).pkill = false →
        ∃ t, Does (.freezeTimeout tk) s t ∧ (t.team tk).frozen = false ∧ (t.team tk).launch = x.launch)) ∧
    (x.v = true → s.ending tk = true → Does (.freeze tk) s s ∧ Does (.freezeTimeout tk) s s) ∧
    (x.v = true → x.killed = false → x.restarting = true → x.ents = [] → s.teamPosting tk = false →
      (s.partStacks x.prt).contains (tk / 256) = true → ∃ t, Does (.teamRestart tk) s t ∧ t.parts = s.parts ∧
        (t.ureg (tk / 256) 0x70018).toNat = ((s.ureg (tk / 256) 0x70018).toNat + 1) % 2 ^ 32 ∧
        let y := t.team tk
        y.restarts = x.restarts + 1 ∧ y.restarting = false ∧ y.ended = [] ∧ y.exited = [] ∧ y.huddles = [] ∧
          y.bars = [] ∧ y.stages = 0 ∧ y.scrum = [] ∧ y.latch = [] ∧ y.inbox = [] ∧ y.mstat = [] ∧ y.recs = [] ∧ y.drops = [] ∧
          y.launch = x.launch ∧ y.sqn = x.sqn ∧ y.mbase = x.mbase ∧ y.mcount = x.mcount) ∧
    (x.v = true → x.killed = false → x.restarting = true → x.ents ≠ [] → Does (.teamRestart tk) s s)) ∧
  (∀ (s : State) (bu : Bool) (k : Nat),
    let tk := if bu then k else (s.part k).team
    let x := s.team tk
    (bu = true → x.v = false ∨ s.ending tk = true → Does (.contextLoss bu k) s s) ∧
    (bu = false → (s.part k).live = false → Does (.contextLoss bu k) s s) ∧
    (bu = false → (s.part k).live = true → x.v = false ∨ s.ending tk = true →
      Does (.contextLoss bu k) s (((s.dropHeld k).killPart k).teamEnd tk)) ∧
    (x.v = true → s.ending tk = false → bu = true ∨ (s.part k).live = true →
      (x.restartable = true → x.restarts < (s.ureg (tk / 256) 0x70010).toNat % 4 → ∃ t, Does (.contextLoss bu k) s t ∧
        (t.team tk).restarting = true ∧ (∀ e ∈ (t.team tk).ents, e.begun = true) ∧
        ∀ pid, (t.part pid).live = true → (t.part pid).team ≠ tk) ∧
      (x.restartable = false ∨ (s.ureg (tk / 256) 0x70010).toNat % 4 ≤ x.restarts →
        let gone := if bu then s.thaw tk else ((s.thaw tk).dropHeld k).killPart k
        ∃ t, Does (.contextLoss bu k) s t ∧ Killing gone t tk (if bu then 0xFF else (s.part k).sq) 3 ∧
          (bu = false → t.part k = Part.absent)))) ∧
  (∀ (s : State) (img u : Nat) (im : Image), Store.get none s.mg.images img = some im → im.laid = none →
    let fits := (s.partStacks im.team.prt).contains u = true ∧
      s.stackFits (s.launch (State.lkey im.team.prt im.team.launch)) u = true
    (¬fits → Does (.resume img u) s s) ∧
    (fits → ∃ t e, Does (.resume img u) s t ∧ s.freeEntry u = some e ∧ t.parts = s.parts ∧
      Store.get none t.mg.images img = some { im with laid := some (u * 256 + e) } ∧
      let y := t.team (u * 256 + e)
      y = { im.team with
        mbase := y.mbase
        tilemap := y.tilemap
        spillbase := y.spillbase
        frozen := false
        ents := y.ents
        regions := [] } ∧
      y.ents.map (fun e => (e.q, e.cmd, e.recd)) = (im.team.regions.filter (fun g => g.2.used)).map (fun g =>
        (4, Cmd.fill g.2.ty g.2.pat g.2.mac g.1, g.2.recd)))) ∧
  (∀ (s : State) (img u tk : Nat) (im : Image), Store.get none s.mg.images img = some im → im.laid = some tk →
    let hosts := (State.imageHosts im).length
    let t := ({ s with mg := { s.mg with images := Store.set none s.mg.images img none } } : State).enterParts im tk
    let ready := s.ending tk = false ∧ (s.team tk).ents = [] ∧ hosts ≤ s.freeSlots (tk / 256) ∧
      s.parkRoom (tk / 256) im.team.prt (im.parts.length - hosts) = true ∧ ∀ c, c < 8 → t.usedGroups (tk / 256) c ≤ 2048
    (ready → Does (.resume img u) s t) ∧
    (¬ready → Does (.resume img u) s s))

end
namespace Sys2Proof.Claims

open Sys2Proof.Machine

/-- From `b` to `t` lanes of the `rrd` of request `r` have settled: those of `vals` with their data in the destination, those of
`bad` with the cause `c`; with its last lane the `rrd` ends, and the part goes on, or traps with every lane that failed (R271,
R373). -/
structure LanesSettle (b t : State) (r : Remote) (vals : List (Nat × Nat)) (bad : List Nat) (c : Cause) : Prop where
  gone : (b.part r.pid).live = false → t = b
  data : ∀ d ty g, (b.part r.pid).live = true → (b.part r.pid).st = .blocked (.remote d ty) g →
    let p := b.part r.pid
    let q := t.part r.pid
    let left := maskOf (fun l => p.umask.getLsbD l && !(vals.map Prod.fst ++ bad).contains l)
    let fails := p.mi.fails ++ bad.map (fun l => (l, c, p.mi.addr l))
    let frozen := (b.team p.team).frozen
    (∀ n : Fin 32, r.dst = .v n → r.t.w ≠ .w64 → left ≠ 0 ∨ frozen = true ∨ fails = [] → ∀ l x, l < 16 →
      vals.find? (fun v => v.1 == l) = some (l, x) →
      q.word (4 * p.depth + n) l = BitVec.ofNat 32 (extend r.t x)) ∧
    (left ≠ 0 ∨ frozen = true → q.st = p.st ∧ q.pc = p.pc ∧ q.umask = left ∧ q.mi.fails = fails) ∧
    (left = 0 → frozen = false → fails = [] → q.pc = p.pc + 1 ∧ q.umask = 0 ∧
      q.st = (if p.pend.isEmpty then .ready else .switched)) ∧
    (left = 0 → frozen = false → fails ≠ [] →
      (∀ f ∈ fails, f.2.1 ≠ .misaligned ∧ f.2.1 ≠ .protection) → ∃ u : State, t = u.trapAt r.pid
        (if fails.any (fun f => f.2.1 == .remoteFault) then .remoteFault else .remoteTimeout)
        (maskOf (fun l => fails.any (fun f => f.1 == l))) (fails.map (fun f => (f.1, f.2.2))) ∧
        u.mem = b.mem ∧ u.teams = b.teams ∧ (u.part r.pid).pc = p.pc)

/-- From `b` to `t` a remote write has been answered: its part is acknowledged, or its failed lanes become one fault record with
REMOTE_FAULT or REMOTE_TIMEOUT (R272, R345, R373). -/
def WriteSettles (b t : State) (r : Remote) (bad : List Nat) (c : Cause) : Prop :=
  (b.preq r.preq = none → t = b) ∧
  ∀ q, b.preq r.preq = some q → t.mem = b.mem ∧ t.parts = b.parts ∧ t.teams = b.teams ∧
    (bad = [] → ∃ x, t.preq r.preq = some x ∧ x.phase = .acking ∧ x.pid = q.pid) ∧
    (bad ≠ [] → ∃ x k f, t.preq r.preq = some x ∧ x.phase = .performed ∧
      t.msg k = some (.frec r.team f (some r.preq) (some r.pid)) ∧ f.cause = causeCode c ∧
      f.lanes = maskOf (fun l => bad.contains l) ∧ f.sq = r.sq ∧ f.pc = r.pc)

end Sys2Proof.Claims

section

open Sys2Proof

open Sys2Proof.Machine Sys2Proof.Claims

/-- A remote request is sent once its hub is locked and its rate entry, its port and its partition's slots allow it, resent with a
doubled interval, and ends at its timeout or with its reply, but for a read whose team is frozen; a datagram that names no request
or no partition is discarded and counted, and a reply after the timeout; the target performs the lanes it permits and answers.
Rates rise again; the servo sets LOCK and LOST; a fabric link that goes down takes the routes between packages with it, and DOWN of
its port and LINKFAIL are set; a domain is formed of the packages that are reached, once the teams with traffic on the routes that
fell are frozen, and teams with a context in a unit that is not reached are lost (R9, R70, R359, R368 to R370, R372 to R381, R387,
R429).  The model's choices: the rate entry a request takes, a port's line rate as a time it is busy, and the slew of the servo
(log 22), the numbers of links, that a fabric link which goes down takes all routes between packages, and that a unit with no mesh
link left is one cut off (logs 24, 25), and the one MGMTSTAT (log 35).

Completes: `remoteSend`, `remoteRetransmit`, `remoteTimeout`, `remoteReply`, `remoteRequestReceive`, `rateIncrease`,
`ptpSync`, `linkDown`, `domainForm`, `linkRetransmission`. -/
def Obligations.RemoteEvents : Prop :=
  (∀ (s : State) (k : Nat) (r : Remote), s.remote k = some r →
    let now := s.tickAt r.hub
    let rto := (s.ureg r.hub 0x70010).toNat
    let stop := r.first.toNat + (s.ureg r.hub 0x70008).toNat
    let bad := r.lanes.map Prod.fst
    (∀ x rest, s.rateFor r = some (x, rest) →
      let port := State.portKey r.hub (s.reqDgram r).port r.lat
      let n := (s.reqDgram r).payload.length
      let sends := s.locked r.hub = true ∧ x.readyAt ≤ now.toNat ∧ Store.get 0 s.net.portAt port ≤ now.toNat ∧
        s.ownsSlot r.hub 16 r.prt = true ∧ (r.wr = true ∨ s.rerunning r.prt = false)
      let line := fun (t : State) => Store.get 0 t.net.portAt port = now.toNat + State.rateTicks n 1600000000000 ∧
        t.net.rates = { x with readyAt := now.toNat + State.rateTicks n x.rate } :: rest
      let waits := now.toNat < r.lastSend.toNat + r.rto ∨ stop ≤ now.toNat
      (r.sends = 0 → sends → now.toNat < stop → ∃ t, Does (.remoteSend k) s t ∧ t.remote k = some { r with
          sends := 1
          first := now
          lastSend := now } ∧
        t.net.wire = s.net.wire ++ [s.reqDgram r] ∧ t.mem = s.mem ∧ t.parts = s.parts ∧ line t) ∧
      (0 < r.sends ∨ ¬sends ∨ stop ≤ now.toNat → Does (.remoteSend k) s s) ∧
      (0 < r.sends → sends → ¬waits → ∃ t, Does (.remoteRetransmit k) s t ∧ t.remote k = some { r with
          sends := r.sends + 1
          lastSend := now
          rto := min (2 * r.rto) (4 * rto) } ∧
        t.net.wire = s.net.wire ++ [s.reqDgram r] ∧ t.mem = s.mem ∧ t.parts = s.parts ∧ line t) ∧
      (waits ∨ r.sends = 0 ∨ ¬sends → Does (.remoteRetransmit k) s s)) ∧
    (now.toNat < stop → Does (.remoteTimeout k) s s) ∧
    (r.wr = false → (s.team r.team).frozen = true → Does (.remoteTimeout k) s s) ∧
    (r.wr = true → stop ≤ now.toNat →
      ∃ t, Does (.remoteTimeout k) s t ∧ WriteSettles (s.endRemote k r) t r bad .remoteTimeout) ∧
    (r.wr = false → (s.team r.team).frozen = false → stop ≤ now.toNat →
      ∃ t, Does (.remoteTimeout k) s t ∧ LanesSettle (s.endRemote k r) t r [] bad .remoteTimeout) ∧
    ((s.endRemote k r).remote k = none ∨ ∃ x, (s.endRemote k r).remote k = some x ∧ x.sends = 0)) ∧
  (∀ (s : State) (hub : Nat) (g : Dgram),
    let f := fieldOf g.payload
    let isReply := f 0 1 = 1 ∧ 3 ≤ f 1 1 ∧ f 1 1 ≤ 5
    let counted := fun (t : State) => (t.ureg hub 0x70020).toNat = ((s.ureg hub 0x70020).toNat + 1) % 2 ^ 32 ∧
      t.mem = s.mem ∧ t.parts = s.parts ∧ t.net = s.net
    (¬isReply ∨ s.findRemote hub (f 8 4) = none → ∃ t, Does (.remoteReply hub g) s t ∧ counted t) ∧
    (∀ k r, isReply → s.findRemote hub (f 8 4) = some (k, r) →
      let done := (lanesOf (BitVec.ofNat 16 (f 24 2))).filter (fun l => r.lanes.any (fun x => x.1 == l))
      let bad := (r.lanes.map Prod.fst).filter (fun l => !done.contains l)
      let vals := (done.zipIdx).map (fun x => (x.1, f (32 + 8 * x.2) 8))
      let b := (s.endRemote k r).heardReply r ((f 2 1).testBit 0)
      let inTime := (s.tickAt r.hub).toNat < r.first.toNat + (s.ureg r.hub 0x70008).toNat
      (r.wr = true → inTime → ∃ t, Does (.remoteReply hub g) s t ∧ WriteSettles b t r bad .remoteFault) ∧
      (r.wr = false → (s.team r.team).frozen = false → inTime → ∃ t, Does (.remoteReply hub g) s t ∧
        LanesSettle (b.capture r.prt (.reply s.tick g.payload)) t r vals bad .remoteFault) ∧
      (r.wr = true ∨ (s.team r.team).frozen = false → ¬inTime → ∃ t, Does (.remoteReply hub g) s t ∧ counted t) ∧
      (r.wr = false → (s.team r.team).frozen = true → Does (.remoteReply hub g) s s)) ∧
    let prts := (List.range 8).filter (fun n =>
      (s.partition n).ex && s.partAddr n == g.toAddr && s.partPort n == g.toPort)
    let gap := ((s.tickAt hub).toNat : Int) - f 16 8
    let fresh := s.locked hub = true ∧ -128 ≤ gap ∧ gap < 256 * (f 29 3 : Int) - 128
    let asks := f 0 1 = 1 ∧ (f 1 1 = 1 ∨ f 1 1 = 2)
    (prts = [] ∨ ¬asks ∨ ¬fresh → ∃ t, Does (.remoteRequestReceive hub g) s t ∧ counted t) ∧
    (∀ prt rest, prts = prt :: rest → asks → fresh →
      let x := s.win prt (f 12 2 % 4096)
      let whole := if x.v = false then 1 else if x.key.toNat ≠ f 4 4 then 2 else 0
      let n := if f 3 1 % 4 = 0 then 4 else if f 3 1 % 4 = 1 then 1 else if f 3 1 % 4 = 2 then 2 else 8
      let r := s.targetLanes hub prt whole x (f 1 1 == 2) n (g.payload.drop 32)
        (lanesOf (BitVec.ofNat 16 (f 14 2))) 0
      ∃ t reply, Does (.remoteRequestReceive hub g) s t ∧ t.mem = r.1.mem ∧ t.parts = s.parts ∧
        t.net.wire = s.net.wire ++ [reply] ∧ reply.addr = g.toAddr ∧ reply.uport = g.toPort ∧ reply.toAddr = g.addr ∧
        reply.toPort = g.uport ∧ reply.ce = false ∧
        fieldOf reply.payload 1 1 = (if r.2.2.isEmpty then (if f 1 1 = 2 then 4 else 3) else 5) ∧
        fieldOf reply.payload 8 4 = f 8 4 ∧
        fieldOf reply.payload 24 2 = (maskOf (fun l => r.2.1.any (fun v => v.1 == l))).toNat ∧
        fieldOf reply.payload 26 2 = (maskOf (fun l => r.2.2.any (fun v => v.1 == l))).toNat)) ∧
  (∀ (s : State) (hub : Nat) (addr : BitVec 128) (lat : Bool), ∃ t, Does (.rateIncrease hub addr lat) s t ∧
    t.net.rates.length = s.net.rates.length ∧ t.mem = s.mem ∧ t.parts = s.parts ∧
    ∀ (i : Nat) (x : Rate), s.net.rates[i]? = some x → t.net.rates[i]? = some
      (if x.hub = hub ∧ x.addr = addr ∧ x.lat = lat ∧ x.heard = true ∧ x.quietAt + 60800 ≤ (s.tickAt hub).toNat then
        { x with
          rate := min 1600000000000 (x.rate + 25000000000)
          quietAt := (s.tickAt hub).toNat
          heard := false }
      else x)) ∧
  (∀ (s : State) (off : Int), ∃ t, Does (.ptpSync off) s t ∧
    let quiet := if -16 ≤ off ∧ off ≤ 16 then s.net.syncRun + 1 else 0
    let lock := if off < -64 ∨ 64 < off then false else if 16 ≤ quiet then true else s.locked 16
    t.net.syncRun = quiet ∧ t.mem = s.mem ∧ t.parts = s.parts ∧
    t.ureg 16 0x80008 = (BitVec.ofInt 32 off).setWidth 64 ∧
    (∀ h, h ∈ s.hubs → (t.ureg h 0x80000).getLsbD 0 = lock ∧
      (t.ureg h 0x80000).getLsbD 1 = ((s.locked 16 && !lock) || (s.ureg h 0x80000).getLsbD 1)) ∧
    t.tick = if off < -64 ∧ s.anyPartition = false then s.tick + BitVec.ofInt 64 (-off) else s.tick) ∧
  (∀ (s : State) (u link : Nat), ∃ t, Does (.linkDown u link) s t ∧
    Store.get false t.mg.down (State.linkKey u (link % 16)) = true ∧ Store.get false t.mg.dead (State.linkKey u (link % 16)) = true ∧
    (t.ureg 2048 0x18).getLsbD 17 = true ∧ t.mem = s.mem ∧ t.parts = s.parts ∧
    t.mg.formed = (s.mg.formed && decide (link % 16 < 8)) ∧
    (isHub u = true → 8 ≤ link % 16 → (t.ureg u (0x30000 + 0x40 * (link % 16 - 8))).getLsbD 1 = true ∧
      t.linkUp u (link % 16 - 8) = 0)) ∧
  (∀ (s : State) (u port : Nat),
    let off := 0x30000 + 0x40 * (port % 8)
    let n := bitsOf (s.ureg u off).toNat 31 16
    (isHub u = true → ∃ t, Does (.linkRetransmission u port) s t ∧
      bitsOf (t.ureg u off).toNat 31 16 = min 65535 (n + 1 + 65536 * ((s.ureg u off).toNat / 2 ^ 32)) ∧
      bitsOf (t.ureg u off).toNat 15 0 = bitsOf (s.ureg u off).toNat 15 0 ∧ t.mem = s.mem ∧ t.parts = s.parts)) ∧
  (∀ (s : State) (ks : List Nat),
    let ok := 7 ≤ s.mg.boot ∧ s.mg.bootCode = 0 ∧ 0 ∈ ks ∧ (∀ k ∈ ks, k < 64) ∧ ks.eraseDups = ks
    (¬ok → Does (.domainForm ks) s s) ∧
    (ok → s.toFreeze ≠ [] → (∃ tk ∈ s.toFreeze, s.xfNames tk = true) → Does (.domainForm ks) s s) ∧
    (ok → s.toFreeze ≠ [] → (∀ tk ∈ s.toFreeze, s.xfNames tk = false) →
      ∃ t, Does (.domainForm ks) s t ∧ (∀ tk ∈ s.toFreeze, (t.team tk).frozen = true) ∧ t.mg.pkgs = s.mg.pkgs ∧
        t.mg.formed = s.mg.formed ∧ t.mg.relink = s.mg.relink ++ s.toFreeze ∧ t.parts = s.parts) ∧
    (ok → s.toFreeze = [] → ∃ t, Does (.domainForm ks) s t ∧ t.mg.pkgs = ks ∧ t.mg.formed = true ∧ t.mg.down = [] ∧
      t.mg.relink = [] ∧ (∀ tk ∈ s.mg.relink, (s.team tk).v = true → (t.team tk).frozen = false) ∧
      (s.mg.relink = [] → ∀ pid, s.inLost ks (s.part pid) = true → (s.team (s.part pid).team).v = true →
        t.part pid = Part.absent ∧ (s.ending (s.part pid).team = false →
          ∃ i, t.msg i = some (.kill (s.part pid).team 64 0)))))

end
namespace Sys2Proof.Claims

open Sys2Proof.Machine

/-- Event `e` answers the request `op` with the arguments `ws`, and the bytes `args` after them, that waits in the PF0 mailbox and
ARGBUF: `bs` is the payload, and `u` the machine with the request done (R427, R428; the layout of the arguments in ARGBUF is the
model's, log 23). -/
def Answers (e : Instr) (op : Nat) (ws : List Nat) (args : List Byte) (s u : State) (bs : List Byte) : Prop :=
  ∀ seq, s.request op ws args = some seq → Does e s (u.respond op seq bs)

/-- What an answer leaves alone: all but RESBUF and the mailbox of PF0. -/
def SameBut (s t : State) : Prop :=
  t.mem = s.mem ∧ t.parts = s.parts ∧ t.teams = s.teams ∧ t.tick = s.tick ∧ t.keys = s.keys ∧ t.mg.launches = s.mg.launches

/-- No such request of PF0 waits, with these arguments: nothing happens. -/
def Idle (e : Instr) (op : Nat) (ws : List Nat) (args : List Byte) (s : State) : Prop :=
  s.request op ws args = none → Does e s s

/-- From `s` to `t` every team of a partition is being killed, its saved images are gone (R384 step 1). -/
def TeamsKilled (s t : State) (part : Nat) : Prop :=
  t.parts = s.parts ∧
  (∀ tk, (s.team tk).v = true → (s.team tk).prt = part → (t.team tk).killed = true ∧
    ((s.team tk).killed = false → ∃ i, t.msg i = some (.kill tk 64 0))) ∧
  (∀ tk, (∀ e ∈ s.teams, e.1 = tk → e.2.v = false ∨ e.2.prt ≠ part) → t.team tk = s.team tk) ∧
  ∀ n im, Store.get none t.mg.images n = some im → im.team.prt ≠ part

end Sys2Proof.Claims

section

open Sys2Proof

open Sys2Proof.Machine Sys2Proof.Claims

/-- A message in MBH2D is handed over, lost or answered with NAK; a waiting message is posted to MBD2H with MSI-X vector 0.
An answer to a forwarded fault goes to its unit, or sets ERR there; firmware denies a fault whose limit has passed.  Bytes
written and read through the control window go where the partition's tables lead, or set WERR; a function that does not exist
returns none; the firmware-image area is open until the verification has ended (R14, R363 to R367, R417, R420).  The model's
choices: what was read stands in `hostData`, and for a function that does not exist it is empty (logs 13, 23), MBH2D and MBD2H are
registers of unit 2048 + f, and firmware denies a fault at the fault-service limit with no other answer of its own (log 23).

Completes: `d2hPost`, `faultresp`, `mailboxSend`, `windowWrite`, `windowRead`, `firmwareImageWrite`,
`faultServiceTimeout`. -/
def Obligations.HostEvents : Prop :=
  (∀ (s : State) (fn : Nat),
    let b := s.mboxOf fn
    let h := s.h2dHead fn
    let takes := hostOpcode fn (h % 65536) = true ∧ bitsOf h 31 16 ≤ 248
    (s.fnPresent fn = false → Does (.mailboxSend fn) s s) ∧
    (s.fnPresent fn = true →
      (b.busy = true → Does (.mailboxSend fn) s (s.setMbox fn { b with lost := true })) ∧
      (b.busy = false → takes → Does (.mailboxSend fn) s (s.setMbox fn { b with busy := true })) ∧
      (b.busy = false → ¬takes → Does (.mailboxSend fn) s
        (s.mailOut fn (leBytes 2 0xFF ++ leBytes 2 2 ++ leBytes 4 (bitsOf h 63 32) ++ leBytes 2 h)))) ∧
    (b.out = [] ∨ b.full = true → Does (.d2hPost fn) s s) ∧
    (∀ m ms, b.out = m :: ms → b.full = false → ∃ t, Does (.d2hPost fn) s t ∧
      t.mboxOf fn = { b with
        out := ms
        full := true } ∧
      t.mg.msix = s.mg.msix ++ [(fn, 0)] ∧
      (∀ i, i < 32 → t.ureg (2048 + fn) (0x1100 + 8 * i) = BitVec.ofNat 64 (fieldOf m (8 * i) 8)) ∧
      SameBut s t)) ∧
  (∀ (s : State) (fn unit park : Nat) (deny : Bool),
    let h := s.h2dHead fn
    let y := s.h2dPay fn
    let names := y % 65536 / 32 = unit ∧ bitsOf y 31 16 = park ∧ (bitsOf y 39 32 = 1 ↔ deny = true)
    let open' := ∃ e ∈ s.mg.service, e.1 = fn - 1 ∧ e.2.1 = unit ∧ e.2.2.1 = park
    fn ≠ 0 → s.fnPresent fn = true → (s.mboxOf fn).busy = true → h % 65536 = 2 → names →
    (open' → Does (.faultresp fn unit park deny) s ((s.taken fn).answer unit park deny)) ∧
    (¬open' → ∃ t, Does (.faultresp fn unit park deny) s t ∧ (t.xfq unit).err = true ∧ (t.mboxOf fn).busy = false ∧
      SameBut s t)) ∧
  (∀ (s : State),
    ((∀ e ∈ s.mg.service, s.tick.toNat < e.2.2.2) → Does .faultServiceTimeout s s) ∧
    (∀ l e rest, s.mg.service = l ++ e :: rest → (∀ x ∈ l, s.tick.toNat < x.2.2.2) → e.2.2.2 ≤ s.tick.toNat →
      Does .faultServiceTimeout s (s.answer e.2.1 e.2.2.1 true))) ∧
  (∀ (s : State) (vf off : Nat),
    let base := (s.partition (vf - 1)).cwbase.toNat
    (vf = 0 ∨ s.fnPresent vf = false → ∀ data n, Does (.windowWrite vf off data) s s ∧
      Does (.windowRead vf off n) s { s with hostData := [] }) ∧
    (vf ≠ 0 → s.fnPresent vf = true →
      (∀ data, Does (.windowWrite vf off data) s
        (s.windowPut (vf - 1) base data (splitAcc data.length (base + off) data.length))) ∧
      (∀ n, ∃ t, Does (.windowRead vf off n) s t ∧
        t.hostData = (s.windowGet (vf - 1) base (splitAcc n (base + off) n)).2) ∧
      (∀ (b : Byte) (u : State),
        (s.windowSpa (vf - 1) off 1 true = (u, none) → Does (.windowWrite vf off [b]) s (u.werr vf)) ∧
        (∀ a key, s.windowSpa (vf - 1) off 1 true = (u, some (a, key)) → ∃ t, Does (.windowWrite vf off [b]) s t ∧
          t.byte a = b ∧ t.parts = s.parts ∧ t.teams = s.teams) ∧
        (s.windowSpa (vf - 1) off 1 false = (u, none) → ∃ t, Does (.windowRead vf off 1) s t ∧ t.hostData = [0xFF] ∧
          (t.mboxOf vf).werr = true) ∧
        (∀ a key, s.windowSpa (vf - 1) off 1 false = (u, some (a, key)) → Store.get false u.ecc (a / 32) = false →
          ∃ t, Does (.windowRead vf off 1) s t ∧ t.hostData = [u.byteK key a] ∧ t.mem = u.mem ∧ t.parts = s.parts)))) ∧
  (∀ (s : State) (off n : Nat) (data : List Byte),
    let isOpen := s.mg.linkUp = true ∧ s.mg.boot < 3
    let area := unitBase 16 + 0x02FFF0000000
    (isOpen → off + data.length ≤ 0x10000000 → ∃ t, Does (.firmwareImageWrite true off n data) s t ∧
      (∀ a, t.byte a = if area + off ≤ a ∧ a < area + off + data.length then data.getD (a - area - off) 0 else s.byte a) ∧
      t.parts = s.parts ∧ t.mg = s.mg) ∧
    (¬isOpen ∨ 0x10000000 < off + data.length → Does (.firmwareImageWrite true off n data) s s) ∧
    (isOpen → off + n ≤ 0x10000000 → ∃ t, Does (.firmwareImageWrite false off n data) s t ∧
      t.hostData = s.peekBytes (area + off) n ∧ t.mem = s.mem) ∧
    (¬isOpen ∨ 0x10000000 < off + n → ∃ t, Does (.firmwareImageWrite false off n data) s t ∧
      t.hostData = List.replicate n 0 ∧ t.mem = s.mem))

/-- CREATE is refused or makes the partition its descriptor gives, zeroised, with a key in slot 0 of every controller;
TEARDOWN kills its teams and, once nothing of it remains, zeroises and removes it; a second one meanwhile is refused.  ATTEST answers with a report and draws a
transport key; KEYLOAD loads an authentic key into an idle slot at every controller; REVOKE clears one; KCMD loads, revokes
or sets LOST, also for a partition of which a REVOKE is in progress, while BUSY shows (R382 to R384, R389 to R393, R397, R427).
The model's choices: the layout of ARGBUF, the status 5 of a request the spec gives no status for, a live slot refused by KEYLOAD
(log 23), and that a teardown zeroises reuse slots by RSCMD of KIND 1 before its stacks are zero (log 24).

Completes: `teardown`, `create`, `attest`, `keyload`, `revoke`, `kcmdLoad`, `kcmdRevoke`, `kcmdInvalid`. -/
def Obligations.PartitionEvents : Prop :=
  (∀ (s : State),
    let d := s.argBytes 576
    let prt := fieldOf d 0 1
    Idle .create 0x101 [] [] s ∧
    ((s.partition prt).closing.isSome = true → Answers .create 0x101 [] [] s (s.taken 0) (statusBytes 1)) ∧
    ((s.partition prt).closing = none → s.createBad d = true → Answers .create 0x101 [] [] s (s.taken 0) (statusBytes 5)) ∧
    (∀ seq, s.request 0x101 [] [] = some seq → (s.partition prt).closing = none → s.createBad d = false →
      ∃ t, Does .create s t ∧ t.partition prt = State.newPartition d ∧ t.parts = s.parts ∧ t.teams = s.teams ∧
        (∀ c ∈ t.partCtrls prt, t.keyLive c.1 c.2 prt 0 = true) ∧
        ∀ c ∈ t.partCtrls prt, isStack c.1 = true → ∀ a, a / 2 ^ 45 = c.1 → t.byte a = 0)) ∧
  (∀ (s : State) (part : Nat),
    let asked := s.request 0x102 [part] []
    (∀ again, (s.partition part).closing.isSome = true → asked = some again →
      Does (.teardown part) s ((s.taken 0).respond 0x102 again (statusBytes 1))) ∧
    (∀ seq, (s.partition part).closing = some seq → asked = none →
      (s.drained part = false → ∃ t, Does (.teardown part) s t ∧ TeamsKilled s t part) ∧
      (s.drained part = true → ∃ t, Does (.teardown part) s t ∧ t.partition part = Partition.absent ∧
        t.parts = s.parts ∧ t.teams = s.teams ∧
        (∀ c ∈ s.partCtrls part, (∀ k, k < 16 → t.keyLive c.1 c.2 part k = false) ∧ t.revokes c.1 c.2 part = false) ∧
        ∀ c ∈ s.partCtrls part, isStack c.1 = true → ∀ a, a / 2 ^ 45 = c.1 → t.byte a = 0)) ∧
    ((s.partition part).closing = none →
      Idle (.teardown part) 0x102 [part] [] s ∧
      ((s.partition part).ex = false ∨ 8 ≤ part → Answers (.teardown part) 0x102 [part] [] s (s.taken 0) (statusBytes 5)) ∧
      (∀ seq, asked = some seq → (s.partition part).ex = true → part < 8 → ∃ t, Does (.teardown part) s t ∧
        t.partition part = { s.partition part with closing := some seq } ∧ (t.mboxOf 0).busy = false ∧
        TeamsKilled s t part))) ∧
  (∀ (s : State) (part : Nat) (nonce : List Byte), part < 8 → (s.partition part).ex = true →
    (s.partition part).closing = none → ∀ seq, s.request 0x103 [part] (leBytes 32 (leNat nonce)) = some seq →
    ∃ t sig cert, Does (.attest part nonce) s t ∧ (t.partition part).transport = s.ids ∧ t.ids = s.ids + 1 ∧
      t = (({ (s.taken 0).setPartition part { s.partition part with transport := s.ids } with
        ids := s.ids + 1 } : State).respond 0x103 seq (reportBody (s.taken 0) part nonce s.ids ++ sig ++ cert))) ∧
  (∀ (s : State) (part slot : Nat) (wrapped nonce : List Byte),
    let s0 := s.taken 0
    let pair := (s.partition part).transport
    let whole := pair ≠ 0 ∧ wrapped.length = 72 ∧ slot < 16
    let held := ∃ c ∈ s.partCtrls part, s.keyLive c.1 c.2 part slot = true
    let attest := fun (f : Instr → Nat → List Nat → List Byte → Prop) =>
      f (.attest part nonce) 0x103 [part] (leBytes 32 (leNat nonce))
    let keyload := fun (f : Instr → Nat → List Nat → List Byte → Prop) => f (.keyload part slot wrapped) 0x104 [part, slot] wrapped
    let revoke := fun (f : Instr → Nat → List Nat → List Byte → Prop) => f (.revoke part slot) 0x105 [part, slot] []
    let idle := fun e op ws args => Idle e op ws args s
    let refused := fun n e op ws args => Answers e op ws args s s0 (statusBytes n)
    attest idle ∧ keyload idle ∧ revoke idle ∧
    (∀ n, s.badPart part = some n → attest (refused n) ∧ keyload (refused n) ∧ revoke (refused n)) ∧
    (s.badPart part = none →
      (¬whole ∨ held → keyload (refused 5)) ∧
      (whole → ¬held → (∀ c ∈ s.partCtrls part, s.revokes c.1 c.2 part = false) →
        ∀ seq, s.request 0x104 [part, slot] wrapped = some seq → ∃ t, Does (.keyload part slot wrapped) s t ∧ t.mem = s.mem ∧
          t.parts = s.parts ∧
          (∀ c ∈ s.partCtrls part, t.keyLive c.1 c.2 part slot = (Config.unwrapKey pair wrapped).isSome) ∧
          (Config.unwrapKey pair wrapped = none → t = s0.respond 0x104 seq (statusBytes 5))) ∧
      (slot = 0 ∨ 16 ≤ slot → revoke (refused 5)) ∧
      (∀ seq, s.request 0x105 [part, slot] [] = some seq → slot ≠ 0 → slot < 16 →
        let busy := (∃ u ∈ s.partStacks part, s.rsBusy u = true) ∨ ∃ c ∈ s.partCtrls part, s.revokes c.1 c.2 part = true
        (busy → Does (.revoke part slot) s s) ∧
        (¬busy → ∃ t, Does (.revoke part slot) s t ∧
          t.mg.serving = some (0x105, seq, [part, slot]) ∧ t.parts = s.parts ∧
          ∀ c ∈ s.partCtrls part, t.keyLive c.1 c.2 part slot = false ∧ t.revokes c.1 c.2 part = true)))) ∧
  (∀ (s : State) (u ctrl part slot op : Nat),
    let c := if isStack u then 0 else ctrl % 12
    let p := part % 8
    let n := slot % 16
    let stat := keyOff u c p + 0x808
    let lost := fun (t : State) => (t.ureg u stat).getLsbD 17 = true ∧ t.keys = s.keys ∧ SameBut s t
    let busy := s.revokes u c p = true
    (s.keyLive u c p n = false → ¬busy → ∃ t, Does (.kcmdLoad u ctrl part slot) s t ∧ t.keyLive u c p n = true ∧ t.mem = s.mem ∧
      t.parts = s.parts ∧ ∀ i, i < 8 → t.ureg u (keyOff u c p + 0x40 * n + 8 * i) = 0) ∧
    (s.keyLive u c p n = true ∨ busy → ∃ t, Does (.kcmdLoad u ctrl part slot) s t ∧ lost t) ∧
    (n ≠ 0 ∨ (s.partition p).ex = false → ¬busy → ∃ t, Does (.kcmdRevoke u ctrl part slot) s t ∧ t.keyLive u c p n = false ∧
      t.revokes u c p = true ∧ t.mem = s.mem ∧ t.parts = s.parts) ∧
    ((n = 0 ∧ (s.partition p).ex = true) ∨ busy → ∃ t, Does (.kcmdRevoke u ctrl part slot) s t ∧ lost t) ∧
    (2 ≤ op → ∃ t, Does (.kcmdInvalid u ctrl part op) s t ∧ lost t))

end
namespace Sys2Proof.Claims

open Sys2Proof.Machine

/-- Opcode and arguments of the PF0 request that an event of the debugger serves (R427), in the order of its table; the place of each
in ARGBUF is the model's (log 23). -/
def asks : Instr → Nat × List Nat
  | .profring part va cap => (0x106, [part, va.toNat, cap])
  | .replay part mode t => (0x107, [part, mode, t])
  | .hold part entries => (0x108, part :: (List.range 16).map (fun n => (entries.getD n 0).toNat))
  | .breakset part n launch pc en => (0x10A, [part, n, launch.toNat, pc.toNat, en.toNat])
  | .tickset part tick launch en => (0x10B, [part, tick.toNat, launch.toNat, en.toNat])
  | .stopctlArm tick => (0x10C, [0, tick.toNat])
  | .stopctlStopnow => (0x10C, [1])
  | .stopctlRelease => (0x10C, [2])
  | .stopctlSteprel v => (0x10C, [3, v.toNat])
  | .stoplist part start => (0x10D, [part, start])
  | .dbgStep part launch team sq lane => (0x10E, [part, launch.toNat, team.toNat, sq, lane])
  | .dbgContinue part launch none => (0x10F, [part, launch.toNat, 1])
  | .dbgContinue part launch (some (team, sq, lane)) => (0x10F, [part, launch.toNat, 0, team.toNat, sq, lane])
  | _ => (0, [])

/-- The request that event `e` serves waits, with number `seq`. -/
def Asked (e : Instr) (s : State) (seq : Nat) : Prop := s.request (asks e).1 (asks e).2 [] = some seq

/-- Event `e` answers its request with a status. -/
def Refuses (e : Instr) (s : State) (code : Nat) : Prop :=
  Answers e (asks e).1 (asks e).2 [] s (s.taken 0) (statusBytes code)

/-- Event `e` does nothing while its request does not wait. -/
def Waits (e : Instr) (s : State) : Prop := Idle e (asks e).1 (asks e).2 [] s

end Sys2Proof.Claims

section

open Sys2Proof

open Sys2Proof.Machine Sys2Proof.Claims

/-- The debugger's requests are answered with the status R427 gives.  HOLD, BREAKSET, TICKSET and PROFRING set what they
name in every unit of the partition; STOPLIST lists stopped parts; CONTINUE lets them go on, and STEP one of them; STOPCTL
arms, stops and releases the packages; a tick match marks the parts of its launch; a due package stops at its tick; SCANDATA
is set only when no partition exists and memory is zeroised (R402, R404 to R410, R427, R428).  The model's choices: that ARM is
used up by the stop it brings, and what counts as zeroised memory (log 20), the layout of ARGBUF, and that STOPLIST packs its
entries (log 23).

Completes: `tickMatchFire`, `sampleCopy`, `profring`, `hold`, `breakset`, `tickset`, `stopctlArm`, `stopctlStopnow`,
`stopctlRelease`, `stopctlSteprel`, `stoplist`, `dbgStep`, `dbgContinue`, `packageStop`, `scandataWrite`. -/
def Obligations.DebugEvents : Prop :=
  (∀ (s : State) (part n start cap : Nat) (entries : List DWord) (launch pc : Word) (en v : Bool) (tick va : DWord)
      (team : BitVec 48) (sq lane : Nat) (one : Option (BitVec 48 × Nat × Nat)),
    Waits (.hold part entries) s ∧ Waits (.breakset part n launch pc en) s ∧ Waits (.tickset part tick launch en) s ∧
    Waits (.stopctlArm tick) s ∧ Waits .stopctlStopnow s ∧ Waits .stopctlRelease s ∧ Waits (.stopctlSteprel v) s ∧
    Waits (.stoplist part start) s ∧ Waits (.dbgStep part launch team sq lane) s ∧ Waits (.dbgContinue part launch one) s ∧
    Waits (.profring part va cap) s ∧
    ∀ code, s.badPart part = some code →
      Refuses (.hold part entries) s code ∧ Refuses (.breakset part n launch pc en) s code ∧
      Refuses (.tickset part tick launch en) s code ∧ Refuses (.stoplist part start) s code ∧
      Refuses (.dbgStep part launch team sq lane) s code ∧ Refuses (.dbgContinue part launch one) s code ∧
      Refuses (.profring part va cap) s code) ∧
  (∀ (s : State) (part seq : Nat), s.badPart part = none →
    let s0 := s.taken 0
    (∀ entries, Asked (.hold part entries) s seq → ∃ t, Does (.hold part entries) s t ∧ SameBut s t ∧
      ∀ u n, u ∈ s.partUnits part → n < 16 →
        t.ureg u (dbgOff u (0x400 + 8 * n)) = entries.getD n 0 &&& 0x7FFFFFFFFF) ∧
    (∀ n (launch pc : Word) en, Asked (.breakset part n launch pc en) s seq →
      (n < 4 → ∃ t, Does (.breakset part n launch pc en) s t ∧ SameBut s t ∧ ∀ u, u ∈ s.partUnits part →
        t.ureg u (dbgOff u (0x200 + 16 * n)) = BitVec.ofNat 64 (pc.toNat + 2 ^ 32 * launch.toNat) ∧
        t.ureg u (dbgOff u (0x208 + 16 * n)) = if en then 1 else 0) ∧
      (4 ≤ n → Does (.breakset part n launch pc en) s (s0.respond 0x10A seq (statusBytes 5)))) ∧
    (∀ tick (launch : Word) en, Asked (.tickset part tick launch en) s seq → ∃ t, Does (.tickset part tick launch en) s t ∧ SameBut s t ∧
      ∀ u, u ∈ s.partUnits part → t.ureg u (dbgOff u 0x300) = tick ∧
        t.ureg u (dbgOff u 0x310) = launch.setWidth 64 ∧ t.ureg u (dbgOff u 0x308) = if en then 1 else 0) ∧
    (∀ va cap, Asked (.profring part va cap) s seq → ∃ t, Does (.profring part va cap) s t ∧ SameBut s t ∧
      t.partition part = { s.partition part with ring := some (va, cap) }) ∧
    (∀ start, Asked (.stoplist part start) s seq → Does (.stoplist part start) s (s0.respond 0x10D seq (statusBytes 0 ++
      (((s.parts.filter (fun e => e.2.prt == part && e.2.stopped)).drop start).take 200).flatMap (fun e =>
        leBytes 4 e.2.launch.toNat ++ leBytes 6 e.2.teamBits.toNat ++ leBytes 1 e.2.sq ++ leBytes 2 e.2.amask.toNat ++
          leBytes 4 e.2.pc.toNat ++ leBytes 1 e.2.stop.code)))) ∧
    (∀ launch team sq lane,
      let one := Asked (.dbgContinue part launch (some (team, sq, lane))) s seq
      let all := Asked (.dbgContinue part launch none) s seq
      (one → s.findStopped part launch team sq lane = none →
        Does (.dbgContinue part launch (some (team, sq, lane))) s (s0.respond 0x10F seq (statusBytes 3))) ∧
      (∀ pid p, one → s.findStopped part launch team sq lane = some (pid, p) → ∃ t,
        Does (.dbgContinue part launch (some (team, sq, lane))) s t ∧ t.part pid = p.continued ∧ t.mem = s.mem ∧
        ∀ q, q ≠ pid → t.part q = s.part q) ∧
      (all → (∀ e ∈ s.stoppedParts part, e.2.launch ≠ launch) →
        Does (.dbgContinue part launch none) s (s0.respond 0x10F seq (statusBytes 3))) ∧
      (all → (∃ e ∈ s.stoppedParts part, e.2.launch = launch) → ∃ t, Does (.dbgContinue part launch none) s t ∧
        t.mem = s.mem ∧ ∀ e ∈ s.stoppedParts part, e.2.launch = launch → (t.part e.1).stop = .run)) ∧
    (∀ launch team sq lane, Asked (.dbgStep part launch team sq lane) s seq →
      (s.findStopped part launch team sq lane = none →
        Does (.dbgStep part launch team sq lane) s (s0.respond 0x10E seq (statusBytes 3))) ∧
      (∀ pid p, s.findStopped part launch team sq lane = some (pid, p) →
        let pkg := unitPkg p.unit
        (s.pkgStopped pkg = true → (s.dbgctl pkg).getLsbD 4 = false → Does (.dbgStep part launch team sq lane) s
          ((s0.dbgBit pkg 6 true).respond 0x10E seq (statusBytes 4))) ∧
        (s.pkgStopped pkg = false ∨ (s.dbgctl pkg).getLsbD 4 = true → ∃ t, Does (.dbgStep part launch team sq lane) s t ∧
          t.part pid = { p with
            stop := .step
            step := some p.issues } ∧
          t.mg.serving = some (0x10E, seq, [pid, p.issues, pkg]) ∧ t.mg.restop = s.pkgStopped pkg ∧
          t.pkgStopped pkg = false ∧ t.mem = s.mem ∧ ∀ q, q ≠ pid → t.part q = s.part q)))) ∧
  (∀ (s : State) (seq : Nat),
    (∀ tick, Asked (.stopctlArm tick) s seq → ∃ t, Does (.stopctlArm tick) s t ∧ SameBut s t ∧ ∀ k, k ∈ s.mg.pkgs → (t.dbgctl k).getLsbD 0 = true ∧
      t.ureg (k * 32 + 16) 0xA2008 = tick) ∧
    (Asked .stopctlStopnow s seq → ∃ t, Does .stopctlStopnow s t ∧ SameBut s t ∧ ∀ k, k ∈ s.mg.pkgs → t.pkgStopped k = true ∧
      (s.pkgStopped k = false → t.ureg (k * 32 + 16) 0xA2008 = s.tickAt (k * 32))) ∧
    (Asked .stopctlRelease s seq → ∃ t, Does .stopctlRelease s t ∧ SameBut s t ∧ ∀ k, k ∈ s.mg.pkgs → t.pkgStopped k = false) ∧
    (∀ v, Asked (.stopctlSteprel v) s seq → ∃ t, Does (.stopctlSteprel v) s t ∧ SameBut s t ∧ ∀ k, k ∈ s.mg.pkgs → (t.dbgctl k).getLsbD 4 = v)) ∧
  (∀ (s : State),
    (∃ t, Does .packageStop s t ∧ SameBut s t ∧ ∀ k, k ∈ s.mg.pkgs →
      (s.stopDue k = true → t.pkgStopped k = true ∧ (t.dbgctl k).getLsbD 0 = false ∧
        t.ureg (k * 32 + 16) 0xA2008 = s.tickAt (k * 32)) ∧
      (s.stopDue k = false → t.dbgctl k = s.dbgctl k)) ∧
    (∃ t, Does (.scandataWrite false) s t ∧ SameBut s t ∧ ∀ k, k ∈ s.mg.pkgs → (t.dbgctl k).getLsbD 5 = false) ∧
    (s.anyPartition = false → s.zeroised = true → ∃ t, Does (.scandataWrite true) s t ∧ SameBut s t ∧
      ∀ k, k ∈ s.mg.pkgs → (t.dbgctl k).getLsbD 5 = true) ∧
    (s.anyPartition = true ∨ s.zeroised = false → ∃ t, Does (.scandataWrite true) s t ∧ SameBut s t ∧
      ∀ k, k ∈ s.mg.pkgs → (t.dbgctl k).getLsbD 6 = true ∧ (t.dbgctl k).getLsbD 5 = (s.dbgctl k).getLsbD 5)) ∧
  (∀ (s : State) (u : Nat),
    (s.matchDue u = false → Does (.tickMatchFire u) s s) ∧
    (s.matchDue u = true → ∃ t, Does (.tickMatchFire u) s t ∧ t.mem = s.mem ∧ t.tick = s.tick ∧
      (t.ureg u (dbgOff u 0x308)).getLsbD 1 = true ∧ t.matchDue u = false ∧
      ∀ c x, c < 8 → x ∈ s.onCore u c → x.2.launch.toNat = (s.ureg u (dbgOff u 0x310)).toNat % 2 ^ 32 →
        (t.part x.1).tmHit = some (s.tickAt u)) ∧
    let b := Store.get [] s.dbg.smp u
    ∃ t, Does (.sampleCopy u) s t ∧ t.mem = (s.copySamples b).1.mem ∧ t.parts = s.parts ∧
      Store.get [] t.dbg.smp u = (s.copySamples b).2 ∧
      (∀ r rest, b = r :: rest → (s.partition (fieldOf r 23 1 % 8)).ring = none →
        t.mem = s.mem ∧ Store.get [] t.dbg.smp u = b))

/-- REPLAY sets the mode and T of the next admission.  A checkpoint freezes the teams and is taken once they have come to rest, or
skipped at the limit; a replay and a re-run begin once the partition's teams have been killed; a home whose log has stalled
ends the replay with a report; a capture begins when no launch runs (R412, R413, R415, R417, R419).  The model's choices: the
bytes a checkpoint holds and its tags (log 20), the status 5 of a mode or T that is none (log 23), and the length of a log, the size
of the replay storage, and the packets that stand first in a capture log (log 36).

Completes: `checkpoint`, `replayDiverged`, `rerun`, `replay`, `replayRun`, `capture`. -/
def Obligations.ReplayEvents : Prop :=
  (∀ (s : State) (part mode t : Nat),
    Waits (.replay part mode t) s ∧ (∀ code, s.badPart part = some code → Refuses (.replay part mode t) s code) ∧
    (s.badPart part = none →
      (3 ≤ mode ∨ (mode = 1 ∧ (t = 0 ∨ 1000 < t)) → Refuses (.replay part mode t) s 5) ∧
      (∀ seq, Asked (.replay part mode t) s seq → mode < 3 → (mode = 1 → 1 ≤ t ∧ t ≤ 1000) → ∃ u,
        Does (.replay part mode t) s u ∧ SameBut s u ∧ u.partition part = { s.partition part with
          replayNext := mode
          replayTNext := t }))) ∧
  (∀ (s : State) (part : Nat),
    let x := s.replayOf part
    let p := s.partition part
    let gone := s.partTeams part = [] ∧ ∀ e ∈ s.parts, e.2.prt = part → e.2.live = false
    let halted := fun (t : State) => TeamsKilled s t part ∧
      ∀ e ∈ t.mg.launches, e.2.prt = part → e.2.st = .admitted ∧ e.2.next = e.2.teams
    (∀ k, x.ckpts[k]? = none ∨ x.freezing.isSome = true ∨ p.closing.isSome = true → Does (.replayRun part k) s s) ∧
    (∀ k c, x.ckpts[k]? = some c → x.freezing = none → p.closing = none →
      (gone → ∃ t, Does (.replayRun part k) s t ∧ t.parts = s.parts ∧
        (t.replayOf part).ckpts = x.ckpts.take k ++ [{ c with logs := [] }] ∧ (t.replayOf part).report = [] ∧
        (∀ e ∈ t.dbg.olog, e.1 % 8 ≠ part) ∧
        (c.images = [] → t.mem = (s.restoreCkpts part (x.ckpts.take (k + 1))).mem)) ∧
      (¬gone → ∃ t, Does (.replayRun part k) s t ∧ halted t)) ∧
    (p.replayNext = 2 → x.capturing = false → s.running part = 0 → ∃ t, Does (.capture part) s t ∧ SameBut s t ∧
      t.replayOf part = { Replay.none with
        capturing := true
        snapshot := s.mem.filter (fun e => s.ownByte part e.1)
        clog := s.waitingPackets part }) ∧
    (p.replayNext ≠ 2 ∨ x.capturing = true ∨ s.running part ≠ 0 → Does (.capture part) s s) ∧
    let full := ∃ e ∈ s.dbg.olog, e.1 % 8 = part ∧ 24 * Config.logEntries < e.2.length
    (x.freezing = none → p.replay = 1 → p.closing = none → x.due ≤ s.tick.toNat ∨ full → Does (.checkpoint part) s
      ((s.freezeTeams part).setReplayOf part { x with
        freezing := some (s.tick.toNat + p.plimit)
        due := s.tick.toNat + 1900000 * p.replayT })) ∧
    (x.freezing = none → p.replay ≠ 1 ∨ p.closing.isSome = true ∨ (s.tick.toNat < x.due ∧ ¬full) → Does (.checkpoint part) s s) ∧
    (∀ limit, x.freezing = some limit →
      let s1 := s.freezeTeams part
      let rest := ∀ e ∈ s1.partTeams part, s1.imageReady e.1 = true
      (rest → ∃ t c, Does (.checkpoint part) s t ∧ (t.replayOf part).freezing = none ∧ (∀ e ∈ t.dbg.olog, e.1 % 8 ≠ part) ∧
        c.tick = s.tick ∧ c.full = x.ckpts.isEmpty ∧ c.pages = s1.dirtyPages part ∧
        c.images.length = (s1.partTeams part).length ∧ c.logs = [] ∧
        (t.replayOf part).ckpts = State.mergeOldest (s.closeLogs part x.ckpts ++ [c])) ∧
      (¬rest → s.tick.toNat < limit → Does (.checkpoint part) s s1) ∧
      (¬rest → limit ≤ s.tick.toNat → ∃ t, Does (.checkpoint part) s t ∧ t.replayOf part = { x with
        skipped := x.skipped + 1
        freezing := none })) ∧
    (s.stalled part = [] → Does (.replayDiverged part) s s) ∧
    (∀ k rest, s.stalled part = k :: rest → ∃ t, Does (.replayDiverged part) s t ∧ SameBut s t ∧
      (t.replayOf part).report = [k / 8, Store.get 0 s.dbg.followAt k] ∧ ∀ e ∈ t.dbg.follow, e.1 % 8 ≠ part) ∧
    (x.capturing = false ∨ p.closing.isSome = true → Does (.rerun part) s s) ∧
    (x.capturing = true → p.closing = none →
      (x.rerun = 0 → gone → ∃ t, Does (.rerun part) s t ∧ t.mem = (s.restoreMem part none x.snapshot).mem ∧
        t.parts = s.parts ∧ (∀ e ∈ t.mg.launches, e.2.prt ≠ part) ∧ t.replayOf part = { x with
          rerun := 1
          halting := false
          report := [] }) ∧
      (x.rerun = 0 → ¬gone → ∃ t, Does (.rerun part) s t ∧ halted t ∧ (t.replayOf part).halting = true) ∧
      (x.rerun ≠ 0 → x.clog[x.rerun - 1]? = none → ∃ t, Does (.rerun part) s t ∧ SameBut s t ∧
        t.replayOf part = { x with rerun := 0 }) ∧
      (∀ e, x.rerun ≠ 0 → x.clog[x.rerun - 1]? = some e →
        (∀ q tk bs, e = .packet q tk bs → ∃ t id, Does (.rerun part) s t ∧ (t.launch (State.lkey part id)).ex = true ∧
          (t.launch (State.lkey part id)).q = q ∧ (t.launch (State.lkey part id)).packet = bs ∧
          (t.launch (State.lkey part id)).seq = s.ids) ∧
        (∀ tk id sum, e = .checksum tk id sum → Does (.rerun part) s s) ∧
        (s.applyCap part e = none → Does (.rerun part) s s) ∧
        (∀ s1, s.applyCap part e = some s1 → ∃ t, Does (.rerun part) s t ∧ t.mem = s1.mem ∧ t.parts = s1.parts ∧
          (t.replayOf part).rerun = x.rerun + 1))))

end
section

open Sys2Proof

open Sys2Proof.Machine Sys2Proof.Claims

/-- POWER sets PCAP and PFLOOR within the package's 3,400 W; an update moves the gate by the power and the temperature
measured, and trips.  Power-on and a PF0 reset leave the reset machine at boot step 1; the steps of the boot follow each
other, and the image is verified and measured.  Reads of ERRLOST and SMPLOST clear them.  A bus-bridge access reaches the
memory or the register it names, waits while its class does not flow, stops where R11 and R16 back nothing, and sets BRERR when it
is not proper (R4, R7, R11, R13 to R16, R69, R364, R395, R396, R411, R420 to R426).  The model's choices: memory at power-on
(log 6), the bytes a bridge reads and writes in an encrypted slot (log 8), where a scrub's errors arise (log 9), what is read stands
in `hostData` (log 13), the sum of the power caps and the status of an unknown unit (log 23), the count `scrubbed` and the form in
which step 6 names failed stacks (log 25), and the one MGMTSTAT (log 35).

Completes: `power`, `powerOn`, `pf0Reset`, `fwctlGo`, `powerUpdate`, `errlostRead`, `smplostRead`, `bridgeAccess`,
`registerWrite`, `dramScrub`, `bootStepEnd`. -/
def Obligations.PlatformEvents : Prop :=
  (∀ (s : State) (u pcap gmin : Nat),
    let s0 := s.taken 0
    Idle (.power u pcap gmin) 0x109 [u, pcap, gmin] [] s ∧
    (u ∉ s.allUnits → Answers (.power u pcap gmin) 0x109 [u, pcap, gmin] [] s s0 (statusBytes 5)) ∧
    (u ∈ s.allUnits → 3400 < s.capSum u (pcap % 65536) →
      Answers (.power u pcap gmin) 0x109 [u, pcap, gmin] [] s s0 (statusBytes 2)) ∧
    (∀ seq, s.request 0x109 [u, pcap, gmin] [] = some seq → u ∈ s.allUnits → s.capSum u (pcap % 65536) ≤ 3400 → ∃ t,
      Does (.power u pcap gmin) s t ∧ SameBut s t ∧ (t.ureg u 0x90000).toNat = pcap % 65536 ∧
        (t.ureg u 0x90018).toNat = gmin % 128)) ∧
  (∀ (s : State) (u pmeas temp : Nat),
    let cyc := s.cyc - Store.get 0 s.held (unitPkg u)
    let due := Store.get 0 s.mg.powered u < cyc / 4096 ∧ u ∈ s.allUnits ∧ s.pkgStopped (unitPkg u) = false
    let g := (s.ureg u 0x90010).toNat % 128
    let p := pmeas % 65536
    let c := temp % 256
    let cap := min (if isStack u then 220 else 150) ((s.ureg u 0x90000).toNat % 65536)
    let low := min 64 (max 4 ((s.ureg u 0x90018).toNat % 128))
    let warn := (s.ureg u 0x90028).toNat % 256
    let trip := min 115 (bitsOf (s.ureg u 0x90028).toNat 15 8)
    let was := Store.get false s.mg.tripped u
    (¬due → Does (.powerUpdate u pmeas temp) s s) ∧
    (due → ∃ t, Does (.powerUpdate u pmeas temp) s t ∧ SameBut s t ∧ (t.ureg u 0x90008).toNat = p ∧
      (t.ureg u 0x90010).toNat = (if trip ≤ c then 0 else if was = true ∧ warn ≤ c then 0
        else if was = true ∨ warn ≤ c then low else if cap < p then max low (g - 4)
        else if p + cap / 16 < cap then min 64 (g + 1) else g) ∧
      Store.get 0 t.mg.powered u = cyc / 4096 ∧
      Store.get false t.mg.tripped u = (decide (trip ≤ c) || was && decide (warn ≤ c)) ∧
      (t.ureg u 0x90020).toNat = c + (if warn ≤ c then 256 else 0) +
        (if trip ≤ c ∨ (s.ureg u 0x90020).getLsbD 9 = true then 512 else 0) ∧
      (trip ≤ c → (t.ureg 2048 0x18).getLsbD 18 = true))) ∧
  (∀ (s : State),
    (∃ t, Does .powerOn s t ∧ t.mem = [] ∧ t.parts = [] ∧ t.teams = [] ∧ t.uregs = [] ∧ t.keys = [] ∧ t.tick = 0 ∧
      t.mg.boot = 1 ∧ t.mg.parts = []) ∧
    (∃ t, Does .pf0Reset s t ∧ t.mem = s.mem ∧ t.parts = [] ∧ t.teams = [] ∧ t.uregs = [] ∧ t.keys = [] ∧ t.tick = 0 ∧
      t.mg.boot = 1 ∧ t.mg.parts = []) ∧
    (s.mg.boot ≠ 2 ∨ s.mg.linkUp = false ∨ s.mg.bootCode ≠ 0 → Does .fwctlGo s s) ∧
    (s.mg.boot = 2 → s.mg.linkUp = true → s.mg.bootCode = 0 →
      ∃ t, Does .fwctlGo s t ∧ t.mem = s.mem ∧ t.mg.bootCode = s.verifyCode ∧
        t.mg.boot = (if s.verifyCode = 0 then 4 else 3) ∧
        (s.verifyCode = 0 → t.mg.fwMeas = shake256 s.imageSignedBytes 64)) ∧
    (∃ t, Does .errlostRead s t ∧ t.hostData = leBytes 4 s.mg.errLost ∧ t.mg.errLost = 0 ∧ t.mem = s.mem ∧
      t.parts = s.parts) ∧
    (∀ u, ∃ t, Does (.smplostRead u) s t ∧ t.hostData = leBytes 4 (s.ureg u (dbgOff u 0x48)).toNat ∧
      t.ureg u (dbgOff u 0x48) = 0 ∧ SameBut s t) ∧
    (s.mg.boot < 6 → ∀ a c, Does (.dramScrub a c) s s) ∧
    (6 ≤ s.mg.boot → ∀ a, (∃ t, Does (.dramScrub a true) s t ∧ SameBut s t ∧
        Store.get 0 t.mg.scrubbed (spaUnit a) = Store.get 0 s.mg.scrubbed (spaUnit a) + 1) ∧
      (∃ t, Does (.dramScrub a false) s t ∧ SameBut s t ∧ Store.get false t.ecc (a / 32) = true))) ∧
  (∀ (s : State) (code : Nat),
    let b := s.mg.boot
    let f := code % 2 ^ 40
    let pkg := code / 2 ^ 40 % 64
    (s.mg.bootCode ≠ 0 → ∀ ok, Does (.bootStepEnd ok code) s s) ∧
    (s.mg.bootCode = 0 →
      (b = 0 ∨ b = 9 ∨ code = 0 ∨ 5 < code → Does (.bootStepEnd false code) s s) ∧
      (b ≠ 0 → b ≠ 9 → 1 ≤ code → code ≤ 5 →
        ∃ t, Does (.bootStepEnd false code) s t ∧ t.mg.bootCode = code ∧ t.mg.boot = b) ∧
      (b = 1 ∨ b = 4 ∨ b = 8 → ∃ t, Does (.bootStepEnd true code) s t ∧ t.mg.boot = b + 1 ∧ t.mem = s.mem) ∧
      (b = 2 → ∃ t, Does (.bootStepEnd true code) s t ∧ t.mg.boot = 2 ∧ t.mg.linkUp = true) ∧
      (b = 5 → ∃ t, Does (.bootStepEnd true code) s t ∧ Store.get 0 t.mg.failed pkg = f ∧
        (∀ k, k ≠ pkg → Store.get 0 t.mg.failed k = Store.get 0 s.mg.failed k) ∧
        (pkg ≠ 0 → t.mem = s.mem ∧ t.mg.boot = 5 ∧ t.mg.bootCode = 0) ∧
        (pkg = 0 → (∀ a, spaOff a < 0x100000000000 → t.byte a = 0) ∧
          (if f % 65536 = 65535 then t.mg.boot = 5 ∧ t.mg.bootCode = 4 else t.mg.boot = 6 ∧ t.mg.bootCode = 0))) ∧
      (b = 6 → ∃ t, Does (.bootStepEnd true code) s t ∧ t.mg.boot = 7 ∧ t.mg.bootAt = s.cyc ∧ t.mem = []) ∧
      (b = 7 → s.mg.formed = true → s.locked 16 = true ∨ s.mg.bootAt + 19000000000 ≤ s.cyc →
        ∃ t, Does (.bootStepEnd true code) s t ∧ t.mg.boot = 8) ∧
      (b = 7 → s.mg.formed = false ∨ (s.locked 16 = false ∧ s.cyc < s.mg.bootAt + 19000000000) →
        Does (.bootStepEnd true code) s s) ∧
      (b = 0 ∨ b = 3 ∨ 9 ≤ b → Does (.bootStepEnd true code) s s))) ∧
  (∀ (s : State) (spa width : Nat) (data : DWord) (wr : Bool),
    let u := spaUnit spa
    let o := spaOff spa
    let flows := s.linked (if wr = true ∧ o = 0x1000F0020040 then State.shootVia u (data.toNat % 8)
      else ⟨unitPkg u * 32 + 16, u, 0, 5⟩) = true
    let here := u % 32 < 18 ∧ u / 32 ∈ s.mg.pkgs
    let isReg := here ∧ 0x1000F0000000 ≤ o ∧ o < 0x1000F0200000
    let n := min 8 width
    (¬flows → Does (.bridgeAccess spa width wr data) s s) ∧
    (flows → isReg → Does (.bridgeAccess spa width wr data) s (s.unitAccess wr u (o - 0x1000F0000000) width data.toNat)) ∧
    (flows → u / 32 ∉ s.mg.pkgs ∨ ¬isReg ∧ State.bridgeSpa spa n = none →
      exec (.bridgeAccess spa width wr data) s = .fault (.unbacked spa)) ∧
    (∀ a, flows → ¬isReg → u / 32 ∈ s.mg.pkgs → State.bridgeSpa spa n = some a →
      (wr = true → ∃ t, Does (.bridgeAccess spa width true data) s t ∧ t.parts = s.parts ∧ t.uregs = s.uregs ∧
        ∀ b, t.byte b = if a ≤ b ∧ b < a + n then data.extractLsb' (8 * (b - a)) 8 else s.byte b) ∧
      (wr = false → ∃ t, Does (.bridgeAccess spa width false data) s t ∧ t.mem = s.mem ∧ t.hostData = s.peekBytes a n)) ∧
    (∀ w, isStack u = true → w ≤ 8 → o + w ≤ 0x001000000000 → State.bridgeSpa spa w = some spa)) ∧
  (∀ (s : State) (u off width : Nat) (data : DWord) (wr : Bool),
    let proper := (width = 4 ∨ width = 8) ∧ off % width = 0
    let word := off / 8 * 8
    (2048 ≤ u → Does (.registerWrite wr u off width data) s (s.fnAccess wr (u - 2048) off width data.toNat)) ∧
    (u < 2048 → u ∈ s.allUnits → off < 0x200000 →
      (¬proper → ∃ t, Does (.registerWrite wr u off width data) s t ∧ SameBut s t ∧
        (t.ureg 2048 0x18).getLsbD 16 = true ∧ (wr = false → t.hostData = leBytes (min 8 width) 0)) ∧
      (proper → wr = true → Does (.registerWrite wr u off width data) s
        (s.putUnit u word (regW off width data.toNat))) ∧
      (proper → wr = false → ∃ t, Does (.registerWrite wr u off width data) s t ∧ SameBut s t ∧
        t.hostData = leBytes width (s.unitWord u word / 2 ^ (8 * (off % 8))))) ∧
    (u < 2048 → u ∉ s.allUnits ∨ 0x200000 ≤ off → Does (.registerWrite wr u off width data) s s))

end
end

