-- ==== Sys2Proof/Laws/State.lean ====
section
/-! SUPPORT. What each named update of the state leaves in each field, by definition. -/

namespace Sys2Proof.Machine.State

/-! ### `setPart` -/

@[simp] theorem setPart_sched (s : State) (pid : Nat) (p : Part) : (s.setPart pid p).sched = s.sched := rfl
@[simp] theorem setPart_picks (s : State) (pid : Nat) (p : Part) : (s.setPart pid p).picks = s.picks := rfl
@[simp] theorem setPart_turn (s : State) (pid : Nat) (p : Part) : (s.setPart pid p).turn = s.turn := rfl
@[simp] theorem setPart_cur (s : State) (pid : Nat) (p : Part) : (s.setPart pid p).cur = s.cur := rfl
@[simp] theorem setPart_ctr (s : State) (pid : Nat) (p : Part) : (s.setPart pid p).ctr = s.ctr := rfl
@[simp] theorem setPart_ids (s : State) (pid : Nat) (p : Part) : (s.setPart pid p).ids = s.ids := rfl
@[simp] theorem setPart_lastSlot (s : State) (pid : Nat) (p : Part) : (s.setPart pid p).lastSlot = s.lastSlot := rfl
@[simp] theorem setPart_tick (s : State) (pid : Nat) (p : Part) : (s.setPart pid p).tick = s.tick := rfl
@[simp] theorem setPart_cyc (s : State) (pid : Nat) (p : Part) : (s.setPart pid p).cyc = s.cyc := rfl
@[simp] theorem setPart_lag (s : State) (pid : Nat) (p : Part) : (s.setPart pid p).lag = s.lag := rfl
@[simp] theorem setPart_held (s : State) (pid : Nat) (p : Part) : (s.setPart pid p).held = s.held := rfl
@[simp] theorem setPart_parts (s : State) (pid : Nat) (p : Part) : (s.setPart pid p).parts = Store.set Part.absent s.parts pid p := rfl
@[simp] theorem setPart_teams (s : State) (pid : Nat) (p : Part) : (s.setPart pid p).teams = s.teams := rfl
@[simp] theorem setPart_mem (s : State) (pid : Nat) (p : Part) : (s.setPart pid p).mem = s.mem := rfl
@[simp] theorem setPart_memKey (s : State) (pid : Nat) (p : Part) : (s.setPart pid p).memKey = s.memKey := rfl
@[simp] theorem setPart_keys (s : State) (pid : Nat) (p : Part) : (s.setPart pid p).keys = s.keys := rfl
@[simp] theorem setPart_revoking (s : State) (pid : Nat) (p : Part) : (s.setPart pid p).revoking = s.revoking := rfl
@[simp] theorem setPart_ecc (s : State) (pid : Nat) (p : Part) : (s.setPart pid p).ecc = s.ecc := rfl
@[simp] theorem setPart_poisonMark (s : State) (pid : Nat) (p : Part) : (s.setPart pid p).poisonMark = s.poisonMark := rfl
@[simp] theorem setPart_uregs (s : State) (pid : Nat) (p : Part) : (s.setPart pid p).uregs = s.uregs := rfl
@[simp] theorem setPart_icache (s : State) (pid : Nat) (p : Part) : (s.setPart pid p).icache = s.icache := rfl
@[simp] theorem setPart_codeOld (s : State) (pid : Nat) (p : Part) : (s.setPart pid p).codeOld = s.codeOld := rfl
@[simp] theorem setPart_icinvAt (s : State) (pid : Nat) (p : Part) : (s.setPart pid p).icinvAt = s.icinvAt := rfl
@[simp] theorem setPart_tr (s : State) (pid : Nat) (p : Part) : (s.setPart pid p).tr = s.tr := rfl
@[simp] theorem setPart_fab (s : State) (pid : Nat) (p : Part) : (s.setPart pid p).fab = s.fab := rfl
@[simp] theorem setPart_mg (s : State) (pid : Nat) (p : Part) : (s.setPart pid p).mg = s.mg := rfl
@[simp] theorem setPart_net (s : State) (pid : Nat) (p : Part) : (s.setPart pid p).net = s.net := rfl
@[simp] theorem setPart_dbg (s : State) (pid : Nat) (p : Part) : (s.setPart pid p).dbg = s.dbg := rfl
@[simp] theorem setPart_hostData (s : State) (pid : Nat) (p : Part) : (s.setPart pid p).hostData = s.hostData := rfl

/-! ### `setTeam` -/

@[simp] theorem setTeam_sched (s : State) (tk : Nat) (t : Team) : (s.setTeam tk t).sched = s.sched := rfl
@[simp] theorem setTeam_picks (s : State) (tk : Nat) (t : Team) : (s.setTeam tk t).picks = s.picks := rfl
@[simp] theorem setTeam_turn (s : State) (tk : Nat) (t : Team) : (s.setTeam tk t).turn = s.turn := rfl
@[simp] theorem setTeam_cur (s : State) (tk : Nat) (t : Team) : (s.setTeam tk t).cur = s.cur := rfl
@[simp] theorem setTeam_ctr (s : State) (tk : Nat) (t : Team) : (s.setTeam tk t).ctr = s.ctr := rfl
@[simp] theorem setTeam_ids (s : State) (tk : Nat) (t : Team) : (s.setTeam tk t).ids = s.ids := rfl
@[simp] theorem setTeam_lastSlot (s : State) (tk : Nat) (t : Team) : (s.setTeam tk t).lastSlot = s.lastSlot := rfl
@[simp] theorem setTeam_tick (s : State) (tk : Nat) (t : Team) : (s.setTeam tk t).tick = s.tick := rfl
@[simp] theorem setTeam_cyc (s : State) (tk : Nat) (t : Team) : (s.setTeam tk t).cyc = s.cyc := rfl
@[simp] theorem setTeam_lag (s : State) (tk : Nat) (t : Team) : (s.setTeam tk t).lag = s.lag := rfl
@[simp] theorem setTeam_held (s : State) (tk : Nat) (t : Team) : (s.setTeam tk t).held = s.held := rfl
@[simp] theorem setTeam_parts (s : State) (tk : Nat) (t : Team) : (s.setTeam tk t).parts = s.parts := rfl
@[simp] theorem setTeam_teams (s : State) (tk : Nat) (t : Team) : (s.setTeam tk t).teams = Store.set Team.absent s.teams tk t := rfl
@[simp] theorem setTeam_mem (s : State) (tk : Nat) (t : Team) : (s.setTeam tk t).mem = s.mem := rfl
@[simp] theorem setTeam_memKey (s : State) (tk : Nat) (t : Team) : (s.setTeam tk t).memKey = s.memKey := rfl
@[simp] theorem setTeam_keys (s : State) (tk : Nat) (t : Team) : (s.setTeam tk t).keys = s.keys := rfl
@[simp] theorem setTeam_revoking (s : State) (tk : Nat) (t : Team) : (s.setTeam tk t).revoking = s.revoking := rfl
@[simp] theorem setTeam_ecc (s : State) (tk : Nat) (t : Team) : (s.setTeam tk t).ecc = s.ecc := rfl
@[simp] theorem setTeam_poisonMark (s : State) (tk : Nat) (t : Team) : (s.setTeam tk t).poisonMark = s.poisonMark := rfl
@[simp] theorem setTeam_uregs (s : State) (tk : Nat) (t : Team) : (s.setTeam tk t).uregs = s.uregs := rfl
@[simp] theorem setTeam_icache (s : State) (tk : Nat) (t : Team) : (s.setTeam tk t).icache = s.icache := rfl
@[simp] theorem setTeam_codeOld (s : State) (tk : Nat) (t : Team) : (s.setTeam tk t).codeOld = s.codeOld := rfl
@[simp] theorem setTeam_icinvAt (s : State) (tk : Nat) (t : Team) : (s.setTeam tk t).icinvAt = s.icinvAt := rfl
@[simp] theorem setTeam_tr (s : State) (tk : Nat) (t : Team) : (s.setTeam tk t).tr = s.tr := rfl
@[simp] theorem setTeam_fab (s : State) (tk : Nat) (t : Team) : (s.setTeam tk t).fab = s.fab := rfl
@[simp] theorem setTeam_mg (s : State) (tk : Nat) (t : Team) : (s.setTeam tk t).mg = s.mg := rfl
@[simp] theorem setTeam_net (s : State) (tk : Nat) (t : Team) : (s.setTeam tk t).net = s.net := rfl
@[simp] theorem setTeam_dbg (s : State) (tk : Nat) (t : Team) : (s.setTeam tk t).dbg = s.dbg := rfl
@[simp] theorem setTeam_hostData (s : State) (tk : Nat) (t : Team) : (s.setTeam tk t).hostData = s.hostData := rfl

/-! ### `setByte` -/

@[simp] theorem setByte_sched (s : State) (a : Nat) (b : Byte) : (s.setByte a b).sched = s.sched := rfl
@[simp] theorem setByte_picks (s : State) (a : Nat) (b : Byte) : (s.setByte a b).picks = s.picks := rfl
@[simp] theorem setByte_turn (s : State) (a : Nat) (b : Byte) : (s.setByte a b).turn = s.turn := rfl
@[simp] theorem setByte_cur (s : State) (a : Nat) (b : Byte) : (s.setByte a b).cur = s.cur := rfl
@[simp] theorem setByte_ctr (s : State) (a : Nat) (b : Byte) : (s.setByte a b).ctr = s.ctr := rfl
@[simp] theorem setByte_ids (s : State) (a : Nat) (b : Byte) : (s.setByte a b).ids = s.ids := rfl
@[simp] theorem setByte_lastSlot (s : State) (a : Nat) (b : Byte) : (s.setByte a b).lastSlot = s.lastSlot := rfl
@[simp] theorem setByte_tick (s : State) (a : Nat) (b : Byte) : (s.setByte a b).tick = s.tick := rfl
@[simp] theorem setByte_cyc (s : State) (a : Nat) (b : Byte) : (s.setByte a b).cyc = s.cyc := rfl
@[simp] theorem setByte_lag (s : State) (a : Nat) (b : Byte) : (s.setByte a b).lag = s.lag := rfl
@[simp] theorem setByte_held (s : State) (a : Nat) (b : Byte) : (s.setByte a b).held = s.held := rfl
@[simp] theorem setByte_parts (s : State) (a : Nat) (b : Byte) : (s.setByte a b).parts = s.parts := rfl
@[simp] theorem setByte_teams (s : State) (a : Nat) (b : Byte) : (s.setByte a b).teams = s.teams := rfl
@[simp] theorem setByte_mem (s : State) (a : Nat) (b : Byte) : (s.setByte a b).mem = Store.set 0 s.mem a b := rfl
@[simp] theorem setByte_memKey (s : State) (a : Nat) (b : Byte) : (s.setByte a b).memKey = s.memKey := rfl
@[simp] theorem setByte_keys (s : State) (a : Nat) (b : Byte) : (s.setByte a b).keys = s.keys := rfl
@[simp] theorem setByte_revoking (s : State) (a : Nat) (b : Byte) : (s.setByte a b).revoking = s.revoking := rfl
@[simp] theorem setByte_ecc (s : State) (a : Nat) (b : Byte) : (s.setByte a b).ecc = s.ecc := rfl
@[simp] theorem setByte_poisonMark (s : State) (a : Nat) (b : Byte) : (s.setByte a b).poisonMark = s.poisonMark := rfl
@[simp] theorem setByte_uregs (s : State) (a : Nat) (b : Byte) : (s.setByte a b).uregs = s.uregs := rfl
@[simp] theorem setByte_icache (s : State) (a : Nat) (b : Byte) : (s.setByte a b).icache = s.icache := rfl
@[simp] theorem setByte_codeOld (s : State) (a : Nat) (b : Byte) : (s.setByte a b).codeOld = s.codeOld := rfl
@[simp] theorem setByte_icinvAt (s : State) (a : Nat) (b : Byte) : (s.setByte a b).icinvAt = s.icinvAt := rfl
@[simp] theorem setByte_tr (s : State) (a : Nat) (b : Byte) : (s.setByte a b).tr = s.tr := rfl
@[simp] theorem setByte_fab (s : State) (a : Nat) (b : Byte) : (s.setByte a b).fab = s.fab := rfl
@[simp] theorem setByte_mg (s : State) (a : Nat) (b : Byte) : (s.setByte a b).mg = s.mg := rfl
@[simp] theorem setByte_net (s : State) (a : Nat) (b : Byte) : (s.setByte a b).net = s.net := rfl
@[simp] theorem setByte_dbg (s : State) (a : Nat) (b : Byte) : (s.setByte a b).dbg = s.dbg := rfl
@[simp] theorem setByte_hostData (s : State) (a : Nat) (b : Byte) : (s.setByte a b).hostData = s.hostData := rfl

/-! ### `setUreg` -/

@[simp] theorem setUreg_sched (s : State) (u off : Nat) (x : DWord) : (s.setUreg u off x).sched = s.sched := rfl
@[simp] theorem setUreg_picks (s : State) (u off : Nat) (x : DWord) : (s.setUreg u off x).picks = s.picks := rfl
@[simp] theorem setUreg_turn (s : State) (u off : Nat) (x : DWord) : (s.setUreg u off x).turn = s.turn := rfl
@[simp] theorem setUreg_cur (s : State) (u off : Nat) (x : DWord) : (s.setUreg u off x).cur = s.cur := rfl
@[simp] theorem setUreg_ctr (s : State) (u off : Nat) (x : DWord) : (s.setUreg u off x).ctr = s.ctr := rfl
@[simp] theorem setUreg_ids (s : State) (u off : Nat) (x : DWord) : (s.setUreg u off x).ids = s.ids := rfl
@[simp] theorem setUreg_lastSlot (s : State) (u off : Nat) (x : DWord) : (s.setUreg u off x).lastSlot = s.lastSlot := rfl
@[simp] theorem setUreg_tick (s : State) (u off : Nat) (x : DWord) : (s.setUreg u off x).tick = s.tick := rfl
@[simp] theorem setUreg_cyc (s : State) (u off : Nat) (x : DWord) : (s.setUreg u off x).cyc = s.cyc := rfl
@[simp] theorem setUreg_lag (s : State) (u off : Nat) (x : DWord) : (s.setUreg u off x).lag = s.lag := rfl
@[simp] theorem setUreg_held (s : State) (u off : Nat) (x : DWord) : (s.setUreg u off x).held = s.held := rfl
@[simp] theorem setUreg_parts (s : State) (u off : Nat) (x : DWord) : (s.setUreg u off x).parts = s.parts := rfl
@[simp] theorem setUreg_teams (s : State) (u off : Nat) (x : DWord) : (s.setUreg u off x).teams = s.teams := rfl
@[simp] theorem setUreg_mem (s : State) (u off : Nat) (x : DWord) : (s.setUreg u off x).mem = s.mem := rfl
@[simp] theorem setUreg_memKey (s : State) (u off : Nat) (x : DWord) : (s.setUreg u off x).memKey = s.memKey := rfl
@[simp] theorem setUreg_keys (s : State) (u off : Nat) (x : DWord) : (s.setUreg u off x).keys = s.keys := rfl
@[simp] theorem setUreg_revoking (s : State) (u off : Nat) (x : DWord) : (s.setUreg u off x).revoking = s.revoking := rfl
@[simp] theorem setUreg_ecc (s : State) (u off : Nat) (x : DWord) : (s.setUreg u off x).ecc = s.ecc := rfl
@[simp] theorem setUreg_poisonMark (s : State) (u off : Nat) (x : DWord) : (s.setUreg u off x).poisonMark = s.poisonMark := rfl
@[simp] theorem setUreg_uregs (s : State) (u off : Nat) (x : DWord) : (s.setUreg u off x).uregs = Store.set 0 s.uregs (regIx u off) (x ^^^ BitVec.ofNat 64 (regReset u off)) := rfl
@[simp] theorem setUreg_icache (s : State) (u off : Nat) (x : DWord) : (s.setUreg u off x).icache = s.icache := rfl
@[simp] theorem setUreg_codeOld (s : State) (u off : Nat) (x : DWord) : (s.setUreg u off x).codeOld = s.codeOld := rfl
@[simp] theorem setUreg_icinvAt (s : State) (u off : Nat) (x : DWord) : (s.setUreg u off x).icinvAt = s.icinvAt := rfl
@[simp] theorem setUreg_tr (s : State) (u off : Nat) (x : DWord) : (s.setUreg u off x).tr = s.tr := rfl
@[simp] theorem setUreg_fab (s : State) (u off : Nat) (x : DWord) : (s.setUreg u off x).fab = s.fab := rfl
@[simp] theorem setUreg_mg (s : State) (u off : Nat) (x : DWord) : (s.setUreg u off x).mg = s.mg := rfl
@[simp] theorem setUreg_net (s : State) (u off : Nat) (x : DWord) : (s.setUreg u off x).net = s.net := rfl
@[simp] theorem setUreg_dbg (s : State) (u off : Nat) (x : DWord) : (s.setUreg u off x).dbg = s.dbg := rfl
@[simp] theorem setUreg_hostData (s : State) (u off : Nat) (x : DWord) : (s.setUreg u off x).hostData = s.hostData := rfl

/-! ### `setPartition` -/

@[simp] theorem setPartition_sched (s : State) (n : Nat) (p : Partition) : (s.setPartition n p).sched = s.sched := rfl
@[simp] theorem setPartition_picks (s : State) (n : Nat) (p : Partition) : (s.setPartition n p).picks = s.picks := rfl
@[simp] theorem setPartition_turn (s : State) (n : Nat) (p : Partition) : (s.setPartition n p).turn = s.turn := rfl
@[simp] theorem setPartition_cur (s : State) (n : Nat) (p : Partition) : (s.setPartition n p).cur = s.cur := rfl
@[simp] theorem setPartition_ctr (s : State) (n : Nat) (p : Partition) : (s.setPartition n p).ctr = s.ctr := rfl
@[simp] theorem setPartition_ids (s : State) (n : Nat) (p : Partition) : (s.setPartition n p).ids = s.ids := rfl
@[simp] theorem setPartition_lastSlot (s : State) (n : Nat) (p : Partition) : (s.setPartition n p).lastSlot = s.lastSlot := rfl
@[simp] theorem setPartition_tick (s : State) (n : Nat) (p : Partition) : (s.setPartition n p).tick = s.tick := rfl
@[simp] theorem setPartition_cyc (s : State) (n : Nat) (p : Partition) : (s.setPartition n p).cyc = s.cyc := rfl
@[simp] theorem setPartition_lag (s : State) (n : Nat) (p : Partition) : (s.setPartition n p).lag = s.lag := rfl
@[simp] theorem setPartition_held (s : State) (n : Nat) (p : Partition) : (s.setPartition n p).held = s.held := rfl
@[simp] theorem setPartition_parts (s : State) (n : Nat) (p : Partition) : (s.setPartition n p).parts = s.parts := rfl
@[simp] theorem setPartition_teams (s : State) (n : Nat) (p : Partition) : (s.setPartition n p).teams = s.teams := rfl
@[simp] theorem setPartition_mem (s : State) (n : Nat) (p : Partition) : (s.setPartition n p).mem = s.mem := rfl
@[simp] theorem setPartition_memKey (s : State) (n : Nat) (p : Partition) : (s.setPartition n p).memKey = s.memKey := rfl
@[simp] theorem setPartition_keys (s : State) (n : Nat) (p : Partition) : (s.setPartition n p).keys = s.keys := rfl
@[simp] theorem setPartition_revoking (s : State) (n : Nat) (p : Partition) : (s.setPartition n p).revoking = s.revoking := rfl
@[simp] theorem setPartition_ecc (s : State) (n : Nat) (p : Partition) : (s.setPartition n p).ecc = s.ecc := rfl
@[simp] theorem setPartition_poisonMark (s : State) (n : Nat) (p : Partition) : (s.setPartition n p).poisonMark = s.poisonMark := rfl
@[simp] theorem setPartition_uregs (s : State) (n : Nat) (p : Partition) : (s.setPartition n p).uregs = s.uregs := rfl
@[simp] theorem setPartition_icache (s : State) (n : Nat) (p : Partition) : (s.setPartition n p).icache = s.icache := rfl
@[simp] theorem setPartition_codeOld (s : State) (n : Nat) (p : Partition) : (s.setPartition n p).codeOld = s.codeOld := rfl
@[simp] theorem setPartition_icinvAt (s : State) (n : Nat) (p : Partition) : (s.setPartition n p).icinvAt = s.icinvAt := rfl
@[simp] theorem setPartition_tr (s : State) (n : Nat) (p : Partition) : (s.setPartition n p).tr = s.tr := rfl
@[simp] theorem setPartition_fab (s : State) (n : Nat) (p : Partition) : (s.setPartition n p).fab = s.fab := rfl
@[simp] theorem setPartition_mg (s : State) (n : Nat) (p : Partition) : (s.setPartition n p).mg = { s.mg with parts := Store.set Partition.absent s.mg.parts n p } := rfl
@[simp] theorem setPartition_net (s : State) (n : Nat) (p : Partition) : (s.setPartition n p).net = s.net := rfl
@[simp] theorem setPartition_dbg (s : State) (n : Nat) (p : Partition) : (s.setPartition n p).dbg = s.dbg := rfl
@[simp] theorem setPartition_hostData (s : State) (n : Nat) (p : Partition) : (s.setPartition n p).hostData = s.hostData := rfl

/-! ### `setLaunch` -/

@[simp] theorem setLaunch_sched (s : State) (k : Nat) (l : Launch) : (s.setLaunch k l).sched = s.sched := rfl
@[simp] theorem setLaunch_picks (s : State) (k : Nat) (l : Launch) : (s.setLaunch k l).picks = s.picks := rfl
@[simp] theorem setLaunch_turn (s : State) (k : Nat) (l : Launch) : (s.setLaunch k l).turn = s.turn := rfl
@[simp] theorem setLaunch_cur (s : State) (k : Nat) (l : Launch) : (s.setLaunch k l).cur = s.cur := rfl
@[simp] theorem setLaunch_ctr (s : State) (k : Nat) (l : Launch) : (s.setLaunch k l).ctr = s.ctr := rfl
@[simp] theorem setLaunch_ids (s : State) (k : Nat) (l : Launch) : (s.setLaunch k l).ids = s.ids := rfl
@[simp] theorem setLaunch_lastSlot (s : State) (k : Nat) (l : Launch) : (s.setLaunch k l).lastSlot = s.lastSlot := rfl
@[simp] theorem setLaunch_tick (s : State) (k : Nat) (l : Launch) : (s.setLaunch k l).tick = s.tick := rfl
@[simp] theorem setLaunch_cyc (s : State) (k : Nat) (l : Launch) : (s.setLaunch k l).cyc = s.cyc := rfl
@[simp] theorem setLaunch_lag (s : State) (k : Nat) (l : Launch) : (s.setLaunch k l).lag = s.lag := rfl
@[simp] theorem setLaunch_held (s : State) (k : Nat) (l : Launch) : (s.setLaunch k l).held = s.held := rfl
@[simp] theorem setLaunch_parts (s : State) (k : Nat) (l : Launch) : (s.setLaunch k l).parts = s.parts := rfl
@[simp] theorem setLaunch_teams (s : State) (k : Nat) (l : Launch) : (s.setLaunch k l).teams = s.teams := rfl
@[simp] theorem setLaunch_mem (s : State) (k : Nat) (l : Launch) : (s.setLaunch k l).mem = s.mem := rfl
@[simp] theorem setLaunch_memKey (s : State) (k : Nat) (l : Launch) : (s.setLaunch k l).memKey = s.memKey := rfl
@[simp] theorem setLaunch_keys (s : State) (k : Nat) (l : Launch) : (s.setLaunch k l).keys = s.keys := rfl
@[simp] theorem setLaunch_revoking (s : State) (k : Nat) (l : Launch) : (s.setLaunch k l).revoking = s.revoking := rfl
@[simp] theorem setLaunch_ecc (s : State) (k : Nat) (l : Launch) : (s.setLaunch k l).ecc = s.ecc := rfl
@[simp] theorem setLaunch_poisonMark (s : State) (k : Nat) (l : Launch) : (s.setLaunch k l).poisonMark = s.poisonMark := rfl
@[simp] theorem setLaunch_uregs (s : State) (k : Nat) (l : Launch) : (s.setLaunch k l).uregs = s.uregs := rfl
@[simp] theorem setLaunch_icache (s : State) (k : Nat) (l : Launch) : (s.setLaunch k l).icache = s.icache := rfl
@[simp] theorem setLaunch_codeOld (s : State) (k : Nat) (l : Launch) : (s.setLaunch k l).codeOld = s.codeOld := rfl
@[simp] theorem setLaunch_icinvAt (s : State) (k : Nat) (l : Launch) : (s.setLaunch k l).icinvAt = s.icinvAt := rfl
@[simp] theorem setLaunch_tr (s : State) (k : Nat) (l : Launch) : (s.setLaunch k l).tr = s.tr := rfl
@[simp] theorem setLaunch_fab (s : State) (k : Nat) (l : Launch) : (s.setLaunch k l).fab = s.fab := rfl
@[simp] theorem setLaunch_mg (s : State) (k : Nat) (l : Launch) : (s.setLaunch k l).mg = { s.mg with launches := Store.set Launch.absent s.mg.launches k l } := rfl
@[simp] theorem setLaunch_net (s : State) (k : Nat) (l : Launch) : (s.setLaunch k l).net = s.net := rfl
@[simp] theorem setLaunch_dbg (s : State) (k : Nat) (l : Launch) : (s.setLaunch k l).dbg = s.dbg := rfl
@[simp] theorem setLaunch_hostData (s : State) (k : Nat) (l : Launch) : (s.setLaunch k l).hostData = s.hostData := rfl

/-! ### `setVia` -/

@[simp] theorem setVia_sched (s : State) (k : Nat) (v : Option Via) : (s.setVia k v).sched = s.sched := rfl
@[simp] theorem setVia_picks (s : State) (k : Nat) (v : Option Via) : (s.setVia k v).picks = s.picks := rfl
@[simp] theorem setVia_turn (s : State) (k : Nat) (v : Option Via) : (s.setVia k v).turn = s.turn := rfl
@[simp] theorem setVia_cur (s : State) (k : Nat) (v : Option Via) : (s.setVia k v).cur = s.cur := rfl
@[simp] theorem setVia_ctr (s : State) (k : Nat) (v : Option Via) : (s.setVia k v).ctr = s.ctr := rfl
@[simp] theorem setVia_ids (s : State) (k : Nat) (v : Option Via) : (s.setVia k v).ids = s.ids := rfl
@[simp] theorem setVia_lastSlot (s : State) (k : Nat) (v : Option Via) : (s.setVia k v).lastSlot = s.lastSlot := rfl
@[simp] theorem setVia_tick (s : State) (k : Nat) (v : Option Via) : (s.setVia k v).tick = s.tick := rfl
@[simp] theorem setVia_cyc (s : State) (k : Nat) (v : Option Via) : (s.setVia k v).cyc = s.cyc := rfl
@[simp] theorem setVia_lag (s : State) (k : Nat) (v : Option Via) : (s.setVia k v).lag = s.lag := rfl
@[simp] theorem setVia_held (s : State) (k : Nat) (v : Option Via) : (s.setVia k v).held = s.held := rfl
@[simp] theorem setVia_parts (s : State) (k : Nat) (v : Option Via) : (s.setVia k v).parts = s.parts := rfl
@[simp] theorem setVia_teams (s : State) (k : Nat) (v : Option Via) : (s.setVia k v).teams = s.teams := rfl
@[simp] theorem setVia_mem (s : State) (k : Nat) (v : Option Via) : (s.setVia k v).mem = s.mem := rfl
@[simp] theorem setVia_memKey (s : State) (k : Nat) (v : Option Via) : (s.setVia k v).memKey = s.memKey := rfl
@[simp] theorem setVia_keys (s : State) (k : Nat) (v : Option Via) : (s.setVia k v).keys = s.keys := rfl
@[simp] theorem setVia_revoking (s : State) (k : Nat) (v : Option Via) : (s.setVia k v).revoking = s.revoking := rfl
@[simp] theorem setVia_ecc (s : State) (k : Nat) (v : Option Via) : (s.setVia k v).ecc = s.ecc := rfl
@[simp] theorem setVia_poisonMark (s : State) (k : Nat) (v : Option Via) : (s.setVia k v).poisonMark = s.poisonMark := rfl
@[simp] theorem setVia_uregs (s : State) (k : Nat) (v : Option Via) : (s.setVia k v).uregs = s.uregs := rfl
@[simp] theorem setVia_icache (s : State) (k : Nat) (v : Option Via) : (s.setVia k v).icache = s.icache := rfl
@[simp] theorem setVia_codeOld (s : State) (k : Nat) (v : Option Via) : (s.setVia k v).codeOld = s.codeOld := rfl
@[simp] theorem setVia_icinvAt (s : State) (k : Nat) (v : Option Via) : (s.setVia k v).icinvAt = s.icinvAt := rfl
@[simp] theorem setVia_tr (s : State) (k : Nat) (v : Option Via) : (s.setVia k v).tr = s.tr := rfl
@[simp] theorem setVia_fab (s : State) (k : Nat) (v : Option Via) : (s.setVia k v).fab = { s.fab with vias := Store.set none s.fab.vias k v } := rfl
@[simp] theorem setVia_mg (s : State) (k : Nat) (v : Option Via) : (s.setVia k v).mg = s.mg := rfl
@[simp] theorem setVia_net (s : State) (k : Nat) (v : Option Via) : (s.setVia k v).net = s.net := rfl
@[simp] theorem setVia_dbg (s : State) (k : Nat) (v : Option Via) : (s.setVia k v).dbg = s.dbg := rfl
@[simp] theorem setVia_hostData (s : State) (k : Nat) (v : Option Via) : (s.setVia k v).hostData = s.hostData := rfl

/-! ### `putMsg` -/

@[simp] theorem putMsg_sched (s : State) (k : Nat) (m : Msg) (v : Via) : (s.putMsg k m v).sched = s.sched := rfl
@[simp] theorem putMsg_picks (s : State) (k : Nat) (m : Msg) (v : Via) : (s.putMsg k m v).picks = s.picks := rfl
@[simp] theorem putMsg_turn (s : State) (k : Nat) (m : Msg) (v : Via) : (s.putMsg k m v).turn = s.turn := rfl
@[simp] theorem putMsg_cur (s : State) (k : Nat) (m : Msg) (v : Via) : (s.putMsg k m v).cur = s.cur := rfl
@[simp] theorem putMsg_ctr (s : State) (k : Nat) (m : Msg) (v : Via) : (s.putMsg k m v).ctr = s.ctr := rfl
@[simp] theorem putMsg_ids (s : State) (k : Nat) (m : Msg) (v : Via) : (s.putMsg k m v).ids = s.ids := rfl
@[simp] theorem putMsg_lastSlot (s : State) (k : Nat) (m : Msg) (v : Via) : (s.putMsg k m v).lastSlot = s.lastSlot := rfl
@[simp] theorem putMsg_tick (s : State) (k : Nat) (m : Msg) (v : Via) : (s.putMsg k m v).tick = s.tick := rfl
@[simp] theorem putMsg_cyc (s : State) (k : Nat) (m : Msg) (v : Via) : (s.putMsg k m v).cyc = s.cyc := rfl
@[simp] theorem putMsg_lag (s : State) (k : Nat) (m : Msg) (v : Via) : (s.putMsg k m v).lag = s.lag := rfl
@[simp] theorem putMsg_held (s : State) (k : Nat) (m : Msg) (v : Via) : (s.putMsg k m v).held = s.held := rfl
@[simp] theorem putMsg_parts (s : State) (k : Nat) (m : Msg) (v : Via) : (s.putMsg k m v).parts = s.parts := rfl
@[simp] theorem putMsg_teams (s : State) (k : Nat) (m : Msg) (v : Via) : (s.putMsg k m v).teams = s.teams := rfl
@[simp] theorem putMsg_mem (s : State) (k : Nat) (m : Msg) (v : Via) : (s.putMsg k m v).mem = s.mem := rfl
@[simp] theorem putMsg_memKey (s : State) (k : Nat) (m : Msg) (v : Via) : (s.putMsg k m v).memKey = s.memKey := rfl
@[simp] theorem putMsg_keys (s : State) (k : Nat) (m : Msg) (v : Via) : (s.putMsg k m v).keys = s.keys := rfl
@[simp] theorem putMsg_revoking (s : State) (k : Nat) (m : Msg) (v : Via) : (s.putMsg k m v).revoking = s.revoking := rfl
@[simp] theorem putMsg_ecc (s : State) (k : Nat) (m : Msg) (v : Via) : (s.putMsg k m v).ecc = s.ecc := rfl
@[simp] theorem putMsg_poisonMark (s : State) (k : Nat) (m : Msg) (v : Via) : (s.putMsg k m v).poisonMark = s.poisonMark := rfl
@[simp] theorem putMsg_uregs (s : State) (k : Nat) (m : Msg) (v : Via) : (s.putMsg k m v).uregs = s.uregs := rfl
@[simp] theorem putMsg_icache (s : State) (k : Nat) (m : Msg) (v : Via) : (s.putMsg k m v).icache = s.icache := rfl
@[simp] theorem putMsg_codeOld (s : State) (k : Nat) (m : Msg) (v : Via) : (s.putMsg k m v).codeOld = s.codeOld := rfl
@[simp] theorem putMsg_icinvAt (s : State) (k : Nat) (m : Msg) (v : Via) : (s.putMsg k m v).icinvAt = s.icinvAt := rfl
@[simp] theorem putMsg_tr (s : State) (k : Nat) (m : Msg) (v : Via) : (s.putMsg k m v).tr = s.tr := rfl
@[simp] theorem putMsg_fab (s : State) (k : Nat) (m : Msg) (v : Via) : (s.putMsg k m v).fab = { s.fab with msgs := Store.set none s.fab.msgs k (some m), vias := Store.set none s.fab.vias k (some v) } := rfl
@[simp] theorem putMsg_mg (s : State) (k : Nat) (m : Msg) (v : Via) : (s.putMsg k m v).mg = s.mg := rfl
@[simp] theorem putMsg_net (s : State) (k : Nat) (m : Msg) (v : Via) : (s.putMsg k m v).net = s.net := rfl
@[simp] theorem putMsg_dbg (s : State) (k : Nat) (m : Msg) (v : Via) : (s.putMsg k m v).dbg = s.dbg := rfl
@[simp] theorem putMsg_hostData (s : State) (k : Nat) (m : Msg) (v : Via) : (s.putMsg k m v).hostData = s.hostData := rfl

/-! ### `post` -/

@[simp] theorem post_sched (s : State) (m : Msg) : (s.post m).sched = s.sched := rfl
@[simp] theorem post_picks (s : State) (m : Msg) : (s.post m).picks = s.picks := rfl
@[simp] theorem post_turn (s : State) (m : Msg) : (s.post m).turn = s.turn := rfl
@[simp] theorem post_cur (s : State) (m : Msg) : (s.post m).cur = s.cur := rfl
@[simp] theorem post_ctr (s : State) (m : Msg) : (s.post m).ctr = s.ctr := rfl
@[simp] theorem post_ids (s : State) (m : Msg) : (s.post m).ids = s.ids + 1 := rfl
@[simp] theorem post_lastSlot (s : State) (m : Msg) : (s.post m).lastSlot = s.lastSlot := rfl
@[simp] theorem post_tick (s : State) (m : Msg) : (s.post m).tick = s.tick := rfl
@[simp] theorem post_cyc (s : State) (m : Msg) : (s.post m).cyc = s.cyc := rfl
@[simp] theorem post_lag (s : State) (m : Msg) : (s.post m).lag = s.lag := rfl
@[simp] theorem post_held (s : State) (m : Msg) : (s.post m).held = s.held := rfl
@[simp] theorem post_parts (s : State) (m : Msg) : (s.post m).parts = s.parts := rfl
@[simp] theorem post_teams (s : State) (m : Msg) : (s.post m).teams = s.teams := rfl
@[simp] theorem post_mem (s : State) (m : Msg) : (s.post m).mem = s.mem := rfl
@[simp] theorem post_memKey (s : State) (m : Msg) : (s.post m).memKey = s.memKey := rfl
@[simp] theorem post_keys (s : State) (m : Msg) : (s.post m).keys = s.keys := rfl
@[simp] theorem post_revoking (s : State) (m : Msg) : (s.post m).revoking = s.revoking := rfl
@[simp] theorem post_ecc (s : State) (m : Msg) : (s.post m).ecc = s.ecc := rfl
@[simp] theorem post_poisonMark (s : State) (m : Msg) : (s.post m).poisonMark = s.poisonMark := rfl
@[simp] theorem post_uregs (s : State) (m : Msg) : (s.post m).uregs = s.uregs := rfl
@[simp] theorem post_icache (s : State) (m : Msg) : (s.post m).icache = s.icache := rfl
@[simp] theorem post_codeOld (s : State) (m : Msg) : (s.post m).codeOld = s.codeOld := rfl
@[simp] theorem post_icinvAt (s : State) (m : Msg) : (s.post m).icinvAt = s.icinvAt := rfl
@[simp] theorem post_tr (s : State) (m : Msg) : (s.post m).tr = s.tr := rfl
@[simp] theorem post_fab (s : State) (m : Msg) : (s.post m).fab = (s.putMsg s.ids m (s.msgVia m)).fab := rfl
@[simp] theorem post_mg (s : State) (m : Msg) : (s.post m).mg = s.mg := rfl
@[simp] theorem post_net (s : State) (m : Msg) : (s.post m).net = s.net := rfl
@[simp] theorem post_dbg (s : State) (m : Msg) : (s.post m).dbg = s.dbg := rfl
@[simp] theorem post_hostData (s : State) (m : Msg) : (s.post m).hostData = s.hostData := rfl

/-! ### `dropMsg` -/

@[simp] theorem dropMsg_sched (s : State) (k : Nat) : (s.dropMsg k).sched = s.sched := rfl
@[simp] theorem dropMsg_picks (s : State) (k : Nat) : (s.dropMsg k).picks = s.picks := rfl
@[simp] theorem dropMsg_turn (s : State) (k : Nat) : (s.dropMsg k).turn = s.turn := rfl
@[simp] theorem dropMsg_cur (s : State) (k : Nat) : (s.dropMsg k).cur = s.cur := rfl
@[simp] theorem dropMsg_ctr (s : State) (k : Nat) : (s.dropMsg k).ctr = s.ctr := rfl
@[simp] theorem dropMsg_ids (s : State) (k : Nat) : (s.dropMsg k).ids = s.ids := rfl
@[simp] theorem dropMsg_lastSlot (s : State) (k : Nat) : (s.dropMsg k).lastSlot = s.lastSlot := rfl
@[simp] theorem dropMsg_tick (s : State) (k : Nat) : (s.dropMsg k).tick = s.tick := rfl
@[simp] theorem dropMsg_cyc (s : State) (k : Nat) : (s.dropMsg k).cyc = s.cyc := rfl
@[simp] theorem dropMsg_lag (s : State) (k : Nat) : (s.dropMsg k).lag = s.lag := rfl
@[simp] theorem dropMsg_held (s : State) (k : Nat) : (s.dropMsg k).held = s.held := rfl
@[simp] theorem dropMsg_parts (s : State) (k : Nat) : (s.dropMsg k).parts = s.parts := rfl
@[simp] theorem dropMsg_teams (s : State) (k : Nat) : (s.dropMsg k).teams = s.teams := rfl
@[simp] theorem dropMsg_mem (s : State) (k : Nat) : (s.dropMsg k).mem = s.mem := rfl
@[simp] theorem dropMsg_memKey (s : State) (k : Nat) : (s.dropMsg k).memKey = s.memKey := rfl
@[simp] theorem dropMsg_keys (s : State) (k : Nat) : (s.dropMsg k).keys = s.keys := rfl
@[simp] theorem dropMsg_revoking (s : State) (k : Nat) : (s.dropMsg k).revoking = s.revoking := rfl
@[simp] theorem dropMsg_ecc (s : State) (k : Nat) : (s.dropMsg k).ecc = s.ecc := rfl
@[simp] theorem dropMsg_poisonMark (s : State) (k : Nat) : (s.dropMsg k).poisonMark = s.poisonMark := rfl
@[simp] theorem dropMsg_uregs (s : State) (k : Nat) : (s.dropMsg k).uregs = s.uregs := rfl
@[simp] theorem dropMsg_icache (s : State) (k : Nat) : (s.dropMsg k).icache = s.icache := rfl
@[simp] theorem dropMsg_codeOld (s : State) (k : Nat) : (s.dropMsg k).codeOld = s.codeOld := rfl
@[simp] theorem dropMsg_icinvAt (s : State) (k : Nat) : (s.dropMsg k).icinvAt = s.icinvAt := rfl
@[simp] theorem dropMsg_tr (s : State) (k : Nat) : (s.dropMsg k).tr = s.tr := rfl
@[simp] theorem dropMsg_fab (s : State) (k : Nat) : (s.dropMsg k).fab = { s.fab with msgs := Store.set none s.fab.msgs k none, vias := Store.set none s.fab.vias k none } := rfl
@[simp] theorem dropMsg_mg (s : State) (k : Nat) : (s.dropMsg k).mg = s.mg := rfl
@[simp] theorem dropMsg_net (s : State) (k : Nat) : (s.dropMsg k).net = s.net := rfl
@[simp] theorem dropMsg_dbg (s : State) (k : Nat) : (s.dropMsg k).dbg = s.dbg := rfl
@[simp] theorem dropMsg_hostData (s : State) (k : Nat) : (s.dropMsg k).hostData = s.hostData := rfl

/-! ### `landed` -/

@[simp] theorem landed_sched (s : State) (k : Nat) : (s.landed k).sched = s.sched := rfl
@[simp] theorem landed_picks (s : State) (k : Nat) : (s.landed k).picks = s.picks := rfl
@[simp] theorem landed_turn (s : State) (k : Nat) : (s.landed k).turn = s.turn := rfl
@[simp] theorem landed_cur (s : State) (k : Nat) : (s.landed k).cur = s.cur := rfl
@[simp] theorem landed_ctr (s : State) (k : Nat) : (s.landed k).ctr = s.ctr := rfl
@[simp] theorem landed_ids (s : State) (k : Nat) : (s.landed k).ids = s.ids := rfl
@[simp] theorem landed_lastSlot (s : State) (k : Nat) : (s.landed k).lastSlot = s.lastSlot := rfl
@[simp] theorem landed_tick (s : State) (k : Nat) : (s.landed k).tick = s.tick := rfl
@[simp] theorem landed_cyc (s : State) (k : Nat) : (s.landed k).cyc = s.cyc := rfl
@[simp] theorem landed_lag (s : State) (k : Nat) : (s.landed k).lag = s.lag := rfl
@[simp] theorem landed_held (s : State) (k : Nat) : (s.landed k).held = s.held := rfl
@[simp] theorem landed_parts (s : State) (k : Nat) : (s.landed k).parts = s.parts := rfl
@[simp] theorem landed_teams (s : State) (k : Nat) : (s.landed k).teams = s.teams := rfl
@[simp] theorem landed_mem (s : State) (k : Nat) : (s.landed k).mem = s.mem := rfl
@[simp] theorem landed_memKey (s : State) (k : Nat) : (s.landed k).memKey = s.memKey := rfl
@[simp] theorem landed_keys (s : State) (k : Nat) : (s.landed k).keys = s.keys := rfl
@[simp] theorem landed_revoking (s : State) (k : Nat) : (s.landed k).revoking = s.revoking := rfl
@[simp] theorem landed_ecc (s : State) (k : Nat) : (s.landed k).ecc = s.ecc := rfl
@[simp] theorem landed_poisonMark (s : State) (k : Nat) : (s.landed k).poisonMark = s.poisonMark := rfl
@[simp] theorem landed_uregs (s : State) (k : Nat) : (s.landed k).uregs = s.uregs := rfl
@[simp] theorem landed_icache (s : State) (k : Nat) : (s.landed k).icache = s.icache := rfl
@[simp] theorem landed_codeOld (s : State) (k : Nat) : (s.landed k).codeOld = s.codeOld := rfl
@[simp] theorem landed_icinvAt (s : State) (k : Nat) : (s.landed k).icinvAt = s.icinvAt := rfl
@[simp] theorem landed_tr (s : State) (k : Nat) : (s.landed k).tr = s.tr := rfl
@[simp] theorem landed_fab (s : State) (k : Nat) : (s.landed k).fab = { s.fab with vias := match s.via k with | none => s.fab.vias | some v => Store.set none s.fab.vias k (some ⟨v.dst, v.dst, v.prt, 9⟩) } := rfl
@[simp] theorem landed_mg (s : State) (k : Nat) : (s.landed k).mg = s.mg := rfl
@[simp] theorem landed_net (s : State) (k : Nat) : (s.landed k).net = s.net := rfl
@[simp] theorem landed_dbg (s : State) (k : Nat) : (s.landed k).dbg = s.dbg := rfl
@[simp] theorem landed_hostData (s : State) (k : Nat) : (s.landed k).hostData = s.hostData := rfl

/-! ### `setPreq` -/

@[simp] theorem setPreq_sched (s : State) (k : Nat) (r : Option PReq) : (s.setPreq k r).sched = s.sched := rfl
@[simp] theorem setPreq_picks (s : State) (k : Nat) (r : Option PReq) : (s.setPreq k r).picks = s.picks := rfl
@[simp] theorem setPreq_turn (s : State) (k : Nat) (r : Option PReq) : (s.setPreq k r).turn = s.turn := rfl
@[simp] theorem setPreq_cur (s : State) (k : Nat) (r : Option PReq) : (s.setPreq k r).cur = s.cur := rfl
@[simp] theorem setPreq_ctr (s : State) (k : Nat) (r : Option PReq) : (s.setPreq k r).ctr = s.ctr := rfl
@[simp] theorem setPreq_ids (s : State) (k : Nat) (r : Option PReq) : (s.setPreq k r).ids = s.ids := rfl
@[simp] theorem setPreq_lastSlot (s : State) (k : Nat) (r : Option PReq) : (s.setPreq k r).lastSlot = s.lastSlot := rfl
@[simp] theorem setPreq_tick (s : State) (k : Nat) (r : Option PReq) : (s.setPreq k r).tick = s.tick := rfl
@[simp] theorem setPreq_cyc (s : State) (k : Nat) (r : Option PReq) : (s.setPreq k r).cyc = s.cyc := rfl
@[simp] theorem setPreq_lag (s : State) (k : Nat) (r : Option PReq) : (s.setPreq k r).lag = s.lag := rfl
@[simp] theorem setPreq_held (s : State) (k : Nat) (r : Option PReq) : (s.setPreq k r).held = s.held := rfl
@[simp] theorem setPreq_parts (s : State) (k : Nat) (r : Option PReq) : (s.setPreq k r).parts = s.parts := rfl
@[simp] theorem setPreq_teams (s : State) (k : Nat) (r : Option PReq) : (s.setPreq k r).teams = s.teams := rfl
@[simp] theorem setPreq_mem (s : State) (k : Nat) (r : Option PReq) : (s.setPreq k r).mem = s.mem := rfl
@[simp] theorem setPreq_memKey (s : State) (k : Nat) (r : Option PReq) : (s.setPreq k r).memKey = s.memKey := rfl
@[simp] theorem setPreq_keys (s : State) (k : Nat) (r : Option PReq) : (s.setPreq k r).keys = s.keys := rfl
@[simp] theorem setPreq_revoking (s : State) (k : Nat) (r : Option PReq) : (s.setPreq k r).revoking = s.revoking := rfl
@[simp] theorem setPreq_ecc (s : State) (k : Nat) (r : Option PReq) : (s.setPreq k r).ecc = s.ecc := rfl
@[simp] theorem setPreq_poisonMark (s : State) (k : Nat) (r : Option PReq) : (s.setPreq k r).poisonMark = s.poisonMark := rfl
@[simp] theorem setPreq_uregs (s : State) (k : Nat) (r : Option PReq) : (s.setPreq k r).uregs = s.uregs := rfl
@[simp] theorem setPreq_icache (s : State) (k : Nat) (r : Option PReq) : (s.setPreq k r).icache = s.icache := rfl
@[simp] theorem setPreq_codeOld (s : State) (k : Nat) (r : Option PReq) : (s.setPreq k r).codeOld = s.codeOld := rfl
@[simp] theorem setPreq_icinvAt (s : State) (k : Nat) (r : Option PReq) : (s.setPreq k r).icinvAt = s.icinvAt := rfl
@[simp] theorem setPreq_tr (s : State) (k : Nat) (r : Option PReq) : (s.setPreq k r).tr = s.tr := rfl
@[simp] theorem setPreq_fab (s : State) (k : Nat) (r : Option PReq) : (s.setPreq k r).fab = { s.fab with posted := Store.set none s.fab.posted k r } := rfl
@[simp] theorem setPreq_mg (s : State) (k : Nat) (r : Option PReq) : (s.setPreq k r).mg = s.mg := rfl
@[simp] theorem setPreq_net (s : State) (k : Nat) (r : Option PReq) : (s.setPreq k r).net = s.net := rfl
@[simp] theorem setPreq_dbg (s : State) (k : Nat) (r : Option PReq) : (s.setPreq k r).dbg = s.dbg := rfl
@[simp] theorem setPreq_hostData (s : State) (k : Nat) (r : Option PReq) : (s.setPreq k r).hostData = s.hostData := rfl

/-! ### `zeroBytes` -/

@[simp] theorem zeroBytes_sched (s : State) (a n : Nat) : (s.zeroBytes a n).sched = s.sched := rfl
@[simp] theorem zeroBytes_picks (s : State) (a n : Nat) : (s.zeroBytes a n).picks = s.picks := rfl
@[simp] theorem zeroBytes_turn (s : State) (a n : Nat) : (s.zeroBytes a n).turn = s.turn := rfl
@[simp] theorem zeroBytes_cur (s : State) (a n : Nat) : (s.zeroBytes a n).cur = s.cur := rfl
@[simp] theorem zeroBytes_ctr (s : State) (a n : Nat) : (s.zeroBytes a n).ctr = s.ctr := rfl
@[simp] theorem zeroBytes_ids (s : State) (a n : Nat) : (s.zeroBytes a n).ids = s.ids := rfl
@[simp] theorem zeroBytes_lastSlot (s : State) (a n : Nat) : (s.zeroBytes a n).lastSlot = s.lastSlot := rfl
@[simp] theorem zeroBytes_tick (s : State) (a n : Nat) : (s.zeroBytes a n).tick = s.tick := rfl
@[simp] theorem zeroBytes_cyc (s : State) (a n : Nat) : (s.zeroBytes a n).cyc = s.cyc := rfl
@[simp] theorem zeroBytes_lag (s : State) (a n : Nat) : (s.zeroBytes a n).lag = s.lag := rfl
@[simp] theorem zeroBytes_held (s : State) (a n : Nat) : (s.zeroBytes a n).held = s.held := rfl
@[simp] theorem zeroBytes_parts (s : State) (a n : Nat) : (s.zeroBytes a n).parts = s.parts := rfl
@[simp] theorem zeroBytes_teams (s : State) (a n : Nat) : (s.zeroBytes a n).teams = s.teams := rfl
@[simp] theorem zeroBytes_mem (s : State) (a n : Nat) : (s.zeroBytes a n).mem = s.mem.filter (fun e => !(decide (a ≤ e.1) && decide (e.1 < a + n))) := rfl
@[simp] theorem zeroBytes_memKey (s : State) (a n : Nat) : (s.zeroBytes a n).memKey = s.memKey := rfl
@[simp] theorem zeroBytes_keys (s : State) (a n : Nat) : (s.zeroBytes a n).keys = s.keys := rfl
@[simp] theorem zeroBytes_revoking (s : State) (a n : Nat) : (s.zeroBytes a n).revoking = s.revoking := rfl
@[simp] theorem zeroBytes_ecc (s : State) (a n : Nat) : (s.zeroBytes a n).ecc = s.ecc := rfl
@[simp] theorem zeroBytes_poisonMark (s : State) (a n : Nat) : (s.zeroBytes a n).poisonMark = s.poisonMark := rfl
@[simp] theorem zeroBytes_uregs (s : State) (a n : Nat) : (s.zeroBytes a n).uregs = s.uregs := rfl
@[simp] theorem zeroBytes_icache (s : State) (a n : Nat) : (s.zeroBytes a n).icache = s.icache := rfl
@[simp] theorem zeroBytes_codeOld (s : State) (a n : Nat) : (s.zeroBytes a n).codeOld = s.codeOld := rfl
@[simp] theorem zeroBytes_icinvAt (s : State) (a n : Nat) : (s.zeroBytes a n).icinvAt = s.icinvAt := rfl
@[simp] theorem zeroBytes_tr (s : State) (a n : Nat) : (s.zeroBytes a n).tr = s.tr := rfl
@[simp] theorem zeroBytes_fab (s : State) (a n : Nat) : (s.zeroBytes a n).fab = s.fab := rfl
@[simp] theorem zeroBytes_mg (s : State) (a n : Nat) : (s.zeroBytes a n).mg = s.mg := rfl
@[simp] theorem zeroBytes_net (s : State) (a n : Nat) : (s.zeroBytes a n).net = s.net := rfl
@[simp] theorem zeroBytes_dbg (s : State) (a n : Nat) : (s.zeroBytes a n).dbg = s.dbg := rfl
@[simp] theorem zeroBytes_hostData (s : State) (a n : Nat) : (s.zeroBytes a n).hostData = s.hostData := rfl

end Sys2Proof.Machine.State
end

