-- ==== Sys2Proof/Laws/Store.lean ====
section
/-! SUPPORT. Laws of the sparse store: read after write, and the canonical form that every write keeps. -/

namespace Sys2Proof.Store
variable {α : Type}

@[simp] theorem get_nil (d : α) (k : Nat) : get d [] k = d := rfl

theorem get_cons (d : α) (k' : Nat) (x : α) (m : Store α) (k : Nat) :
    get d ((k', x) :: m) k = if k' = k then x else get d m k := rfl

theorem get_insertRaw (d : α) (m : Store α) (k : Nat) (x : α) (j : Nat) :
    get d (insertRaw m k x) j = if k = j then x else get d m j := by
  induction m with
  | nil => rfl
  | cons e m ih =>
    obtain ⟨k', y⟩ := e
    simp only [insertRaw]
    split
    · rfl
    · split
      · subst k'
        simp only [get_cons]
        split <;> rfl
      · simp only [get_cons, ih]
        split
        · subst k'
          rw [if_neg (fun h => by omega)]
        · rfl

theorem get_erase (d : α) (m : Store α) (k j : Nat) : get d (erase m k) j = if k = j then d else get d m j := by
  induction m with
  | nil => simp [erase]
  | cons e m ih =>
    obtain ⟨k', y⟩ := e
    simp only [erase] at ih
    by_cases h : k' = k
    · subst h
      simp only [erase, List.filter_cons, ne_eq, not_true_eq_false, decide_false, Bool.false_eq_true, if_false, ih, get_cons]
      split <;> rfl
    · simp only [erase, List.filter_cons, ne_eq, h, not_false_eq_true, decide_true, if_true, get_cons, ih]
      split
      · subst k'
        rw [if_neg (fun e => h e.symm)]
      · rfl

/-- Read after write, at every key. -/
theorem get_set [DecidableEq α] (d : α) (m : Store α) (k : Nat) (x : α) (j : Nat) :
    get d (set d m k x) j = if k = j then x else get d m j := by
  unfold set
  split
  · subst x
    exact get_erase d m k j
  · exact get_insertRaw d m k x j

@[simp] theorem get_set_same [DecidableEq α] (d : α) (m : Store α) (k : Nat) (x : α) : get d (set d m k x) k = x := by
  simp [get_set]

theorem get_set_of_ne [DecidableEq α] (d : α) (m : Store α) (k : Nat) (x : α) (j : Nat) (h : k ≠ j) :
    get d (set d m k x) j = get d m j := by
  simp [get_set, h]

theorem insertRaw_insertRaw (m : Store α) (k : Nat) (x y : α) : insertRaw (insertRaw m k x) k y = insertRaw m k y := by
  induction m with
  | nil => simp [insertRaw]
  | cons e m ih =>
    obtain ⟨k', z⟩ := e
    simp only [insertRaw]
    split
    · simp [insertRaw]
    · split
      · simp [insertRaw]
      · simp only [insertRaw]
        rw [if_neg ‹_›, if_neg ‹_›, ih]

theorem erase_insertRaw (m : Store α) (k : Nat) (x : α) : erase (insertRaw m k x) k = erase m k := by
  induction m with
  | nil => simp [insertRaw, erase]
  | cons e m ih =>
    obtain ⟨k', z⟩ := e
    simp only [erase] at ih
    simp only [insertRaw]
    split
    · simp [erase]
    · split
      · rename_i h
        simp [erase, h]
      · rename_i h
        rw [erase, erase, List.filter_cons, List.filter_cons, ih]

/-- A second write of the same key replaces the first. -/
theorem set_set [DecidableEq α] (d : α) (m : Store α) (k : Nat) (x y : α) (h : x ≠ d) :
    set d (set d m k x) k y = set d m k y := by
  unfold set
  rw [if_neg h]
  split
  · exact erase_insertRaw m k x
  · exact insertRaw_insertRaw m k x y

/-! ### The canonical form -/

/-- Every key of a rising table above `lo` is above `lo`, and the rest rises above its head. -/
theorem rising_cons (lo : Option Nat) (e : Nat × α) (m : Store α) :
    rising lo (e :: m) = true ↔ (∀ b, lo = some b → b < e.1) ∧ rising (some e.1) m = true := by
  obtain ⟨k, x⟩ := e
  cases lo <;> simp [rising]

theorem rising_weaken {lo : Option Nat} {b : Nat} {m : Store α} (h : rising (some b) m = true)
    (hb : ∀ c, lo = some c → c ≤ b) : rising lo m = true := by
  cases m with
  | nil => cases lo <;> rfl
  | cons e m =>
    rw [rising_cons] at h ⊢
    exact ⟨fun c hc => Nat.lt_of_le_of_lt (hb c hc) (h.1 b rfl), h.2⟩

theorem rising_filter (f : Nat × α → Bool) {lo : Option Nat} {m : Store α} (h : rising lo m = true) :
    rising lo (m.filter f) = true := by
  induction m generalizing lo with
  | nil => simpa using h
  | cons e m ih =>
    rw [rising_cons] at h
    rw [List.filter_cons]
    split
    · rw [rising_cons]
      exact ⟨h.1, ih h.2⟩
    · exact ih (rising_weaken h.2 (fun c hc => Nat.le_of_lt (h.1 c hc)))

theorem rising_insertRaw {lo : Option Nat} {m : Store α} {k : Nat} {x : α} (h : rising lo m = true)
    (hk : ∀ b, lo = some b → b < k) : rising lo (insertRaw m k x) = true := by
  induction m generalizing lo with
  | nil =>
    rw [insertRaw, rising_cons]
    exact ⟨hk, rfl⟩
  | cons e m ih =>
    obtain ⟨k', y⟩ := e
    rw [rising_cons] at h
    simp only [insertRaw]
    split
    · rename_i hlt
      rw [rising_cons, rising_cons]
      exact ⟨hk, fun b hb => by cases hb; exact hlt, h.2⟩
    · split
      · rename_i he
        subst he
        rw [rising_cons]
        exact h
      · rw [rising_cons]
        exact ⟨h.1, ih h.2 (fun b hb => by cases hb; simp only; omega)⟩

theorem all_insertRaw {m : Store α} {k : Nat} {x : α} (f : Nat × α → Bool) (h : m.all f = true) (hx : f (k, x) = true) :
    (insertRaw m k x).all f = true := by
  induction m with
  | nil => simpa [insertRaw] using hx
  | cons e m ih =>
    obtain ⟨k', y⟩ := e
    simp only [List.all_cons, Bool.and_eq_true] at h
    simp only [insertRaw]
    split
    · simp [hx, h.1, h.2]
    · split
      · simp [hx, h.2]
      · simp [h.1, ih h.2]

theorem wf_nil [DecidableEq α] (d : α) : wf d ([] : Store α) = true := rfl

/-- Removing entries keeps the canonical form. -/
theorem wf_filter [DecidableEq α] {d : α} {m : Store α} (f : Nat × α → Bool) (h : wf d m = true) :
    wf d (m.filter f) = true := by
  simp only [wf, Bool.and_eq_true] at h ⊢
  refine ⟨rising_filter f h.1, ?_⟩
  rw [List.all_eq_true] at h ⊢
  exact fun e he => h.2 e (List.mem_of_mem_filter he)

/-- A write keeps the canonical form. -/
theorem wf_set [DecidableEq α] {d : α} {m : Store α} (h : wf d m = true) (k : Nat) (x : α) : wf d (set d m k x) = true := by
  unfold set
  split
  · exact wf_filter _ h
  · rename_i hx
    simp only [wf, Bool.and_eq_true] at h ⊢
    exact ⟨rising_insertRaw h.1 (fun b hb => by cases hb), all_insertRaw _ h.2 (by simp [hx])⟩


end Sys2Proof.Store
end

