-- ==== Sys2Proof/Laws/Issue.lean ====
section
/-! SUPPORT. Laws of issue: what `issueW` answers for a part that issues, and what the register writes of an instruction
leave. -/

namespace Sys2Proof.Machine

@[simp] theorem part_setPart (s : State) (pid : Nat) (p : Part) (k : Nat) :
    (s.setPart pid p).part k = if pid = k then p else s.part k := by
  simp [State.part, Store.get_set]

theorem Part.ne_absent {p : Part} (h : p.live = true) : p ≠ Part.absent := by
  rintro rfl
  exact absurd h (by decide)

/-- A second write of a part replaces the first. -/
theorem setPart_setPart (s : State) (pid : Nat) (p q : Part) (h : p.live = true) :
    (s.setPart pid p).setPart pid q = s.setPart pid q := by
  simp only [State.setPart]
  rw [Store.set_set _ _ _ _ _ (Part.ne_absent h)]

@[simp] theorem team_setPart (s : State) (pid : Nat) (p : Part) (k : Nat) : (s.setPart pid p).team k = s.team k := rfl
@[simp] theorem part_setTeam (s : State) (tk : Nat) (t : Team) (k : Nat) : (s.setTeam tk t).part k = s.part k := rfl
@[simp] theorem team_setTeam (s : State) (tk : Nat) (t : Team) (k : Nat) :
    (s.setTeam tk t).team k = if tk = k then t else s.team k := by
  simp [State.team, Store.get_set]

/-- The state after a completed instruction that has left the state as `t`. -/
theorem closed_done {t : State} {h : Hdr} {pid : Nat} {dsts : List (Opnd × Bool)} (live : (t.part pid).live = true) :
    ((Eff.done t).written pid dsts).close h pid =
      t.setPart pid (((t.part pid).undead dsts).retire h t.cyc ((t.part pid).pc + 1)) := by
  have l2 : ((t.part pid).undead dsts).live = true := live
  simp only [Eff.written, Eff.close, State.mapPart, part_setPart, if_true, l2, State.setPart_cyc]
  rw [setPart_setPart _ _ _ _ l2]
  rfl

/-- What `issueW` answers for a part that issues. -/
theorem issueW_next {s : State} {h : Hdr} {srcs dsts : List (Opnd × Bool)} {sp : Bool} {ill : Part → Bool}
    {body : State → Part → Mask → Eff} (w : Issues s h srcs dsts sp) (hi : ill s.current = false) :
    issueW h srcs dsts sp ill body s =
      .next (((body s s.current (s.current.act h)).written s.cur dsts).close h s.cur) := by
  obtain ⟨h1, h2, h3, h4, h5, h6⟩ := w
  unfold State.current at *
  have e1 : (!(s.part s.cur).live || (s.part s.cur).st != .ready) = false := by simp [h1, h2]
  have e2 : (!(s.part s.cur).fits (srcs ++ dsts) || ill (s.part s.cur)) = false := by simp [h3, hi]
  have e3 : ((s.part s.cur).umask == 0 && (s.part s.cur).anyDead srcs) = false := by simpa using h5
  have e4 : (sp && !(s.part s.cur).pend.isEmpty) = false := by simpa using h6
  simp only [issueW, e1, e2, e3, e4, Bool.false_eq_true, if_false, if_neg h4]

/-- A part that does not stand READY issues nothing (R143). -/
theorem issueW_idle {s : State} {h : Hdr} {srcs dsts : List (Opnd × Bool)} {sp : Bool} {ill : Part → Bool}
    {body : State → Part → Mask → Eff} (w : s.current.live = false ∨ s.current.st ≠ .ready) :
    issueW h srcs dsts sp ill body s = .next s := by
  unfold State.current at w
  have e : (!(s.part s.cur).live || (s.part s.cur).st != .ready) = true := by
    rcases w with w | w <;> simp [w]
  simp only [issueW, e, if_true]

/-- An operand above the window, or another check against the window that fails, is ILLEGAL_ENCODING (R169, R226, R228). -/
theorem issueW_illegal {s : State} {h : Hdr} {srcs dsts : List (Opnd × Bool)} {sp : Bool} {ill : Part → Bool}
    {body : State → Part → Mask → Eff} (live : s.current.live = true) (ready : s.current.st = .ready)
    (w : s.current.fits (srcs ++ dsts) = false ∨ ill s.current = true) :
    issueW h srcs dsts sp ill body s = .next (s.trapAt s.cur .illegalEncoding s.current.amask []) := by
  unfold State.current at *
  have e1 : (!(s.part s.cur).live || (s.part s.cur).st != .ready) = false := by simp [live, ready]
  have e2 : (!(s.part s.cur).fits (srcs ++ dsts) || ill (s.part s.cur)) = true := by
    rcases w with w | w <;> simp [w]
  simp only [issueW, e1, e2, Bool.false_eq_true, if_false, if_true]

/-- With no active lane the part goes on, and its destinations count as written (R56, R167). -/
theorem issueW_noLanes {s : State} {h : Hdr} {srcs dsts : List (Opnd × Bool)} {sp : Bool} {ill : Part → Bool}
    {body : State → Part → Mask → Eff} (live : s.current.live = true) (ready : s.current.st = .ready)
    (fits : s.current.fits (srcs ++ dsts) = true) (hi : ill s.current = false) (w : s.current.act h = 0) :
    issueW h srcs dsts sp ill body s =
      .next (s.setPart s.cur ((s.current.undead dsts).retire h s.cyc (s.current.pc + 1))) := by
  rw [show s.current = s.part s.cur from rfl] at *
  have e1 : (!(s.part s.cur).live || (s.part s.cur).st != .ready) = false := by simp [live, ready]
  have e2 : (!(s.part s.cur).fits (srcs ++ dsts) || ill (s.part s.cur)) = false := by simp [fits, hi]
  simp only [issueW, e1, e2, Bool.false_eq_true, if_false, if_pos w, closed_done live]

/-- A read of a dead register at first issue is DEAD_READ (R56). -/
theorem issueW_dead {s : State} {h : Hdr} {srcs dsts : List (Opnd × Bool)} {sp : Bool} {ill : Part → Bool}
    {body : State → Part → Mask → Eff} (live : s.current.live = true) (ready : s.current.st = .ready)
    (fits : s.current.fits (srcs ++ dsts) = true) (hi : ill s.current = false) (lanes : s.current.act h ≠ 0)
    (first : s.current.umask = 0) (w : s.current.anyDead srcs = true) :
    issueW h srcs dsts sp ill body s = .next (s.trapAt s.cur .deadRead (s.current.act h) []) := by
  unfold State.current at *
  have e1 : (!(s.part s.cur).live || (s.part s.cur).st != .ready) = false := by simp [live, ready]
  have e2 : (!(s.part s.cur).fits (srcs ++ dsts) || ill (s.part s.cur)) = false := by simp [fits, hi]
  have e3 : ((s.part s.cur).umask == 0 && (s.part s.cur).anyDead srcs) = true := by simp [first, w]
  simp only [issueW, e1, e2, e3, Bool.false_eq_true, if_false, if_neg lanes, if_true]

/-- At an implicit switch point a part with a pending result waits (R145, R146). -/
theorem issueW_switch {s : State} {h : Hdr} {srcs dsts : List (Opnd × Bool)} {ill : Part → Bool}
    {body : State → Part → Mask → Eff} (live : s.current.live = true) (ready : s.current.st = .ready)
    (fits : s.current.fits (srcs ++ dsts) = true) (hi : ill s.current = false) (lanes : s.current.act h ≠ 0)
    (alive : s.current.umask = 0 → s.current.anyDead srcs = false) (w : s.current.pend ≠ []) :
    issueW h srcs dsts true ill body s = .next (s.setPart s.cur { s.current with st := .switched }) := by
  unfold State.current at *
  have e1 : (!(s.part s.cur).live || (s.part s.cur).st != .ready) = false := by simp [live, ready]
  have e2 : (!(s.part s.cur).fits (srcs ++ dsts) || ill (s.part s.cur)) = false := by simp [fits, hi]
  have e3 : ((s.part s.cur).umask == 0 && (s.part s.cur).anyDead srcs) = false := by simpa using alive
  have e4 : (true && !(s.part s.cur).pend.isEmpty) = true := by simpa using w
  simp only [issueW, e1, e2, e3, e4, Bool.false_eq_true, if_false, if_neg lanes, if_true]

/-- An instruction of classes 0x7 to 0xA that no pending result holds issues as any other (R260). -/
theorem issueM_free {s : State} {h : Hdr} {srcs dsts : List (Opnd × Bool)} {sp : Bool} {ill : Part → Bool}
    {body : State → Part → Mask → Eff} (w : s.current.held = false) :
    issueM h srcs dsts sp ill body s = issueW h srcs dsts sp ill body s := by
  rw [show s.current = s.part s.cur from rfl] at w
  simp [issueM, w]

/-- While a pending result holds it, a part READY at an instruction of classes 0x7 to 0xA stays there (R260). -/
theorem issueM_held {s : State} {h : Hdr} {srcs dsts : List (Opnd × Bool)} {sp : Bool} {ill : Part → Bool}
    {body : State → Part → Mask → Eff} (live : s.current.live = true) (ready : s.current.st = .ready)
    (w : s.current.held = true) : issueM h srcs dsts sp ill body s = .next s := by
  rw [show s.current = s.part s.cur from rfl] at *
  simp [issueM, live, ready, w]

theorem held_nil {p : Part} (h : p.pend = []) : p.held = false := by simp [Part.held, h]

/-! ### Trap entry (R341, R342) -/

/-- A part that is not sampled writes no sample record. -/
theorem sampleDone_none {s : State} {pid : Nat} {b : Bool} {ps : List Nat} (h : (s.part pid).sample = none) :
    s.sampleDone pid b ps = s := by
  simp only [State.sampleDone, h]

/-- A trap whose cause the launch enables, outside a handler, with no result that must come first and room for the larger
depth, enters the handler (R341): a trace record is written, and the part goes on at TRAPVEC as `enterTrap` says. -/
theorem takeTrap_handler {s s1 : State} {pid : Nat} {c : Cause} {tpc pc : Word} {tlm : Mask} {tva : List (Nat × DWord)}
    (hu : s.unhandled (s.part pid) c = false) (hp : (s.part pid).pend.all s.landable = true)
    (hg : s.growTo pid ((s.part pid).depth + 2) (s.part pid).w 0 Part.landAll = .met s1) (hs : (s1.part pid).sample = none) :
    s.takeTrap pid c tpc tlm tva pc =
      (s1.trace (s.part pid).unit (s.part pid) 1 pc (causeCode c)).setPart pid
        (State.enterTrap (s1.part pid) c tpc tlm tva (fieldOf (s.launchOf (s.part pid)).header 36 4)) := by
  simp only [State.takeTrap, hu, hp, hg, sampleDone_none hs, Bool.not_true, Bool.false_eq_true, if_false]

/-- Entry to the handler waits for results that are still on their way (R341). -/
theorem takeTrap_waits {s : State} {pid : Nat} {c : Cause} {tpc pc : Word} {tlm : Mask} {tva : List (Nat × DWord)}
    (hu : s.unhandled (s.part pid) c = false) (hp : (s.part pid).pend.all s.landable = false) :
    s.takeTrap pid c tpc tlm tva pc =
      s.setPart pid { s.part pid with st := .switched, trapq := some ⟨c, tpc, tlm, tva, pc⟩ } := by
  simp only [State.takeTrap, hu, hp, Bool.not_false, Bool.false_eq_true, if_false, if_true]

/-- A trap in a handler, of a launch with no handler, or of a cause that is not enabled ends the squad with an error record
(R342). -/
theorem takeTrap_unhandled {s : State} {pid : Nat} {c : Cause} {tpc pc : Word} {tlm : Mask} {tva : List (Nat × DWord)}
    (hs : (s.part pid).sample = none) (hd : (s.part pid).dying = false) (hu : s.unhandled (s.part pid) c = true) :
    s.takeTrap pid c tpc tlm tva pc =
      ((s.trace (s.part pid).unit (s.part pid) 1 pc (causeCode c + 256)).errorRecord
        (State.lkey (s.part pid).prt (s.part pid).launch) (s.team (s.part pid).team) (s.part pid).sq 5 0 (causeCode c) pc).killSquad
          pid := by
  simp only [State.takeTrap, sampleDone_none hs, hu, hd, Bool.false_eq_true, if_false, if_true]

/-- A squad whose kill has reached it ends without an error record (R342). -/
theorem takeTrap_dying {s : State} {pid : Nat} {c : Cause} {tpc pc : Word} {tlm : Mask} {tva : List (Nat × DWord)}
    (hs : (s.part pid).sample = none) (hd : (s.part pid).dying = true) (hu : s.unhandled (s.part pid) c = true) :
    s.takeTrap pid c tpc tlm tva pc = s.endPart pid := by
  simp only [State.takeTrap, sampleDone_none hs, hu, hd, if_true]

/-! ### What writes leave -/

@[simp] theorem word_writeAbs (p : Part) (r l : Nat) (x : Word) (r' l' : Nat) :
    (p.writeAbs r l x).word r' l' = if vkey r l = vkey r' l' then x else p.word r' l' := by
  simp [Part.word, Part.writeAbs, Store.get_set]

@[simp] theorem uni_writeS (p : Part) (n : Nat) (x : Word) (k : Nat) :
    (p.writeS n x).uni k = if n = k then x else p.uni k := by
  simp [Part.uni, Part.writeS, Store.get_set]

theorem pend_writeAbs (p : Part) (r l : Nat) (x : Word) :
    (p.writeAbs r l x).pend.map Pend.result = p.pend.map Pend.result := by
  simp only [Part.writeAbs, List.map_map]
  apply List.map_congr_left
  intro e _
  simp only [Function.comp]
  split <;> rfl

theorem pend_writeS (p : Part) (n : Nat) (x : Word) :
    (p.writeS n x).pend.map Pend.result = p.pend.map Pend.result := by
  simp only [Part.writeS, List.map_map]
  apply List.map_congr_left
  intro e _
  simp only [Function.comp]
  split <;> rfl

theorem vkey_inj {r l r' l' : Nat} (h : l < 16) (h' : l' < 16) : vkey r l = vkey r' l' ↔ r = r' ∧ l = l' := by
  unfold vkey
  omega

theorem mem_lanesOf (m : Mask) (l : Nat) : l ∈ lanesOf m ↔ l < 16 ∧ m.getLsbD l = true := by
  simp only [lanesOf, lanes16, List.mem_filter]
  refine and_congr_left fun _ => ?_
  simp only [List.mem_cons, List.not_mem_nil, or_false]
  omega

/-- A part that differs from `p` in its registers, FPSTAT and marks only. -/
def RegsOnly (p q : Part) : Prop :=
  q = { p with vregs := q.vregs, sregs := q.sregs, fpstat := q.fpstat, pend := q.pend } ∧
    q.pend.map Pend.result = p.pend.map Pend.result

theorem RegsOnly.refl (p : Part) : RegsOnly p p := ⟨rfl, rfl⟩

theorem RegsOnly.trans {p q r : Part} (h : RegsOnly p q) (h' : RegsOnly q r) : RegsOnly p r := by
  obtain ⟨h1, h2⟩ := h
  obtain ⟨h3, h4⟩ := h'
  exact ⟨by rw [h3, h1], h4.trans h2⟩

theorem regsOnly_putV (p : Part) (n : Nat) (w : Bool) (l x : Nat) : RegsOnly p (p.putV n w l x) := by
  cases w
  · exact ⟨rfl, pend_writeAbs ..⟩
  · exact ⟨rfl, (pend_writeAbs ..).trans (pend_writeAbs ..)⟩

theorem regsOnly_putS (p : Part) (n : Nat) (w : Bool) (x : Nat) : RegsOnly p (p.putS n w x) := by
  cases w
  · exact ⟨rfl, pend_writeS ..⟩
  · exact ⟨rfl, (pend_writeS ..).trans (pend_writeS ..)⟩

theorem regsOnly_raise (p : Part) (f : Fl) : RegsOnly p (p.raise f) := ⟨rfl, rfl⟩

/-- The lanes of a vector destination, one after the other. -/
theorem run_fold (n : Nat) (w : Bool) (f : Nat → Nat × Fl) (ls : List Nat) (hl : ∀ l ∈ ls, l < 16) (p : Part) :
    let q := ls.foldl (fun q l => (q.putV n w l (f l).1).raise (f l).2) p
    RegsOnly p q ∧ q.sregs = p.sregs ∧
      q.fpstat = p.fpstat ||| (ls.foldl (fun a l => a ||| (f l).2) 0 &&& ~~~ (p.fpctl.setWidth 16)) ∧
      ∀ r l, l < 16 → q.word r l =
        if l ∈ ls ∧ w = true ∧ r = p.absReg (n + 1) then BitVec.ofNat 32 ((f l).1 / 2 ^ 32)
        else if l ∈ ls ∧ r = p.absReg n then BitVec.ofNat 32 (f l).1 else p.word r l := by
  induction ls using List.reverseRecOn with
  | nil => simp [RegsOnly.refl]
  | append_singleton ls l0 ih =>
    obtain ⟨h1, h2, h3, h4⟩ := ih (fun l h => hl l (by simp [h]))
    have hl0 : l0 < 16 := hl l0 (by simp)
    simp only [List.foldl_append, List.foldl_cons, List.foldl_nil]
    generalize ls.foldl (fun q l => (q.putV n w l (f l).1).raise (f l).2) p = q at h1 h2 h3 h4
    have hd : q.depth = p.depth := by rw [h1.1]
    have hc : q.fpctl = p.fpctl := by rw [h1.1]
    refine ⟨h1.trans ((regsOnly_putV ..).trans (regsOnly_raise ..)), ?_, ?_, ?_⟩
    · rw [← h2]
      cases w <;> rfl
    · have : ((q.putV n w l0 (f l0).1).raise (f l0).2).fpstat = q.fpstat ||| ((f l0).2 &&& ~~~ (q.fpctl.setWidth 16)) := by
        cases w <;> rfl
      rw [this, h3, hc]
      ext i hi
      simp
      grind
    · intro r l hlt
      have e : ((q.putV n w l0 (f l0).1).raise (f l0).2).word r l = (q.putV n w l0 (f l0).1).word r l := rfl
      rw [e]
      cases w
      · simp only [Part.putV, Part.writeV, Bool.false_eq_true, if_false, word_writeAbs, vkey_inj hl0 hlt, h4 r l hlt,
          Part.absReg, hd, List.mem_append, List.mem_singleton, false_and, and_false]
        by_cases hh : l = l0
        · subst hh; grind
        · grind
      · simp only [Part.putV, Part.writeV, if_true, word_writeAbs, vkey_inj hl0 hlt, h4 r l hlt,
          List.mem_append, List.mem_singleton, true_and]
        have hd2 : (q.writeAbs (q.absReg n) l0 (BitVec.ofNat 32 (f l0).1)).absReg (n + 1) = p.absReg (n + 1) := by
          simp [Part.absReg, Part.writeAbs, hd]
        have hd3 : q.absReg n = p.absReg n := by simp [Part.absReg, hd]
        simp only [hd3]
        by_cases hh : l = l0
        · subst hh; grind
        · grind

/-- What `Part.run` leaves: the destination written, the flags raised, and nothing else but marks of pending results. -/
theorem run_wrote (p : Part) (act : Mask) (d : Opnd) (w : Bool) (f : Nat → Nat × Fl) :
    let q := p.run act d w f
    RegsOnly p q ∧ Wrote p q act d w (fun l => (f l).1) ∧
      q.fpstat = p.fpstat ||| (flagsOf d act (fun l => (f l).2) &&& ~~~ (p.fpctl.setWidth 16)) := by
  cases d with
  | v n =>
    have h := run_fold n.val w f (lanesOf act) (fun l hl => ((mem_lanesOf act l).1 hl).1) p
    refine ⟨h.1, ⟨fun r l hl => ?_, h.2.1⟩, h.2.2.1⟩
    have e := h.2.2.2 r l hl
    simp only [mem_lanesOf, hl, true_and] at e
    exact e
  | s n =>
    refine ⟨(regsOnly_putS p n.val w (f 0).1).trans (regsOnly_raise ..), ⟨fun k => ?_, by cases w <;> rfl⟩, by cases w <;> rfl⟩
    have e : ((p.putS n.val w (f 0).1).raise (f 0).2).uni k = (p.putS n.val w (f 0).1).uni k := rfl
    simp only [Part.run, e]
    cases w <;> simp only [Part.putS, Bool.false_eq_true, if_true, if_false, uni_writeS, true_and, false_and] <;> grind
  | _ => exact ⟨RegsOnly.refl p, ⟨rfl, rfl⟩, by simp [Part.run, flagsOf]⟩

theorem undead_getLsbD (p : Part) (os : List (Opnd × Bool)) (n : Nat) (hn : n < 32) :
    (p.undead os).dead.getLsbD n = (p.dead.getLsbD n && !names os n) := by
  have inner : ∀ (l : List Nat) (d : BitVec 32), (l.foldl (fun d n => d &&& ~~~ (BitVec.ofNat 32 (2 ^ n))) d).getLsbD n =
      (d.getLsbD n && !l.contains n) := by
    intro l
    induction l with
    | nil => simp
    | cons a l ih =>
      intro d
      rw [List.foldl_cons, ih]
      simp only [BitVec.getLsbD_and, BitVec.getLsbD_not, hn, decide_true, Bool.true_and, BitVec.getLsbD_ofNat,
        Nat.testBit_two_pow, List.contains_cons]
      by_cases h : n = a
      · subst h; simp
      · have h' : ¬ a = n := fun e => h e.symm
        simp [h']
        grind
  unfold Part.undead names
  simp only
  generalize p.dead = d
  induction os generalizing d with
  | nil => simp
  | cons o os ih =>
    rw [List.foldl_cons, ih, inner]
    simp only [List.any_cons, Bool.not_or, Bool.and_assoc]

/-- The state after an instruction that has left the state as `t` and goes on at `pc`. -/
theorem closed_jump {t : State} {h : Hdr} {pid : Nat} {dsts : List (Opnd × Bool)} (pc : Word)
    (live : (t.part pid).live = true) : ((Eff.jump t pc).written pid dsts).close h pid =
      t.setPart pid (((t.part pid).undead dsts).retire h t.cyc pc) := by
  have l2 : ((t.part pid).undead dsts).live = true := live
  simp only [Eff.written, Eff.close, State.mapPart, part_setPart, if_true, l2, State.setPart_cyc]
  rw [setPart_setPart _ _ _ _ l2]

/-- The state after a completed instruction that has left the part as `p1` and nothing else changed. -/
theorem close_done {s : State} {h : Hdr} {dsts : List (Opnd × Bool)} {p1 : Part} (live : p1.live = true) :
    ((Eff.done (s.setPart s.cur p1)).written s.cur dsts).close h s.cur =
      s.setPart s.cur ((p1.undead dsts).retire h s.cyc (p1.pc + 1)) := by
  have e : (s.setPart s.cur p1).part s.cur = p1 := by simp
  rw [closed_done (by rw [e]; exact live), e, setPart_setPart _ _ _ _ live, State.setPart_cyc]

theorem close_jump {s : State} {h : Hdr} {dsts : List (Opnd × Bool)} {p1 : Part} (pc : Word) (live : p1.live = true) :
    ((Eff.jump (s.setPart s.cur p1) pc).written s.cur dsts).close h s.cur =
      s.setPart s.cur ((p1.undead dsts).retire h s.cyc pc) := by
  have e : (s.setPart s.cur p1).part s.cur = p1 := by simp
  rw [closed_jump pc (by rw [e]; exact live), e, setPart_setPart _ _ _ _ live, State.setPart_cyc]

/-- A part that has only its registers changed retires as `Retires` says. -/
theorem retires_of {p q : Part} {h : Hdr} {cyc : Nat} {dsts : List (Opnd × Bool)} {pc : Word} (hr : p.st = .ready)
    (hq : q = { p with vregs := q.vregs, sregs := q.sregs, preds := q.preds, fpstat := q.fpstat, pend := q.pend }) :
    Retires p cyc h pc ((q.undead dsts).retire h cyc pc) := by
  constructor
  rw [hq]
  simp only [Part.undead, Part.retire, hr]
  congr 1
  cases h.sw <;> simp

/-- A short instruction with one destination completes as its table of values says (R145, R172). -/
theorem issueReg_run {s : State} {h : Hdr} {srcs dsts : List (Opnd × Bool)} {d : Opnd} {w64 : Bool}
    {f : Part → Mask → Nat → Nat × Fl} (w : Issues s h srcs dsts false) :
    ∃ q, issueReg h srcs dsts (fun p act => p.run act d w64 (f p act)) s = .next (s.setPart s.cur q) ∧
      RegSpec.Short ⟨h, srcs, dsts, d, w64, fun p act l => (f p act l).1, fun p act l => (f p act l).2⟩
        s.current s.cyc q := by
  unfold issueReg
  rw [issueW_next w rfl]
  have hr := run_wrote s.current (s.current.act h) d w64 (f s.current (s.current.act h))
  beta_reduce
  generalize s.current.run (s.current.act h) d w64 (f s.current (s.current.act h)) = q0 at hr ⊢
  obtain ⟨⟨h1, h2⟩, h3, h4⟩ := hr
  have live : q0.live = true := by rw [h1]; exact w.live
  refine ⟨(q0.undead dsts).retire h s.cyc (q0.pc + 1), by rw [close_done live], ?_⟩
  have hpc : q0.pc = s.current.pc := by rw [h1]
  have hdead : q0.dead = s.current.dead := by rw [h1]
  rw [hpc]
  refine ⟨retires_of w.ready (by rw [h1]), h3, by show q0.preds = _; rw [h1], h4, ?_, h2⟩
  intro n hn
  show (q0.undead dsts).dead.getLsbD n = _
  rw [undead_getLsbD _ _ _ hn, hdead]

/-! ### Long instructions -/

/-- Looking up a value of a pending vector result. -/
theorem find_vals (a b : Nat) (hab : a ≠ b) (w : Bool) (lo hi : Nat → Word) (ls : List Nat) (r l : Nat) :
    (((ls.flatMap (fun l => if w then [(a, l, lo l), (b, l, hi l)] else [(a, l, lo l)])).find?
        (fun v => v.1 == r && v.2.1 == l)).map (fun v => v.2.2)) =
      if l ∈ ls ∧ r = a then some (lo l) else if l ∈ ls ∧ w = true ∧ r = b then some (hi l) else none := by
  induction ls with
  | nil => simp
  | cons l0 ls ih =>
    rw [List.flatMap_cons, List.find?_append, Option.map_or, ih]
    cases w
    · simp only [Bool.false_eq_true, if_false, List.find?_cons, List.find?_nil]
      by_cases h1 : a = r <;> by_cases h2 : l0 = l <;> simp [h1, h2] <;> grind
    · simp only [if_true, List.find?_cons, List.find?_nil]
      by_cases h1 : a = r <;> by_cases h2 : l0 = l <;> by_cases h3 : b = r <;> simp [h1, h2, h3] <;> grind

/-- What `Part.runLong` adds to the pending results. -/
theorem runLong_holds (p : Part) (id : Nat) (act : Mask) (d : Opnd) (w : Bool) (f : Nat → Nat × Fl) (hd : d.vs = true) :
    ∃ e, p.runLong id act d w f = { p with pend := p.pend ++ [e] } ∧ e.id = id ∧ e.clob = [] ∧
      Holds p e act d w (fun l => (f l).1) ∧
      e.flags = flagsOf d act (fun l => (f l).2) := by
  cases d with
  | v n =>
    refine ⟨_, rfl, rfl, rfl, ⟨fun r l hl => ?_, rfl⟩, rfl⟩
    have h := find_vals (p.absReg n) (p.absReg (n + 1)) (by simp [Part.absReg]) w (fun l => BitVec.ofNat 32 (f l).1)
      (fun l => BitVec.ofNat 32 ((f l).1 / 2 ^ 32)) (lanesOf act) r l
    simp only [mem_lanesOf, hl, true_and] at h
    exact h
  | s n =>
    refine ⟨_, rfl, rfl, rfl, ⟨fun k => ?_, rfl⟩, rfl⟩
    cases w
    · by_cases h : n.val = k <;> simp [Pend.svalAt, h] <;> grind
    · by_cases h : n.val = k <;> by_cases h' : n.val + 1 = k <;> simp [Pend.svalAt, h, h'] <;> grind
  | _ => simp [Opnd.vs, Opnd.isV, Opnd.isS] at hd

/-- A long instruction with one destination leaves its result pending (R145). -/
theorem issueLong_run {s : State} {h : Hdr} {srcs dsts : List (Opnd × Bool)} {d : Opnd} {w64 : Bool}
    {f : Part → Mask → Nat → Nat × Fl} (w : Issues s h srcs dsts false) (hd : d.vs = true) :
    ∃ q e, issueLong h srcs dsts (fun p id act => p.runLong id act d w64 (f p act)) s =
        .next { s.setPart s.cur q with ids := s.ids + 1 } ∧
      RegSpec.Long ⟨h, srcs, dsts, d, w64, fun p act l => (f p act l).1, fun p act l => (f p act l).2⟩
        s.current s.cyc s.ids q e := by
  unfold issueLong
  rw [issueW_next w rfl]
  beta_reduce
  obtain ⟨e, h1, h2, h3, h4, h5⟩ := runLong_holds s.current s.ids (s.current.act h) d w64
    (f s.current (s.current.act h)) hd
  rw [h1]
  generalize hp : ({ s.current with pend := s.current.pend ++ [e] } : Part) = q0
  have live : q0.live = true := by rw [← hp]; exact w.live
  refine ⟨(q0.undead dsts).retire h s.cyc (q0.pc + 1), e, ?_, ?_⟩
  · have lt : (({ s.setPart s.cur q0 with ids := s.ids + 1 } : State).part s.cur) = q0 := by
      show (s.setPart s.cur q0).part s.cur = q0
      simp
    rw [closed_done (by rw [lt]; exact live), lt]
    show Host.Outcome.next ({ (s.setPart s.cur q0).setPart s.cur _ with ids := s.ids + 1 } : State) = _
    rw [setPart_setPart _ _ _ _ live]
    rfl
  · subst hp
    refine ⟨retires_of w.ready rfl, rfl, rfl, rfl, rfl, ?_, rfl, h2, h4, h5, h3⟩
    intro n hn
    show (Part.undead _ dsts).dead.getLsbD n = _
    rw [undead_getLsbD _ _ _ hn]

end Sys2Proof.Machine
end

