-- ==== Sys2Proof/Laws/Access.lean ====
section
/-! SUPPORT. Laws of memory accesses: what `memRun`, `padRun` and `postRun` come to when the part waits, and when every lane
passes its checks. -/

namespace Sys2Proof.Machine

namespace State

theorem and_not_zero (m : Mask) : m &&& ~~~(0 : Mask) = m :=
  show m &&& BitVec.allOnes 16 = m from BitVec.and_allOnes

/-- Lanes none of which fails are performed in turn, and each result is kept (R111). -/
theorem doLanes_cons_val {f : State → Nat → Nat → Nat → LaneRes} {s s1 : State} {l a k x : Nat}
    {rest : List (Nat × Nat × Nat)} (h : f s l a k = .val s1 x) :
    s.doLanes f ((l, a, k) :: rest) =
      ((s1.doLanes f rest).1, (l, x) :: (s1.doLanes f rest).2.1, (s1.doLanes f rest).2.2) := by
  simp only [doLanes, h]

/-- A lane that fails leaves the state as it was, and the lanes after it are performed (R340). -/
theorem doLanes_cons_fail {f : State → Nat → Nat → Nat → LaneRes} {s : State} {l a k : Nat} {c : Cause}
    {rest : List (Nat × Nat × Nat)} (h : f s l a k = .fail c) :
    s.doLanes f ((l, a, k) :: rest) =
      ((s.doLanes f rest).1, (s.doLanes f rest).2.1, (l, c) :: (s.doLanes f rest).2.2) := by
  simp only [doLanes, h]

/-- A property that each lane keeps holds after all lanes. -/
theorem doLanes_keeps {P : State → Prop} {f : State → Nat → Nat → Nat → LaneRes} (os : List (Nat × Nat × Nat)) :
    ∀ (s : State), (∀ t l a k u x, P t → f t l a k = .val u x → P u) → P s → P (s.doLanes f os).1 := by
  induction os with
  | nil => intro s _ hs; exact hs
  | cons o rest ih =>
    intro s hf hs
    obtain ⟨l, a, k⟩ := o
    cases h : f s l a k with
    | val u x => rw [doLanes_cons_val h]; exact ih u hf (hf s l a k u x hs h)
    | fail c => rw [doLanes_cons_fail h]; exact ih s hf hs

/-- With nothing to release, no release wait (R260). -/
theorem releaseWait_none {s : State} {pid : Nat} (hp : (s.part pid).pend = []) (ho : s.outstanding pid = [])
    (ht : (s.part pid).rmHold ≤ (s.tickAt (s.part pid).unit).toNat) : s.releaseWait pid = none := by
  simp [releaseWait, hp, ho, Nat.not_lt.mpr ht]

/-- A part without RESTARTABLE has nothing to clear (R354). -/
theorem clearWait_none {s : State} {pid : Nat} (h : (s.part pid).restartable = false) : s.clearWait pid = none := by
  simp [clearWait, h]

/-- Addresses latched at first issue are not latched again (R258). -/
theorem latch_on {s : State} {pid : Nat} {act : Mask} {addrs : List (Nat × DWord)} {op : Nat} {flags : BitVec 16}
    (h : (s.part pid).mi.on = true) : s.latch pid act addrs op flags = s := by
  simp only [latch, h, if_true]

/-- With nothing denied, no lane is left out (R48). -/
theorem deniedLanes_nil {p : Part} (h : p.mi.denied = []) : deniedLanes p = 0 := by
  simp only [deniedLanes, h, List.any_nil]; decide

/-- Lanes that pass their checks have concluded them. -/
theorem undecided_oks (vs : List Nat) (va spa slot : Nat → Nat) :
    undecided (vs.map (fun l => (l, va l, Chk.ok (spa l) (slot l)))) = false := by
  simp [undecided]

/-- Lanes that pass their checks need no record (R46). -/
theorem faultLanes_oks (p : Part) (one : Bool) (vs : List Nat) (va spa slot : Nat → Nat) :
    faultLanes p one (vs.map (fun l => (l, va l, Chk.ok (spa l) (slot l)))) = [] := by
  simp [faultLanes]

/-- A release access whose release condition does not hold waits (R260). -/
theorem memRun_release {s s1 : State} {pid lsi : Nat} {ins : MemIns} {ops : BitVec 32} {one : Bool}
    {perf : Part → State → Nat → Nat → Nat → LaneRes} {ents : Part → List (Nat × Nat × Nat) → List OEntry}
    {fin : Part → State → List (Nat × Nat) → State} (hr : ins.rel = true) (h : s.releaseWait pid = some s1) :
    s.memRun pid ins lsi ops one perf ents fin = .stay s1 := by
  simp only [memRun, hr, if_true, h]

/-- The lanes that `memRun` takes: one for a form whose access is made once (R262). -/
def takenLanes (p : Part) (one : Bool) : List Nat := if one then (lanesOf p.umask).take 1 else lanesOf p.umask

/-- A lane not translated, or whose dirty bit is not yet set, makes the part wait with its lookups asked for (R40, R46). -/
theorem memRun_asks {s : State} {pid lsi : Nat} {ins : MemIns} {ops : BitVec 32} {one : Bool}
    {perf : Part → State → Nat → Nat → Nat → LaneRes} {ents : Part → List (Nat × Nat × Nat) → List OEntry}
    {fin : Part → State → List (Nat × Nat) → State} (hr : (if ins.rel then s.releaseWait pid else none) = none)
    (hc : (if ins.clears then s.clearWait pid else none) = none) (hd : (s.part pid).mi.denied = []) (l : Nat)
    (hl : l ∈ takenLanes (s.part pid) one)
    (hw : s.checkLane pid (s.part pid) ins.k ins.w ((s.part pid).mi.addr l).toNat = .ask) :
    s.memRun pid ins lsi ops one perf ents fin =
      .stay (s.askLanes pid (s.part pid) ins.k ins.w
        ((takenLanes (s.part pid) one).map (fun l => (l, ((s.part pid).mi.addr l).toNat)))) := by
  have hm : deniedLanes (s.part pid) = 0 := deniedLanes_nil hd
  have hu := and_not_zero (s.part pid).umask
  simp only [memRun, hr, hc, hm, hu]
  rw [if_pos]
  · rfl
  · rw [undecided, List.any_eq_true]
    refine ⟨(l, ((s.part pid).mi.addr l).toNat, .ask), ?_, rfl⟩
    simp only [List.map_map, List.mem_map, Function.comp]
    exact ⟨l, hl, by rw [hw]⟩

/-- Lanes that pass every check and whose home is the part's: they are performed here, and the part does not pass on (R50,
R259). -/
theorem memRun_local {s : State} {pid lsi : Nat} {p : Part} {ins : MemIns} {ops : BitVec 32} {one : Bool}
    {perf : Part → State → Nat → Nat → Nat → LaneRes} {ents : Part → List (Nat × Nat × Nat) → List OEntry}
    {fin : Part → State → List (Nat × Nat) → State} {spa slot : Nat → Nat} {ls : List Nat} {os : List (Nat × Nat × Nat)}
    (hpid : s.part pid = p) (hls : takenLanes p one = ls) (hos : ls.map (fun l => (l, spa l, slot l)) = os)
    (hr : (if ins.rel then s.releaseWait pid else none) = none)
    (hc : (if ins.clears then s.clearWait pid else none) = none) (hd : p.mi.denied = []) (hf : p.mi.fails = [])
    (ok : ∀ l ∈ ls, s.checkLane pid p ins.k ins.w (p.mi.addr l).toNat = .ok (spa l) (slot l) ∧ spaUnit (spa l) = p.unit)
    (hp : s.postedAhead pid p.unit = false) (ho : s.orderAllowsAll p.prt p.unit (ents p os) = true) :
    s.memRun pid ins lsi ops one perf ents fin =
      (let s1 := (s.clearXlats (.part pid)).touchLanes p (ls.map (fun l => (l, (p.mi.addr l).toNat)))
       let r := doLanes (perf p) ((ents p os).foldl (fun s e => s.order p.prt p.unit e) s1) os
       let fs := r.2.2.flatMap (fun f =>
         (spreadTo p one f.1).map (fun j => (j, f.2, p.mi.addr f.1)))
       let s4 := (fin p (r.1.sampleLanes pid p.unit (os.flatMap (fun o => (spreadTo p one o.1).map (fun l => (l, o.2.1)))))
         r.2.1).mapPart pid (fun q =>
         { q with
           mi := { q.mi with fails := fs }
           umask := 0 })
       if fs.isEmpty then .done (s4.sampleDone pid false []) else s4.failTrap pid fs) := by
  have hm : deniedLanes p = 0 := deniedLanes_nil hd
  have hu := and_not_zero p.umask
  have hmap : (ls.map (fun l => (l, (p.mi.addr l).toNat))).map (fun v => (v.1, v.2, s.checkLane pid p ins.k ins.w v.2)) =
      ls.map (fun l => (l, (p.mi.addr l).toNat, Chk.ok (spa l) (slot l))) := by
    rw [List.map_map]
    exact List.map_congr_left (fun l hl => by simp only [Function.comp, (ok l hl).1])
  have h1 : os.filter (fun o => spaUnit o.2.1 == p.unit) = os :=
    List.filter_eq_self.mpr (fun o ho => by
      obtain ⟨l, hl, rfl⟩ := List.mem_map.mp (hos ▸ ho)
      exact beq_iff_eq.mpr (ok l hl).2)
  have h2 : os.filter (fun o => spaUnit o.2.1 != p.unit) = [] :=
    List.filter_eq_nil_iff.mpr (fun o ho => by
      obtain ⟨l, hl, rfl⟩ := List.mem_map.mp (hos ▸ ho)
      simp [(ok l hl).2])
  have hls' : (if one = true then (lanesOf p.umask).take 1 else lanesOf p.umask) = ls := hls
  have hflat : ∀ (α : Type), ls.flatMap (fun _ => ([] : List α)) = [] := fun α => by simp
  have hrest : (if one = true then (0 : Mask)
      else maskOf (fun l => ([] : List (Nat × Nat × Nat)).any (fun o => o.1 == l))) = 0 := by
    cases one
    · exact (by decide : maskOf (fun l => ([] : List (Nat × Nat × Nat)).any (fun o => o.1 == l)) = 0)
    · rfl
  simp only [memRun, hr, hc, hpid, hm, hu, hls', hmap, undecided_oks, faultLanes_oks, List.filterMap_map,
    List.flatMap_map, Function.comp_def, List.filterMap_eq_map', hos, h1, h2, hp, ho, hflat, hrest, hd, hf,
    List.isEmpty_nil, List.map_nil, List.append_nil, List.nil_append, Bool.not_true, Bool.and_false,
    Bool.false_eq_true, if_false, if_true]

/-- A scratchpad access on the base stack whose lanes pass every check performs them all (R262, R263, R266). -/
theorem padRun_local {s : State} {pid lsi : Nat} {p : Part} {ins : MemIns} {ops : BitVec 32} {one : Bool}
    {perf : Part → State → Nat → Nat → Nat → LaneRes} {ents : Part → List (Nat × Nat × Nat) → List OEntry}
    {fin : Part → State → List (Nat × Nat) → State} {ls : List Nat} {os : List (Nat × Nat × Nat)}
    (hpid : s.part pid = p) (hls : takenLanes p one = ls) (hos : ls.map (fun l => (l, (p.mi.addr l).toNat, 0)) = os)
    (hne : ls ≠ []) (hr : (if ins.rel then s.releaseWait pid else none) = none)
    (hc : (if ins.clears then s.clearWait pid else none) = none) (hd : p.mi.denied = []) (hf : p.mi.fails = [])
    (hb : p.unit = p.base) (hp : s.postedAhead pid p.base = false)
    (ok : ∀ l ∈ ls, (p.mi.addr l).toNat % ins.w = 0 ∧ padCheck (s.team p.team) (p.mi.addr l) ins.w = none)
    (ho : s.orderAllowsAll p.prt p.unit (ents p os) = true) :
    s.padRun pid ins lsi ops one perf ents fin =
      (let r := doLanes (perf p) ((ents p os).foldl (fun s e => s.order p.prt p.unit e) s) os
       let s2 := (fin p (r.1.sampleLanes pid p.unit (os.flatMap (fun o => (spreadTo p one o.1).map (fun l => (l, o.2.1)))))
         r.2.1).evalWaits p.team
       let fs := r.2.2.flatMap (fun f =>
         (spreadTo p one f.1).map (fun j => (j, f.2, p.mi.addr f.1)))
       if fs.isEmpty then .done (s2.sampleDone pid false []) else s2.failTrap pid fs) := by
  have hm : deniedLanes p = 0 := deniedLanes_nil hd
  have hu := and_not_zero p.umask
  have hall : (lanesOf p.umask).filter (fun l => !([] : List (Nat × Cause × DWord)).any (fun f => f.1 == l)) =
      lanesOf p.umask := List.filter_eq_self.mpr (fun _ _ => rfl)
  have hls' : (if one = true then (lanesOf p.umask).take 1 else lanesOf p.umask) = ls := hls
  have hbad : ls.filter (fun l => (p.mi.addr l).toNat % ins.w != 0) = [] :=
    List.filter_eq_nil_iff.mpr (fun l hl => by simp [(ok l hl).1])
  have hgood : ls.filter (fun l => (p.mi.addr l).toNat % ins.w == 0) = ls :=
    List.filter_eq_self.mpr (fun l hl => beq_iff_eq.mpr (ok l hl).1)
  have hmap : ls.map (fun l => (l, padCheck (s.team p.team) (p.mi.addr l) ins.w)) = ls.map (fun l => (l, none)) :=
    List.map_congr_left (fun l hl => by rw [(ok l hl).2])
  have hempty : ls.isEmpty = false := by cases ls with | nil => exact absurd rfl hne | cons _ _ => rfl
  have hflat : ∀ (α : Type), ls.flatMap (fun _ => ([] : List α)) = [] := fun α => by simp
  rw [hb] at ho
  simp only [padRun, hr, hc, hpid, hm, hu, hd, hf, hall, hls', hbad, hgood, hmap, hempty]
  simp only [hb, hp, ho, List.map_nil, List.flatMap_nil, List.append_nil, List.nil_append, Bool.false_eq_true, if_false,
    List.filterMap_map, List.flatMap_map, Function.comp_def, List.filterMap_eq_map', hos, hflat, ne_eq, not_true_eq_false,
    Bool.not_true]

/-- Posted lanes that pass every check are handed to their homes at once, and the part goes on (R65, R261). -/
theorem postRun_done {s : State} {pid w code : Nat} {p : Part} {a : AccK} {kind : PKind} {clears comb : Bool}
    {elem : Part → Nat → Nat → Nat → PElem} {spa slot : Nat → Nat} {gs : List (Nat × List PElem)}
    (hpid : s.part pid = p)
    (hgs : groupHomes comb ((lanesOf p.umask).map (fun l => (spaUnit (spa l), elem p l (spa l) (slot l)))) [] = gs)
    (hc : (if clears then s.clearWait pid else none) = none) (hd : p.mi.denied = [])
    (ok : ∀ l ∈ lanesOf p.umask, s.checkLane pid p a w (p.mi.addr l).toNat = .ok (spa l) (slot l))
    (hh : ((s.outHomes pid ++ gs.map Prod.fst).eraseDups).length ≤ 16) :
    s.postRun pid a w kind code clears comb elem =
      (let s0 := (s.clearXlats (.part pid)).touchLanes p ((lanesOf p.umask).map (fun l => (l, (p.mi.addr l).toNat)))
       let s1 := gs.foldl (fun (s : State) g =>
         s.sampleLanes pid g.1 (g.2.flatMap (fun e => e.vals.map (fun v => (v.1, e.spa))))) s0
       let s2 := gs.foldl (fun (s : State) g => s.postReq pid p g.1 kind p.pc g.2) s1
       .done (s2.sampleDone pid false ((List.range gs.length).map (fun i => s1.ids + i)))) := by
  have hm : deniedLanes p = 0 := deniedLanes_nil hd
  have hu := and_not_zero p.umask
  have hmap : ((lanesOf p.umask).map (fun l => (l, (p.mi.addr l).toNat))).map
      (fun v => (v.1, v.2, s.checkLane pid p a w v.2)) =
      (lanesOf p.umask).map (fun l => (l, (p.mi.addr l).toNat, Chk.ok (spa l) (slot l))) := by
    rw [List.map_map]
    exact List.map_congr_left (fun l hl => by simp only [Function.comp, ok l hl])
  generalize hls : lanesOf p.umask = ls at *
  have hdr : ∀ x, droppedFor (ls.map (fun l => (l, (p.mi.addr l).toNat, Chk.ok (spa l) (slot l)))) x = 0 := by
    intro x
    have e : ∀ y k, (Chk.ok y k == .drop x) = false := fun y k => by simp
    simp only [droppedFor, List.any_map, Function.comp_def, e, Bool.and_false]
    have hn : ls.any (fun _ => false) = false := by simp
    rw [hn]
    decide
  have hrecs : s.dropRecs p (ls.map (fun l => (l, (p.mi.addr l).toNat, Chk.ok (spa l) (slot l)))) code = [] := by
    simp [dropRecs, hdr]
  have hnil : ∀ (α : Type), ls.filterMap (fun _ => (none : Option α)) = [] := fun α => by simp
  have hr0 : ∀ t : State, t.postRecords pid p [] = t := fun t => rfl
  simp only [postRun, hc, hpid, hm, hu, hls, hmap, undecided_oks, faultLanes_oks, hrecs, hd, hr0]
  simp only [List.filterMap_map, Function.comp_def, List.filterMap_eq_map', hgs, hnil, List.isEmpty_nil, List.map_nil,
    List.append_nil, Bool.not_true, Bool.false_eq_true, if_false, if_true]
  rw [if_neg (by simpa using hh)]

end State

end Sys2Proof.Machine
end

