-- ==== Sys2Proof/Laws/Encode.lean ====
section
/-! SUPPORT. Laws of the encoding: packing and unpacking of fields in range, and field codes read back. -/

namespace Sys2Proof

/-- Every field lies in its range (R165). -/
def Raw.small (r : Raw) : Prop :=
  r.op < 1024 ∧ r.gn < 2 ∧ r.gp < 8 ∧ r.sw < 2 ∧ r.yh < 2 ∧ r.lsi < 64 ∧ r.md < 1024 ∧ r.d < 1024 ∧ r.a < 1024 ∧
    r.b < 1024 ∧ r.cm < 4 ∧ r.c < 2 ^ 32

theorem unpack_pack (r : Raw) (h : r.small) : unpack r.pack = r := by
  obtain ⟨op, gn, gp, sw, yh, lsi, md, d, a, b, cm, c⟩ := r
  obtain ⟨h1, h2, h3, h4, h5, h6, h7, h8, h9, h10, h11, h12⟩ := h
  simp only at *
  simp only [unpack, Raw.pack, bitsOf, Raw.mk.injEq]
  refine ⟨?_, ?_, ?_, ?_, ?_, ?_, ?_, ?_, ?_, ?_, ?_, ?_⟩ <;> omega

theorem pack_lt (r : Raw) (h : r.small) : r.pack < 2 ^ 96 := by
  obtain ⟨h1, h2, h3, h4, h5, h6, h7, h8, h9, h10, h11, h12⟩ := h
  simp only [Raw.pack]
  omega

theorem codeOf_le {α : Type} [DecidableEq α] (x : α) (l : List α) : codeOf x l ≤ l.length := by
  induction l with
  | nil => exact Nat.le_refl _
  | cons y ys ih =>
    simp only [codeOf, List.length_cons]
    split <;> omega

theorem codeOf_fmts (f : Fmt) : codeOf f fmts < 8 := by cases f <;> decide
theorem codeOf_bops (b : BOp) : codeOf b bops < 4 := by cases b <;> decide
theorem codeOf_sregs (r : SReg) : codeOf r sregs < 22 := by cases r <;> decide
theorem bit_lt (b : Bool) : bit b < 2 := by cases b <;> decide

theorem Opnd.enc_lt (o : Opnd) : o.enc < 1024 := by
  cases o with
  | x r =>
    have h := codeOf_sregs r
    simp only [Opnd.enc]
    omega
  | i b => cases b <;> decide
  | _ => simp only [Opnd.enc]; omega

theorem Opnd.dec_enc (o : Opnd) : Opnd.dec o.enc = some o := by
  cases o with
  | v n => revert n; decide
  | s n => revert n; decide
  | p n => revert n; decide
  | acc n => revert n; decide
  | x r => cases r <;> decide
  | i b => cases b <;> decide
  | k n => revert n; decide

theorem encElem_lt (e : Option Opnd) : encElem e < 1024 := by
  cases e with
  | none => decide
  | some o => exact o.enc_lt

theorem IType.enc_lt (t : IType) : t.enc < 8 := by
  obtain ⟨w, sg⟩ := t
  cases w <;> cases sg <;> decide
theorem IMod.enc_lt (m : IMod) : m.enc < 16 := by
  obtain ⟨⟨w, sg⟩, sat⟩ := m
  cases w <;> cases sg <;> cases sat <;> decide
theorem FMod.enc_lt (m : FMod) : m.enc < 8 := by
  obtain ⟨r, sat⟩ := m
  cases r <;> cases sat <;> decide
theorem Acc.enc_lt (m : Acc) : m.enc < 1024 := by
  have h1 := m.t.enc_lt
  have h2 : codeOf m.ord orders ≤ 6 := codeOf_le _ _
  have h3 : codeOf m.scope scopes ≤ 5 := codeOf_le _ _
  simp only [Acc.enc]
  omega
theorem AMod.enc_lt (m : AMod) : m.enc < 1024 := by
  have h1 : codeOf m.op aops ≤ 12 := codeOf_le _ _
  have h2 : codeOf m.ord orders ≤ 6 := codeOf_le _ _
  have h3 : codeOf m.scope scopes ≤ 5 := codeOf_le _ _
  simp only [AMod.enc]
  omega
theorem AMod.at_lt (m : AMod) : m.at' < 4 := by
  have h1 := bit_lt m.w64
  have h2 := bit_lt m.sg
  simp only [AMod.at']
  omega
theorem MMod.encM_lt (m : MMod) : m.encM < 32 := by
  have h1 : codeOf m.shape shapes ≤ 7 := codeOf_le _ _
  have h2 : codeOf m.amode amodes ≤ 3 := codeOf_le _ _
  simp only [MMod.encM]
  omega
theorem MMod.encC_lt (m : MMod) : m.encC < 16384 := by
  simp only [MMod.encC]
  omega
theorem DMod.encC_lt (m : DMod) : m.encC < 2 ^ 32 := by
  have h1 := m.row0.isLt
  have h2 := m.rows.isLt
  have h3 := m.rstride.isLt
  simp only [DMod.encC]
  omega

/-- The header read back from the fields. -/
theorem hdr_raw (h : Hdr) (op md d a b c cm : Nat) : (h.raw op md d a b c cm).hdr = h := by
  obtain ⟨gn, gp, sw, yh, lsi⟩ := h
  simp only [Hdr.raw, Raw.hdr, bit]
  congr 1
  · cases gn <;> rfl
  · exact Fin.ext (Nat.mod_eq_of_lt gp.isLt)
  · cases sw <;> rfl
  · cases yh <;> rfl
  · exact Fin.ext (Nat.mod_eq_of_lt lsi.isLt)

theorem f2_raw (o : F2) (h : Hdr) (op md cm : Nat) : (o.raw h op md cm).f2 = some o := by
  simp [F2.raw, Hdr.raw, Raw.f2, Opnd.dec_enc, Raw.word]
theorem f3_raw (o : F3) (h : Hdr) (op md cm : Nat) : (o.raw h op md cm).f3 = some o := by
  simp [F3.raw, Hdr.raw, Raw.f3, Opnd.dec_enc, Raw.word]
theorem f4_raw (o : F4) (h : Hdr) (op md : Nat) : (o.raw h op md).f4 = some o := by
  simp [F4.raw, Hdr.raw, Raw.f4, Opnd.dec_enc]

theorem hdr_small (h : Hdr) (op md d a b c cm : Nat) (h1 : op < 1024) (h2 : md < 1024) (h3 : d < 1024) (h4 : a < 1024)
    (h5 : b < 1024) (h6 : c < 2 ^ 32) (h7 : cm < 4) : (h.raw op md d a b c cm).small :=
  ⟨h1, bit_lt _, h.gp.isLt, bit_lt _, bit_lt _, h.lsi.isLt, h2, h3, h4, h5, h7, h6⟩
theorem f2_small (o : F2) (h : Hdr) (op md cm : Nat) (h1 : op < 1024) (h2 : md < 1024) (h7 : cm < 4) :
    (o.raw h op md cm).small :=
  hdr_small _ _ _ _ _ _ _ _ h1 h2 o.d.enc_lt o.a.enc_lt (by decide) o.c.isLt h7
theorem f3_small (o : F3) (h : Hdr) (op md cm : Nat) (h1 : op < 1024) (h2 : md < 1024) (h7 : cm < 4) :
    (o.raw h op md cm).small :=
  hdr_small _ _ _ _ _ _ _ _ h1 h2 o.d.enc_lt o.a.enc_lt o.b.enc_lt o.c.isLt h7
theorem f4_small (o : F4) (h : Hdr) (op md : Nat) (h1 : op < 1024) (h2 : md < 1024) : (o.raw h op md).small :=
  hdr_small _ _ _ _ _ _ _ _ h1 h2 o.d.enc_lt o.a.enc_lt o.b.enc_lt
    (Nat.lt_of_lt_of_le o.cc.enc_lt (by decide)) (by decide)

/-- The width code without a sign, and the sign code of a 32-bit type, read back. -/
theorem tb_encB (w : Bool) : tb (encB w) 0 = w := by cases w <;> rfl
theorem tb_encS (sg : Bool) : tb (encS sg) 2 = sg := by cases sg <;> rfl
theorem encB_lt (w : Bool) : encB w < 4 := by cases w <;> decide
theorem encS_lt (w : Bool) : encS w < 8 := by cases w <;> decide

end Sys2Proof
end

