-- ==== Sys2Proof/Laws/Memory.lean ====
section
/-! SUPPORT. Laws of memory: the canonical form of the byte store, which every memory operation keeps, and read after
write (R8, R110, R187). -/

namespace Sys2Proof.Machine

/-- The canonical form of memory: addresses strictly rising, no byte listed that equals what an unlisted address reads
as. -/
abbrev Memory.wf (m : Store Byte) : Bool := Store.wf (0 : Byte) m

namespace State

/-! ### Read after write -/

@[simp] theorem byte_setByte (s : State) (a : Nat) (b : Byte) (a' : Nat) :
    (s.setByte a b).byte a' = if a = a' then b else s.byte a' := by
  simp [byte, Store.get_set]

theorem byte_poke (s : State) (a n x a' : Nat) :
    (s.poke a n x).byte a' = if a ≤ a' ∧ a' < a + n then BitVec.ofNat 8 (x / 256 ^ (a' - a)) else s.byte a' := by
  induction n generalizing s a x with
  | zero => rw [poke, if_neg (by omega)]
  | succ n ih =>
    rw [poke, ih, byte_setByte]
    by_cases h : a = a'
    · subst h
      rw [if_neg (by omega), if_pos rfl, if_pos (by omega), Nat.sub_self, pow_zero, Nat.div_one]
    · by_cases h1 : a + 1 ≤ a' ∧ a' < a + 1 + n
      · rw [if_pos h1, if_pos (by omega), Nat.div_div_eq_div_mul,
          show 256 * 256 ^ (a' - (a + 1)) = 256 ^ (a' - a) by rw [← pow_succ']; congr 1; omega]
      · rw [if_neg h1, if_neg h, if_neg (by omega)]

/-- Bytes outside the written range are unchanged. -/
theorem byte_poke_of_out (s : State) (a n x a' : Nat) (h : a' < a ∨ a + n ≤ a') : (s.poke a n x).byte a' = s.byte a' := by
  rw [byte_poke, if_neg (by omega)]

/-- A value written is read back. -/
theorem peek_poke (s : State) (a n x : Nat) : (s.poke a n x).peek a n = x % 256 ^ n := by
  suffices h : ∀ n k (t : State), (∀ i, i < n → t.byte (a + k + i) = BitVec.ofNat 8 (x / 256 ^ (k + i))) →
      t.peek (a + k) n = x / 256 ^ k % 256 ^ n by
    simpa using h n 0 (s.poke a n x) (fun i hi => by
      rw [byte_poke, if_pos (by omega)]
      congr 2
      congr 1
      omega)
  intro n
  induction n with
  | zero => intro k t _; simp [peek, Nat.mod_one]
  | succ n ih =>
    intro k t ht
    have h0 := ht 0 (by omega)
    have h1 := ih (k + 1) t (fun i hi => by
      have := ht (i + 1) (by omega)
      rwa [show a + k + (i + 1) = a + (k + 1) + i by omega, show k + (i + 1) = k + 1 + i by omega] at this)
    rw [peek, show a + k + 1 = a + (k + 1) by omega, h1, show a + k = a + k + 0 by omega, h0, pow_succ' 256 n,
      pow_succ 256 k, ← Nat.div_div_eq_div_mul, Nat.mod_mul]
    simp

/-! ### The canonical form is kept -/

theorem wf_setByte {s : State} (h : Memory.wf s.mem = true) (a : Nat) (b : Byte) : Memory.wf (s.setByte a b).mem = true :=
  Store.wf_set h a b

theorem wf_poke {s : State} (h : Memory.wf s.mem = true) (a n x : Nat) : Memory.wf (s.poke a n x).mem = true := by
  induction n generalizing s a x with
  | zero => exact h
  | succ n ih => exact ih (wf_setByte h _ _) _ _

theorem wf_pokeBytes {s : State} (h : Memory.wf s.mem = true) (a : Nat) (bs : List Byte) :
    Memory.wf (s.pokeBytes a bs).mem = true := by
  induction bs generalizing s a with
  | nil => exact h
  | cons b bs ih => exact ih (wf_setByte h _ _) _

theorem wf_zeroBytes {s : State} (h : Memory.wf s.mem = true) (a n : Nat) : Memory.wf (s.zeroBytes a n).mem = true :=
  Store.wf_filter _ h

theorem wf_retag {s : State} (h : Memory.wf s.mem = true) (key a : Nat) : Memory.wf (s.retag key a).mem = true := by
  unfold retag
  split
  · exact h
  · dsimp only
    split
    · exact h
    · dsimp only
      generalize List.range 64 = l
      generalize s.ctr = c
      revert h
      generalize s.mem = m
      intro h
      induction l generalizing m with
      | nil => exact h
      | cons i l ih => exact ih _ (Store.wf_set h _ _)

theorem wf_pokeK {s : State} (h : Memory.wf s.mem = true) (key a n x : Nat) : Memory.wf (s.pokeK key a n x).mem = true :=
  wf_poke (wf_retag h key a) a n x

theorem noteWrite_mem (s : State) (prt : Nat) (lk : Option Nat) (a : Nat) : (s.noteWrite prt lk a).mem = s.mem := by
  unfold noteWrite
  dsimp only
  split
  · rfl
  · split <;> rfl

/-- Keeping what a store replaces changes no byte of memory (R186). -/
theorem noteCode_mem (s : State) (key a n : Nat) : (s.noteCode key a n).mem = s.mem := by
  induction n generalizing s a with
  | zero => rfl
  | succ n ih =>
    rw [noteCode, ih]
    split <;> rfl

theorem wf_storeFor {s : State} (h : Memory.wf s.mem = true) (prt : Nat) (lk : Option Nat) (key a w x : Nat) :
    Memory.wf (s.storeFor prt lk key a w x).mem = true := by
  unfold storeFor
  rw [noteWrite_mem]
  exact wf_pokeK (by rw [noteCode_mem]; exact h) key a w x

theorem wf_storeK {s : State} (h : Memory.wf s.mem = true) (prt lk key a w x : Nat) :
    Memory.wf (s.storeK prt lk key a w x).mem = true := wf_storeFor h prt (some lk) key a w x

theorem wf_padPoke {s : State} (h : Memory.wf s.mem = true) (tk off n x : Nat) :
    Memory.wf (s.padPoke tk off n x).mem = true := by
  induction n generalizing s off x with
  | zero => exact h
  | succ n ih => exact ih (wf_setByte h _ _) _ _

theorem wf_padStore {s : State} (h : Memory.wf s.mem = true) (tk off w x : Nat) :
    Memory.wf (s.padStore tk off w x).mem = true := wf_padPoke h tk off w x

theorem wf_putTile {s : State} (h : Memory.wf s.mem = true) (tk n i j x : Nat) :
    Memory.wf (s.putTile tk n i j x).mem = true := wf_poke h _ 4 x

theorem wf_putSlot {s : State} (h : Memory.wf s.mem = true) (u n key off w x : Nat) :
    Memory.wf (s.putSlot u n key off w x).mem = true := wf_pokeK h key _ w x

theorem wf_mgmtWrite {s : State} (h : Memory.wf s.mem = true) (prt va : Nat) (bs : List Byte) :
    Memory.wf (s.mgmtWrite prt va bs).mem = true := by
  induction bs generalizing s va with
  | nil => exact h
  | cons b bs ih =>
    rw [mgmtWrite]
    apply ih
    split
    · exact wf_storeFor h _ _ _ _ _ _
    · exact h

theorem wf_zeroMacro {s : State} (h : Memory.wf s.mem = true) (u m : Nat) : Memory.wf (s.zeroMacro u m).mem = true :=
  wf_zeroBytes (wf_zeroBytes h _ _) _ _

theorem wf_zeroSlot {s : State} (h : Memory.wf s.mem = true) (u n : Nat) : Memory.wf (s.zeroSlot u n).mem = true :=
  wf_zeroBytes h _ _

theorem wf_wipe {s : State} (h : Memory.wf s.mem = true) (a n : Nat) : Memory.wf (s.wipe a n).mem = true :=
  wf_zeroBytes h _ _

theorem wf_restoreMem {s : State} (h : Memory.wf s.mem = true) (prt : Nat) (pages : Option (List Nat))
    (bs : List (Nat × Byte)) : Memory.wf (s.restoreMem prt pages bs).mem = true := by
  unfold restoreMem
  dsimp only
  have h0 : ∀ f : Nat × Byte → Bool, Memory.wf ({ s with mem := s.mem.filter f } : State).mem = true :=
    fun f => Store.wf_filter f h
  generalize hf : (fun e : Nat × Byte => _) = f
  specialize h0 f
  revert h0
  generalize ({ s with mem := s.mem.filter f } : State) = t
  intro ht
  induction bs generalizing t with
  | nil => exact ht
  | cons b bs ih => exact ih _ (wf_setByte ht _ _)

end State

end Sys2Proof.Machine
end

