-- ==== Sys2Proof/Laws/PerInstr.lean ====
section
/-! SUPPORT. The family Enc: the fields of an instruction's word lie in their ranges and its opcode is assigned, one
lemma per constructor of Instr. -/

namespace Sys2Proof.Laws.Enc

/-- The fields of an instruction that has words are in range, under an opcode of the map (R165, R175). -/
def Statement (i : Instr) : Prop := i.hasWord = true → i.raw.small ∧ assigned i.raw.op = true

theorem nop (h : Hdr) : Statement (.nop h) := fun _ =>
  ⟨hdr_small h 0x000 _ _ _ _ _ _ (by decide) (by decide) (by decide) (by decide) (by decide) (by decide) (by decide), (rfl : assigned 0x000 = true)⟩
theorem add (h : Hdr) (m : IMod) (o : F3) : Statement (.add h m o) := fun _ =>
  ⟨f3_small o h 0x001 _ _ (by decide) (by have h0 := m.enc_lt; omega) (by decide), (rfl : assigned 0x001 = true)⟩
theorem sub (h : Hdr) (m : IMod) (o : F3) : Statement (.sub h m o) := fun _ =>
  ⟨f3_small o h 0x002 _ _ (by decide) (by have h0 := m.enc_lt; omega) (by decide), (rfl : assigned 0x002 = true)⟩
theorem addc (h : Hdr) (o : F4) : Statement (.addc h o) := fun _ =>
  ⟨f4_small o h 0x003 _ (by decide) (by decide), (rfl : assigned 0x003 = true)⟩
theorem subb (h : Hdr) (o : F4) : Statement (.subb h o) := fun _ =>
  ⟨f4_small o h 0x004 _ (by decide) (by decide), (rfl : assigned 0x004 = true)⟩
theorem mul (h : Hdr) (m : IMod) (o : F3) : Statement (.mul h m o) := fun _ =>
  ⟨f3_small o h 0x005 _ _ (by decide) (by have h0 := m.enc_lt; omega) (by decide), (rfl : assigned 0x005 = true)⟩
theorem mulh (h : Hdr) (m : IMod) (o : F3) : Statement (.mulh h m o) := fun _ =>
  ⟨f3_small o h 0x006 _ _ (by decide) (by have h0 := m.enc_lt; omega) (by decide), (rfl : assigned 0x006 = true)⟩
theorem mad (h : Hdr) (m : IMod) (o : F4) : Statement (.mad h m o) := fun _ =>
  ⟨f4_small o h 0x007 _ (by decide) (by have h0 := m.enc_lt; omega), (rfl : assigned 0x007 = true)⟩
theorem madw (h : Hdr) (sg : Bool) (o : F4) : Statement (.madw h sg o) := fun _ =>
  ⟨f4_small o h 0x008 _ (by decide) (by have h0 := encS_lt sg; omega), (rfl : assigned 0x008 = true)⟩
theorem div (h : Hdr) (m : IMod) (o : F3) : Statement (.div h m o) := fun _ =>
  ⟨f3_small o h 0x009 _ _ (by decide) (by have h0 := m.enc_lt; omega) (by decide), (rfl : assigned 0x009 = true)⟩
theorem rem (h : Hdr) (m : IMod) (o : F3) : Statement (.rem h m o) := fun _ =>
  ⟨f3_small o h 0x00A _ _ (by decide) (by have h0 := m.enc_lt; omega) (by decide), (rfl : assigned 0x00A = true)⟩
theorem neg (h : Hdr) (m : IMod) (o : F2) : Statement (.neg h m o) := fun _ =>
  ⟨f2_small o h 0x00B _ _ (by decide) (by have h0 := m.enc_lt; omega) (by decide), (rfl : assigned 0x00B = true)⟩
theorem abs (h : Hdr) (m : IMod) (o : F2) : Statement (.abs h m o) := fun _ =>
  ⟨f2_small o h 0x00C _ _ (by decide) (by have h0 := m.enc_lt; omega) (by decide), (rfl : assigned 0x00C = true)⟩
theorem min (h : Hdr) (m : IMod) (o : F3) : Statement (.min h m o) := fun _ =>
  ⟨f3_small o h 0x00D _ _ (by decide) (by have h0 := m.enc_lt; omega) (by decide), (rfl : assigned 0x00D = true)⟩
theorem max (h : Hdr) (m : IMod) (o : F3) : Statement (.max h m o) := fun _ =>
  ⟨f3_small o h 0x00E _ _ (by decide) (by have h0 := m.enc_lt; omega) (by decide), (rfl : assigned 0x00E = true)⟩
theorem sad (h : Hdr) (m : IMod) (o : F4) : Statement (.sad h m o) := fun _ =>
  ⟨f4_small o h 0x00F _ (by decide) (by have h0 := m.enc_lt; omega), (rfl : assigned 0x00F = true)⟩
theorem lea (h : Hdr) (sh : Fin 8) (sx : Bool) (o : F3) : Statement (.lea h sh sx o) := fun _ =>
  ⟨f3_small o h 0x010 _ _ (by decide) (by have h0 := bit_lt sx; omega) (by decide), (rfl : assigned 0x010 = true)⟩
theorem add64 (h : Hdr) (m : IMod) (o : F3) : Statement (.add64 h m o) := fun _ =>
  ⟨f3_small o h 0x011 _ _ (by decide) (by have h0 := m.enc_lt; omega) (by decide), (rfl : assigned 0x011 = true)⟩
theorem sub64 (h : Hdr) (m : IMod) (o : F3) : Statement (.sub64 h m o) := fun _ =>
  ⟨f3_small o h 0x012 _ _ (by decide) (by have h0 := m.enc_lt; omega) (by decide), (rfl : assigned 0x012 = true)⟩
theorem mov (h : Hdr) (w : Bool) (o : F2) : Statement (.mov h w o) := fun _ =>
  ⟨f2_small o h 0x013 _ _ (by decide) (by have h0 := encB_lt w; omega) (by decide), (rfl : assigned 0x013 = true)⟩
theorem movi (h : Hdr) (o : F3) : Statement (.movi h o) := fun _ =>
  ⟨f3_small o h 0x014 _ _ (by decide) (by decide) (by decide), (rfl : assigned 0x014 = true)⟩
theorem movw (h : Hdr) (hi : Bool) (o : F2) : Statement (.movw h hi o) := fun _ =>
  ⟨f2_small o h 0x015 _ _ (by decide) (by have h0 := bit_lt hi; omega) (by decide), (rfl : assigned 0x015 = true)⟩
theorem sel (h : Hdr) (w : Bool) (o : F4) : Statement (.sel h w o) := fun _ =>
  ⟨f4_small o h 0x016 _ (by decide) (by have h0 := encB_lt w; omega), (rfl : assigned 0x016 = true)⟩
theorem iclamp (h : Hdr) (m : IMod) (o : F4) : Statement (.iclamp h m o) := fun _ =>
  ⟨f4_small o h 0x017 _ (by decide) (by have h0 := m.enc_lt; omega), (rfl : assigned 0x017 = true)⟩
theorem dot4 (h : Hdr) (sa : Bool) (sb : Bool) (sat : Bool) (o : F4) : Statement (.dot4 h sa sb sat o) := fun _ =>
  ⟨f4_small o h 0x018 _ (by decide) (by have h0 := bit_lt sa; have h1 := bit_lt sb; have h2 := bit_lt sat; omega), (rfl : assigned 0x018 = true)⟩
theorem dot2 (h : Hdr) (sa : Bool) (sb : Bool) (sat : Bool) (o : F4) : Statement (.dot2 h sa sb sat o) := fun _ =>
  ⟨f4_small o h 0x019 _ (by decide) (by have h0 := bit_lt sa; have h1 := bit_lt sb; have h2 := bit_lt sat; omega), (rfl : assigned 0x019 = true)⟩
theorem andB (h : Hdr) (w : Bool) (o : F3) : Statement (.andB h w o) := fun _ =>
  ⟨f3_small o h 0x040 _ _ (by decide) (by have h0 := encB_lt w; omega) (by decide), (rfl : assigned 0x040 = true)⟩
theorem orB (h : Hdr) (w : Bool) (o : F3) : Statement (.orB h w o) := fun _ =>
  ⟨f3_small o h 0x041 _ _ (by decide) (by have h0 := encB_lt w; omega) (by decide), (rfl : assigned 0x041 = true)⟩
theorem xorB (h : Hdr) (w : Bool) (o : F3) : Statement (.xorB h w o) := fun _ =>
  ⟨f3_small o h 0x042 _ _ (by decide) (by have h0 := encB_lt w; omega) (by decide), (rfl : assigned 0x042 = true)⟩
theorem notB (h : Hdr) (w : Bool) (o : F2) : Statement (.notB h w o) := fun _ =>
  ⟨f2_small o h 0x043 _ _ (by decide) (by have h0 := encB_lt w; omega) (by decide), (rfl : assigned 0x043 = true)⟩
theorem andn (h : Hdr) (w : Bool) (o : F3) : Statement (.andn h w o) := fun _ =>
  ⟨f3_small o h 0x044 _ _ (by decide) (by have h0 := encB_lt w; omega) (by decide), (rfl : assigned 0x044 = true)⟩
theorem orn (h : Hdr) (w : Bool) (o : F3) : Statement (.orn h w o) := fun _ =>
  ⟨f3_small o h 0x045 _ _ (by decide) (by have h0 := encB_lt w; omega) (by decide), (rfl : assigned 0x045 = true)⟩
theorem bfn3 (h : Hdr) (fn : Byte) (o : F4) : Statement (.bfn3 h fn o) := fun _ =>
  ⟨f4_small o h 0x046 _ (by decide) (by have h0 := fn.isLt; omega), (rfl : assigned 0x046 = true)⟩
theorem shl (h : Hdr) (o : F3) : Statement (.shl h o) := fun _ =>
  ⟨f3_small o h 0x047 _ _ (by decide) (by decide) (by decide), (rfl : assigned 0x047 = true)⟩
theorem shr (h : Hdr) (o : F3) : Statement (.shr h o) := fun _ =>
  ⟨f3_small o h 0x048 _ _ (by decide) (by decide) (by decide), (rfl : assigned 0x048 = true)⟩
theorem sar (h : Hdr) (o : F3) : Statement (.sar h o) := fun _ =>
  ⟨f3_small o h 0x049 _ _ (by decide) (by decide) (by decide), (rfl : assigned 0x049 = true)⟩
theorem rotl (h : Hdr) (o : F3) : Statement (.rotl h o) := fun _ =>
  ⟨f3_small o h 0x04A _ _ (by decide) (by decide) (by decide), (rfl : assigned 0x04A = true)⟩
theorem rotr (h : Hdr) (o : F3) : Statement (.rotr h o) := fun _ =>
  ⟨f3_small o h 0x04B _ _ (by decide) (by decide) (by decide), (rfl : assigned 0x04B = true)⟩
theorem shl64 (h : Hdr) (o : F3) : Statement (.shl64 h o) := fun _ =>
  ⟨f3_small o h 0x04C _ _ (by decide) (by decide) (by decide), (rfl : assigned 0x04C = true)⟩
theorem shr64 (h : Hdr) (o : F3) : Statement (.shr64 h o) := fun _ =>
  ⟨f3_small o h 0x04D _ _ (by decide) (by decide) (by decide), (rfl : assigned 0x04D = true)⟩
theorem sar64 (h : Hdr) (o : F3) : Statement (.sar64 h o) := fun _ =>
  ⟨f3_small o h 0x04E _ _ (by decide) (by decide) (by decide), (rfl : assigned 0x04E = true)⟩
theorem clz (h : Hdr) (w : Bool) (o : F2) : Statement (.clz h w o) := fun _ =>
  ⟨f2_small o h 0x04F _ _ (by decide) (by have h0 := encB_lt w; omega) (by decide), (rfl : assigned 0x04F = true)⟩
theorem ctz (h : Hdr) (w : Bool) (o : F2) : Statement (.ctz h w o) := fun _ =>
  ⟨f2_small o h 0x050 _ _ (by decide) (by have h0 := encB_lt w; omega) (by decide), (rfl : assigned 0x050 = true)⟩
theorem popc (h : Hdr) (w : Bool) (o : F2) : Statement (.popc h w o) := fun _ =>
  ⟨f2_small o h 0x051 _ _ (by decide) (by have h0 := encB_lt w; omega) (by decide), (rfl : assigned 0x051 = true)⟩
theorem brev (h : Hdr) (w : Bool) (o : F2) : Statement (.brev h w o) := fun _ =>
  ⟨f2_small o h 0x052 _ _ (by decide) (by have h0 := encB_lt w; omega) (by decide), (rfl : assigned 0x052 = true)⟩
theorem bfx (h : Hdr) (sg : Bool) (o : F3) : Statement (.bfx h sg o) := fun _ =>
  ⟨f3_small o h 0x053 _ _ (by decide) (by have h0 := encS_lt sg; omega) (by decide), (rfl : assigned 0x053 = true)⟩
theorem bfi (h : Hdr) (o : F4) : Statement (.bfi h o) := fun _ =>
  ⟨f4_small o h 0x054 _ (by decide) (by decide), (rfl : assigned 0x054 = true)⟩
theorem bsel (h : Hdr) (w : Bool) (o : F4) : Statement (.bsel h w o) := fun _ =>
  ⟨f4_small o h 0x055 _ (by decide) (by have h0 := encB_lt w; omega), (rfl : assigned 0x055 = true)⟩
theorem cmp (h : Hdr) (t : IType) (c : Cond) (pc : Fin 8) (bop : BOp) (o : F3) : Statement (.cmp h t c pc bop o) := fun _ =>
  ⟨f3_small o h 0x080 _ _ (by decide) (by have h0 : codeOf c conds ≤ 6 := codeOf_le _ _; have h1 := t.enc_lt; omega) (by have h0 := codeOf_bops bop; omega), (rfl : assigned 0x080 = true)⟩
theorem cmp64 (h : Hdr) (sg : Bool) (c : Cond) (pc : Fin 8) (bop : BOp) (o : F3) : Statement (.cmp64 h sg c pc bop o) := fun _ =>
  ⟨f3_small o h 0x081 _ _ (by decide) (by have h0 := bit_lt sg; have h1 : codeOf c conds ≤ 6 := codeOf_le _ _; omega) (by have h0 := codeOf_bops bop; omega), (rfl : assigned 0x081 = true)⟩
theorem fcmp (h : Hdr) (c : FCond) (pc : Fin 8) (bop : BOp) (o : F3) : Statement (.fcmp h c pc bop o) := fun _ =>
  ⟨f3_small o h 0x082 _ _ (by decide) (by have h0 : codeOf c fconds ≤ 14 := codeOf_le _ _; omega) (by have h0 := codeOf_bops bop; omega), (rfl : assigned 0x082 = true)⟩
theorem pand (h : Hdr) (na : Bool) (nb : Bool) (o : F3) : Statement (.pand h na nb o) := fun _ =>
  ⟨f3_small o h 0x083 _ _ (by decide) (by have h0 := bit_lt na; have h1 := bit_lt nb; omega) (by decide), (rfl : assigned 0x083 = true)⟩
theorem por (h : Hdr) (na : Bool) (nb : Bool) (o : F3) : Statement (.por h na nb o) := fun _ =>
  ⟨f3_small o h 0x084 _ _ (by decide) (by have h0 := bit_lt na; have h1 := bit_lt nb; omega) (by decide), (rfl : assigned 0x084 = true)⟩
theorem pxor (h : Hdr) (na : Bool) (nb : Bool) (o : F3) : Statement (.pxor h na nb o) := fun _ =>
  ⟨f3_small o h 0x085 _ _ (by decide) (by have h0 := bit_lt na; have h1 := bit_lt nb; omega) (by decide), (rfl : assigned 0x085 = true)⟩
theorem pnot (h : Hdr) (o : F2) : Statement (.pnot h o) := fun _ =>
  ⟨f2_small o h 0x086 _ _ (by decide) (by decide) (by decide), (rfl : assigned 0x086 = true)⟩
theorem pmov (h : Hdr) (o : F2) : Statement (.pmov h o) := fun _ =>
  ⟨f2_small o h 0x087 _ _ (by decide) (by decide) (by decide), (rfl : assigned 0x087 = true)⟩
theorem vote (h : Hdr) (m : VoteMode) (na : Bool) (o : F2) : Statement (.vote h m na o) := fun _ =>
  ⟨f2_small o h 0x088 _ _ (by decide) (by have h0 := bit_lt na; have h1 : codeOf m voteModes ≤ 6 := codeOf_le _ _; omega) (by decide), (rfl : assigned 0x088 = true)⟩
theorem shfl (h : Hdr) (m : ShflMode) (g : Fin 4) (w : Bool) (o : F3) : Statement (.shfl h m g w o) := fun _ =>
  ⟨f3_small o h 0x089 _ _ (by decide) (by have h0 := bit_lt w; have h1 : codeOf m shflModes ≤ 5 := codeOf_le _ _; omega) (by decide), (rfl : assigned 0x089 = true)⟩
theorem vtos (h : Hdr) (w : Bool) (o : F3) : Statement (.vtos h w o) := fun _ =>
  ⟨f3_small o h 0x08A _ _ (by decide) (by have h0 := bit_lt w; omega) (by decide), (rfl : assigned 0x08A = true)⟩
theorem stov (h : Hdr) (w : Bool) (o : F3) : Statement (.stov h w o) := fun _ =>
  ⟨f3_small o h 0x08B _ _ (by decide) (by have h0 := bit_lt w; omega) (by decide), (rfl : assigned 0x08B = true)⟩
theorem amask (h : Hdr) (d : Opnd) : Statement (.amask h d) := fun _ =>
  ⟨hdr_small h 0x08C _ _ _ _ _ _ (by decide) (by decide) d.enc_lt (by decide) (by decide) (by decide) (by decide), (rfl : assigned 0x08C = true)⟩
theorem prefixScan (h : Hdr) (p : RedOp) (t : IType) (ex : Bool) (x : Rnd) (o : F2) : Statement (.prefixScan h p t ex x o) := fun _ =>
  ⟨f2_small o h 0x08D _ _ (by decide) (by have h0 := bit_lt ex; have h1 : codeOf p redOps ≤ 7 := codeOf_le _ _; have h2 : codeOf x rnds ≤ 4 := codeOf_le _ _; have h3 := t.enc_lt; omega) (by decide), (rfl : assigned 0x08D = true)⟩
theorem reduce (h : Hdr) (p : RedOp) (t : IType) (x : Rnd) (o : F2) : Statement (.reduce h p t x o) := fun _ =>
  ⟨f2_small o h 0x08E _ _ (by decide) (by have h0 : codeOf p redOps ≤ 7 := codeOf_le _ _; have h1 : codeOf x rnds ≤ 4 := codeOf_le _ _; have h2 := t.enc_lt; omega) (by decide), (rfl : assigned 0x08E = true)⟩
theorem matchV (h : Hdr) (w : Bool) (o : F2) : Statement (.matchV h w o) := fun _ =>
  ⟨f2_small o h 0x08F _ _ (by decide) (by have h0 := bit_lt w; omega) (by decide), (rfl : assigned 0x08F = true)⟩
theorem br (h : Hdr) (n : Bool) (p : Fin 8) (off : Word) : Statement (.br h n p off) := fun _ =>
  ⟨hdr_small h 0x0C0 _ _ _ _ _ _ (by decide) (by have h0 := bit_lt n; omega) (by decide) (by omega) (by decide) off.isLt (by decide), (rfl : assigned 0x0C0 = true)⟩
theorem brd (h : Hdr) (n : Bool) (p : Fin 8) (hud : Fin 16) (off : Word) : Statement (.brd h n p hud off) := fun _ =>
  ⟨hdr_small h 0x0C1 _ _ _ _ _ _ (by decide) (by have h0 := bit_lt n; omega) (by decide) (by omega) (by decide) off.isLt (by decide), (rfl : assigned 0x0C1 = true)⟩
theorem jmp (h : Hdr) (off : Word) : Statement (.jmp h off) := fun _ =>
  ⟨hdr_small h 0x0C2 _ _ _ _ _ _ (by decide) (by decide) (by decide) (by decide) (by decide) off.isLt (by decide), (rfl : assigned 0x0C2 = true)⟩
theorem jmpi (h : Hdr) (a : Opnd) (c : Word) : Statement (.jmpi h a c) := fun _ =>
  ⟨hdr_small h 0x0C3 _ _ _ _ _ _ (by decide) (by decide) (by decide) a.enc_lt (by decide) c.isLt (by decide), (rfl : assigned 0x0C3 = true)⟩
theorem call (h : Hdr) (sl : Fin 4) (off : Word) : Statement (.call h sl off) := fun _ =>
  ⟨hdr_small h 0x0C4 _ _ _ _ _ _ (by decide) (by omega) (by decide) (by decide) (by decide) off.isLt (by decide), (rfl : assigned 0x0C4 = true)⟩
theorem calli (h : Hdr) (sl : Fin 4) (a : Opnd) (c : Word) : Statement (.calli h sl a c) := fun _ =>
  ⟨hdr_small h 0x0C5 _ _ _ _ _ _ (by decide) (by omega) (by decide) a.enc_lt (by decide) c.isLt (by decide), (rfl : assigned 0x0C5 = true)⟩
theorem ret (h : Hdr) : Statement (.ret h) := fun _ =>
  ⟨hdr_small h 0x0C6 _ _ _ _ _ _ (by decide) (by decide) (by decide) (by decide) (by decide) (by decide) (by decide), (rfl : assigned 0x0C6 = true)⟩
theorem hjoin (h : Hdr) (hud : Fin 16) : Statement (.hjoin h hud) := fun _ =>
  ⟨hdr_small h 0x0C7 _ _ _ _ _ _ (by decide) (by omega) (by decide) (by decide) (by decide) (by decide) (by decide), (rfl : assigned 0x0C7 = true)⟩
theorem exit (h : Hdr) : Statement (.exit h) := fun _ =>
  ⟨hdr_small h 0x0C8 _ _ _ _ _ _ (by decide) (by decide) (by decide) (by decide) (by decide) (by decide) (by decide), (rfl : assigned 0x0C8 = true)⟩
theorem loop (h : Hdr) (n : Fin 16) (off : Word) : Statement (.loop h n off) := fun _ =>
  ⟨hdr_small h 0x0C9 _ _ _ _ _ _ (by decide) (by decide) (by decide) (by omega) (by decide) off.isLt (by decide), (rfl : assigned 0x0C9 = true)⟩
theorem wgrow (h : Hdr) (amt : Fin 4) : Statement (.wgrow h amt) := fun _ =>
  ⟨hdr_small h 0x0CA _ _ _ _ _ _ (by decide) (by omega) (by decide) (by decide) (by decide) (by decide) (by decide), (rfl : assigned 0x0CA = true)⟩
theorem wshrink (h : Hdr) (amt : Fin 4) : Statement (.wshrink h amt) := fun _ =>
  ⟨hdr_small h 0x0CB _ _ _ _ _ _ (by decide) (by omega) (by decide) (by decide) (by decide) (by decide) (by decide), (rfl : assigned 0x0CB = true)⟩
theorem fadd (h : Hdr) (m : FMod) (o : F3) : Statement (.fadd h m o) := fun _ =>
  ⟨f3_small o h 0x100 _ _ (by decide) (by have h0 := m.enc_lt; omega) (by decide), (rfl : assigned 0x100 = true)⟩
theorem fsub (h : Hdr) (m : FMod) (o : F3) : Statement (.fsub h m o) := fun _ =>
  ⟨f3_small o h 0x101 _ _ (by decide) (by have h0 := m.enc_lt; omega) (by decide), (rfl : assigned 0x101 = true)⟩
theorem fmul (h : Hdr) (m : FMod) (o : F3) : Statement (.fmul h m o) := fun _ =>
  ⟨f3_small o h 0x102 _ _ (by decide) (by have h0 := m.enc_lt; omega) (by decide), (rfl : assigned 0x102 = true)⟩
theorem ffma (h : Hdr) (m : FMod) (o : F4) : Statement (.ffma h m o) := fun _ =>
  ⟨f4_small o h 0x103 _ (by decide) (by have h0 := m.enc_lt; omega), (rfl : assigned 0x103 = true)⟩
theorem fmin (h : Hdr) (o : F3) : Statement (.fmin h o) := fun _ =>
  ⟨f3_small o h 0x104 _ _ (by decide) (by decide) (by decide), (rfl : assigned 0x104 = true)⟩
theorem fmax (h : Hdr) (o : F3) : Statement (.fmax h o) := fun _ =>
  ⟨f3_small o h 0x105 _ _ (by decide) (by decide) (by decide), (rfl : assigned 0x105 = true)⟩
theorem fabs (h : Hdr) (o : F2) : Statement (.fabs h o) := fun _ =>
  ⟨f2_small o h 0x106 _ _ (by decide) (by decide) (by decide), (rfl : assigned 0x106 = true)⟩
theorem fneg (h : Hdr) (o : F2) : Statement (.fneg h o) := fun _ =>
  ⟨f2_small o h 0x107 _ _ (by decide) (by decide) (by decide), (rfl : assigned 0x107 = true)⟩
theorem fdiv (h : Hdr) (m : FMod) (o : F3) : Statement (.fdiv h m o) := fun _ =>
  ⟨f3_small o h 0x108 _ _ (by decide) (by have h0 := m.enc_lt; omega) (by decide), (rfl : assigned 0x108 = true)⟩
theorem fsqrt (h : Hdr) (m : FMod) (o : F2) : Statement (.fsqrt h m o) := fun _ =>
  ⟨f2_small o h 0x109 _ _ (by decide) (by have h0 := m.enc_lt; omega) (by decide), (rfl : assigned 0x109 = true)⟩
theorem frcp (h : Hdr) (m : FMod) (o : F2) : Statement (.frcp h m o) := fun _ =>
  ⟨f2_small o h 0x10A _ _ (by decide) (by have h0 := m.enc_lt; omega) (by decide), (rfl : assigned 0x10A = true)⟩
theorem frsq (h : Hdr) (m : FMod) (o : F2) : Statement (.frsq h m o) := fun _ =>
  ⟨f2_small o h 0x10B _ _ (by decide) (by have h0 := m.enc_lt; omega) (by decide), (rfl : assigned 0x10B = true)⟩
theorem fexp2 (h : Hdr) (m : FMod) (o : F2) : Statement (.fexp2 h m o) := fun _ =>
  ⟨f2_small o h 0x10C _ _ (by decide) (by have h0 := m.enc_lt; omega) (by decide), (rfl : assigned 0x10C = true)⟩
theorem flog2 (h : Hdr) (m : FMod) (o : F2) : Statement (.flog2 h m o) := fun _ =>
  ⟨f2_small o h 0x10D _ _ (by decide) (by have h0 := m.enc_lt; omega) (by decide), (rfl : assigned 0x10D = true)⟩
theorem frnd (h : Hdr) (x : Rnd) (o : F2) : Statement (.frnd h x o) := fun _ =>
  ⟨f2_small o h 0x10E _ _ (by decide) (by have h0 : codeOf x rnds ≤ 4 := codeOf_le _ _; omega) (by decide), (rfl : assigned 0x10E = true)⟩
theorem fclass (h : Hdr) (o : F2) : Statement (.fclass h o) := fun _ =>
  ⟨f2_small o h 0x10F _ _ (by decide) (by decide) (by decide), (rfl : assigned 0x10F = true)⟩
theorem fcopysign (h : Hdr) (o : F3) : Statement (.fcopysign h o) := fun _ =>
  ⟨f3_small o h 0x110 _ _ (by decide) (by decide) (by decide), (rfl : assigned 0x110 = true)⟩
theorem fscale (h : Hdr) (m : FMod) (o : F3) : Statement (.fscale h m o) := fun _ =>
  ⟨f3_small o h 0x111 _ _ (by decide) (by have h0 := m.enc_lt; omega) (by decide), (rfl : assigned 0x111 = true)⟩
theorem f16add (h : Hdr) (m : FMod) (o : F3) : Statement (.f16add h m o) := fun _ =>
  ⟨f3_small o h 0x140 _ _ (by decide) (by have h0 := m.enc_lt; omega) (by decide), (rfl : assigned 0x140 = true)⟩
theorem f16mul (h : Hdr) (m : FMod) (o : F3) : Statement (.f16mul h m o) := fun _ =>
  ⟨f3_small o h 0x141 _ _ (by decide) (by have h0 := m.enc_lt; omega) (by decide), (rfl : assigned 0x141 = true)⟩
theorem f16fma (h : Hdr) (m : FMod) (o : F4) : Statement (.f16fma h m o) := fun _ =>
  ⟨f4_small o h 0x142 _ (by decide) (by have h0 := m.enc_lt; omega), (rfl : assigned 0x142 = true)⟩
theorem f16min (h : Hdr) (o : F3) : Statement (.f16min h o) := fun _ =>
  ⟨f3_small o h 0x143 _ _ (by decide) (by decide) (by decide), (rfl : assigned 0x143 = true)⟩
theorem f16max (h : Hdr) (o : F3) : Statement (.f16max h o) := fun _ =>
  ⟨f3_small o h 0x144 _ _ (by decide) (by decide) (by decide), (rfl : assigned 0x144 = true)⟩
theorem b16add (h : Hdr) (m : FMod) (o : F3) : Statement (.b16add h m o) := fun _ =>
  ⟨f3_small o h 0x145 _ _ (by decide) (by have h0 := m.enc_lt; omega) (by decide), (rfl : assigned 0x145 = true)⟩
theorem b16mul (h : Hdr) (m : FMod) (o : F3) : Statement (.b16mul h m o) := fun _ =>
  ⟨f3_small o h 0x146 _ _ (by decide) (by have h0 := m.enc_lt; omega) (by decide), (rfl : assigned 0x146 = true)⟩
theorem b16fma (h : Hdr) (m : FMod) (o : F4) : Statement (.b16fma h m o) := fun _ =>
  ⟨f4_small o h 0x147 _ (by decide) (by have h0 := m.enc_lt; omega), (rfl : assigned 0x147 = true)⟩
theorem fdot2 (h : Hdr) (m : FMod) (o : F4) : Statement (.fdot2 h m o) := fun _ =>
  ⟨f4_small o h 0x148 _ (by decide) (by have h0 := m.enc_lt; omega), (rfl : assigned 0x148 = true)⟩
theorem bdot2 (h : Hdr) (m : FMod) (o : F4) : Statement (.bdot2 h m o) := fun _ =>
  ⟨f4_small o h 0x149 _ (by decide) (by have h0 := m.enc_lt; omega), (rfl : assigned 0x149 = true)⟩
theorem fcmp2 (h : Hdr) (c : FCond) (bf : Bool) (o : F3) : Statement (.fcmp2 h c bf o) := fun _ =>
  ⟨f3_small o h 0x14A _ _ (by decide) (by have h0 := bit_lt bf; have h1 : codeOf c fconds ≤ 14 := codeOf_le _ _; omega) (by decide), (rfl : assigned 0x14A = true)⟩
theorem qdot4 (h : Hdr) (m : FMod) (fa : Bool) (fb : Bool) (o : F4) : Statement (.qdot4 h m fa fb o) := fun _ =>
  ⟨f4_small o h 0x14B _ (by decide) (by have h0 := bit_lt fa; have h1 := bit_lt fb; have h2 := m.enc_lt; omega), (rfl : assigned 0x14B = true)⟩
theorem b16min (h : Hdr) (o : F3) : Statement (.b16min h o) := fun _ =>
  ⟨f3_small o h 0x14C _ _ (by decide) (by decide) (by decide), (rfl : assigned 0x14C = true)⟩
theorem b16max (h : Hdr) (o : F3) : Statement (.b16max h o) := fun _ =>
  ⟨f3_small o h 0x14D _ _ (by decide) (by decide) (by decide), (rfl : assigned 0x14D = true)⟩
theorem cvt (h : Hdr) (m : FMod) (src : Fmt) (dst : Fmt) (o : F3) : Statement (.cvt h m src dst o) := fun _ =>
  ⟨f3_small o h 0x180 _ _ (by decide) (by have h0 := codeOf_fmts src; have h1 := codeOf_fmts dst; have h2 := m.enc_lt; omega) (by decide), (rfl : assigned 0x180 = true)⟩
theorem i2f (h : Hdr) (m : FMod) (t : IType) (dst : Fmt) (o : F2) : Statement (.i2f h m t dst o) := fun _ =>
  ⟨f2_small o h 0x181 _ _ (by decide) (by have h0 := bit_lt m.sat; have h1 : codeOf m.rnd rnds ≤ 4 := codeOf_le _ _; have h2 := codeOf_fmts dst; have h3 := t.enc_lt; omega) (by decide), (rfl : assigned 0x181 = true)⟩
theorem f2i (h : Hdr) (x : Rnd) (t : IType) (src : Fmt) (o : F2) : Statement (.f2i h x t src o) := fun _ =>
  ⟨f2_small o h 0x182 _ _ (by decide) (by have h0 : codeOf x rnds ≤ 4 := codeOf_le _ _; have h1 := codeOf_fmts src; have h2 := t.enc_lt; omega) (by decide), (rfl : assigned 0x182 = true)⟩
theorem pk (h : Hdr) (m : FMod) (rw : Bool) (dst : Fmt) (pos : Fin 4) (o : F3) : Statement (.pk h m rw dst pos o) := fun _ =>
  ⟨f3_small o h 0x183 _ _ (by decide) (by have h0 := bit_lt rw; have h1 := codeOf_fmts dst; have h2 := m.enc_lt; omega) (by decide), (rfl : assigned 0x183 = true)⟩
theorem upk (h : Hdr) (src : Fmt) (e : Fin 8) (rw : Bool) (o : F2) : Statement (.upk h src e rw o) := fun _ =>
  ⟨f2_small o h 0x184 _ _ (by decide) (by have h0 := bit_lt rw; have h1 := codeOf_fmts src; omega) (by decide), (rfl : assigned 0x184 = true)⟩
theorem mxq (h : Hdr) (f : Fmt) (d : Opnd) (a : Opnd) (sc : Opnd) : Statement (.mxq h f d a sc) := fun _ =>
  ⟨hdr_small h 0x185 _ _ _ _ _ _ (by decide) (by have h0 := codeOf_fmts f; omega) d.enc_lt a.enc_lt (by decide) (by have h0 := sc.enc_lt; omega) (by decide), (rfl : assigned 0x185 = true)⟩
theorem mxd (h : Hdr) (x : Rnd) (f : Fmt) (o : F3) : Statement (.mxd h x f o) := fun _ =>
  ⟨f3_small o h 0x186 _ _ (by decide) (by have h0 : codeOf x rnds ≤ 4 := codeOf_le _ _; have h1 := codeOf_fmts f; omega) (by decide), (rfl : assigned 0x186 = true)⟩
theorem ld (h : Hdr) (m : Acc) (d : Opnd) (a : Opnd) (disp : Word) : Statement (.ld h m d a disp) := fun _ =>
  ⟨hdr_small h 0x1C0 _ _ _ _ _ _ (by decide) m.enc_lt d.enc_lt a.enc_lt (by decide) disp.isLt (by decide), (rfl : assigned 0x1C0 = true)⟩
theorem st (h : Hdr) (m : Acc) (a : Opnd) (b : Opnd) (disp : Word) : Statement (.st h m a b disp) := fun _ =>
  ⟨hdr_small h 0x1C1 _ _ _ _ _ _ (by decide) m.enc_lt (by decide) a.enc_lt b.enc_lt disp.isLt (by decide), (rfl : assigned 0x1C1 = true)⟩
theorem stp (h : Hdr) (w : Width) (a : Opnd) (b : Opnd) (disp : Word) : Statement (.stp h w a b disp) := fun _ =>
  ⟨hdr_small h 0x1C2 _ _ _ _ _ _ (by decide) (by have h0 : codeOf w widths ≤ 4 := codeOf_le _ _; omega) (by decide) a.enc_lt b.enc_lt disp.isLt (by decide), (rfl : assigned 0x1C2 = true)⟩
theorem atm (h : Hdr) (m : AMod) (d : Opnd) (a : Opnd) (b : Opnd) (disp : Word) : Statement (.atm h m d a b disp) := fun _ =>
  ⟨hdr_small h 0x1C3 _ _ _ _ _ _ (by decide) m.enc_lt d.enc_lt a.enc_lt b.enc_lt disp.isLt m.at_lt, (rfl : assigned 0x1C3 = true)⟩
theorem atp (h : Hdr) (m : AMod) (a : Opnd) (b : Opnd) (disp : Word) : Statement (.atp h m a b disp) := fun _ =>
  ⟨hdr_small h 0x1C4 _ _ _ _ _ _ (by decide) m.enc_lt (by decide) a.enc_lt b.enc_lt disp.isLt m.at_lt, (rfl : assigned 0x1C4 = true)⟩
theorem cas (h : Hdr) (m : Acc) (d : Opnd) (a : Opnd) (b : Opnd) (disp : Word) : Statement (.cas h m d a b disp) := fun _ =>
  ⟨hdr_small h 0x1C5 _ _ _ _ _ _ (by decide) m.enc_lt d.enc_lt a.enc_lt b.enc_lt disp.isLt (by decide), (rfl : assigned 0x1C5 = true)⟩
theorem fence (h : Hdr) (o : Order) (s : Scope) (cp : Bool) (mx : Bool) : Statement (.fence h o s cp mx) := fun _ =>
  ⟨hdr_small h 0x1C6 _ _ _ _ _ _ (by decide) (by have h0 := bit_lt cp; have h1 := bit_lt mx; have h2 : codeOf o orders ≤ 6 := codeOf_le _ _; have h3 : codeOf s scopes ≤ 5 := codeOf_le _ _; omega) (by decide) (by decide) (by decide) (by decide) (by decide), (rfl : assigned 0x1C6 = true)⟩
theorem drain (h : Hdr) : Statement (.drain h) := fun _ =>
  ⟨hdr_small h 0x1C7 _ _ _ _ _ _ (by decide) (by decide) (by decide) (by decide) (by decide) (by decide) (by decide), (rfl : assigned 0x1C7 = true)⟩
theorem pass (h : Hdr) (a : Option Opnd) (disp : Word) : Statement (.pass h a disp) := by
  cases a with
  | none => exact fun _ => ⟨hdr_small h 0x1C8 1 0 0 0 disp.toNat 0 (by decide) (by decide) (by decide) (by decide)
      (by decide) disp.isLt (by decide), (rfl : assigned 0x1C8 = true)⟩
  | some a => exact fun _ => ⟨hdr_small h 0x1C8 0 0 a.enc 0 disp.toNat 0 (by decide) (by decide) (by decide) a.enc_lt
      (by decide) disp.isLt (by decide), (rfl : assigned 0x1C8 = true)⟩
theorem rrd (h : Hdr) (t : IType) (d : Opnd) (a : Opnd) (disp : Word) : Statement (.rrd h t d a disp) := fun _ =>
  ⟨hdr_small h 0x1C9 _ _ _ _ _ _ (by decide) (by have h0 := t.enc_lt; omega) d.enc_lt a.enc_lt (by decide) disp.isLt (by decide), (rfl : assigned 0x1C9 = true)⟩
theorem rwr (h : Hdr) (w : Width) (a : Opnd) (b : Opnd) (disp : Word) : Statement (.rwr h w a b disp) := fun _ =>
  ⟨hdr_small h 0x1CA _ _ _ _ _ _ (by decide) (by have h0 : codeOf w widths ≤ 4 := codeOf_le _ _; omega) (by decide) a.enc_lt b.enc_lt disp.isLt (by decide), (rfl : assigned 0x1CA = true)⟩
theorem lds (h : Hdr) (m : Acc) (d : Opnd) (a : Opnd) (disp : Word) : Statement (.lds h m d a disp) := fun _ =>
  ⟨hdr_small h 0x200 _ _ _ _ _ _ (by decide) m.enc_lt d.enc_lt a.enc_lt (by decide) disp.isLt (by decide), (rfl : assigned 0x200 = true)⟩
theorem sts (h : Hdr) (m : Acc) (a : Opnd) (b : Opnd) (disp : Word) : Statement (.sts h m a b disp) := fun _ =>
  ⟨hdr_small h 0x201 _ _ _ _ _ _ (by decide) m.enc_lt (by decide) a.enc_lt b.enc_lt disp.isLt (by decide), (rfl : assigned 0x201 = true)⟩
theorem ats (h : Hdr) (m : AMod) (d : Opnd) (a : Opnd) (b : Opnd) (disp : Word) : Statement (.ats h m d a b disp) := fun _ =>
  ⟨hdr_small h 0x202 _ _ _ _ _ _ (by decide) m.enc_lt d.enc_lt a.enc_lt b.enc_lt disp.isLt m.at_lt, (rfl : assigned 0x202 = true)⟩
theorem bar (h : Hdr) (id : Fin 8) (mx : Bool) : Statement (.bar h id mx) := fun _ =>
  ⟨hdr_small h 0x203 _ _ _ _ _ _ (by decide) (by have h0 := bit_lt mx; omega) (by decide) (by decide) (by decide) (by decide) (by decide), (rfl : assigned 0x203 = true)⟩
theorem bara (h : Hdr) (id : Fin 8) (mx : Bool) : Statement (.bara h id mx) := fun _ =>
  ⟨hdr_small h 0x204 _ _ _ _ _ _ (by decide) (by have h0 := bit_lt mx; omega) (by decide) (by decide) (by decide) (by decide) (by decide), (rfl : assigned 0x204 = true)⟩
theorem barw (h : Hdr) (id : Fin 8) : Statement (.barw h id) := fun _ =>
  ⟨hdr_small h 0x205 _ _ _ _ _ _ (by decide) (by omega) (by decide) (by decide) (by decide) (by decide) (by decide), (rfl : assigned 0x205 = true)⟩
theorem sgo (h : Hdr) (g : Fin 8) (mx : Bool) (a : Opnd) : Statement (.sgo h g mx a) := fun _ =>
  ⟨hdr_small h 0x206 _ _ _ _ _ _ (by decide) (by have h0 := bit_lt mx; omega) (by decide) a.enc_lt (by decide) (by decide) (by decide), (rfl : assigned 0x206 = true)⟩
theorem swt (h : Hdr) (g : Fin 8) (a : Opnd) (b : Opnd) : Statement (.swt h g a b) := fun _ =>
  ⟨hdr_small h 0x207 _ _ _ _ _ _ (by decide) (by omega) (by decide) a.enc_lt b.enc_lt (by decide) (by decide), (rfl : assigned 0x207 = true)⟩
theorem gang (h : Hdr) (a : Opnd) (c : Word) : Statement (.gang h a c) := fun _ =>
  ⟨hdr_small h 0x240 _ _ _ _ _ _ (by decide) (by decide) (by decide) a.enc_lt (by decide) c.isLt (by decide), (rfl : assigned 0x240 = true)⟩
theorem mstat (h : Hdr) (ty : Fmt) (pt : Pat) (a : Opnd) (b : Opnd) (rg : Fin 64) : Statement (.mstat h ty pt a b rg) := fun _ =>
  ⟨hdr_small h 0x241 _ _ _ _ _ _ (by decide) (by have h0 := codeOf_fmts ty; have h1 : codeOf pt pats ≤ 3 := codeOf_le _ _; omega) (by decide) a.enc_lt b.enc_lt (by omega) (by decide), (rfl : assigned 0x241 = true)⟩
theorem mfree (h : Hdr) (rg : Fin 64) : Statement (.mfree h rg) := fun _ =>
  ⟨hdr_small h 0x242 _ _ _ _ _ _ (by decide) (by decide) (by decide) (by decide) (by decide) (by omega) (by decide), (rfl : assigned 0x242 = true)⟩
theorem mmx (h : Hdr) (m : MMod) (d : Opnd) (a : Opnd) (b : Opnd) : Statement (.mmx h m d a b) := fun _ =>
  ⟨hdr_small h 0x243 _ _ _ _ _ _ (by decide) (by have h0 := m.encM_lt; omega) d.enc_lt a.enc_lt b.enc_lt (by have h0 := m.encC_lt; omega) (by decide), (rfl : assigned 0x243 = true)⟩
theorem mmxs (h : Hdr) (m : MMod) (s14 : Bool) (d : Opnd) (a : Opnd) (b : Opnd) : Statement (.mmxs h m s14 d a b) := fun _ =>
  ⟨hdr_small h 0x244 _ _ _ _ _ _ (by decide) (by have h0 := bit_lt s14; have h1 := m.encM_lt; omega) d.enc_lt a.enc_lt b.enc_lt (by have h0 := m.encC_lt; omega) (by decide), (rfl : assigned 0x244 = true)⟩
theorem mmxd (h : Hdr) (m : MMod) (full : Bool) (sr : Fin 16) (d : Opnd) (a : Opnd) (b : Opnd) : Statement (.mmxd h m full sr d a b) := fun _ =>
  ⟨hdr_small h 0x245 _ _ _ _ _ _ (by decide) (by have h0 := bit_lt full; have h1 := m.encM_lt; omega) d.enc_lt a.enc_lt b.enc_lt (by have h0 := m.encC_lt; omega) (by decide), (rfl : assigned 0x245 = true)⟩
theorem mzero (h : Hdr) (d : Opnd) : Statement (.mzero h d) := fun _ =>
  ⟨hdr_small h 0x246 _ _ _ _ _ _ (by decide) (by decide) d.enc_lt (by decide) (by decide) (by decide) (by decide), (rfl : assigned 0x246 = true)⟩
theorem mdrn (h : Hdr) (bf : Bool) (m : DMod) (d : Opnd) (a : Opnd) : Statement (.mdrn h bf m d a) := fun _ =>
  ⟨hdr_small h 0x247 _ _ _ _ _ _ (by decide) (by cases bf <;> simp <;> omega) d.enc_lt a.enc_lt (by decide) (by have h0 := m.encC_lt; omega) (by decide), (rfl : assigned 0x247 = true)⟩
theorem mdrq (h : Hdr) (f : Fmt) (m : DMod) (d : Opnd) (a : Opnd) (b : Opnd) : Statement (.mdrq h f m d a b) := fun _ =>
  ⟨hdr_small h 0x248 _ _ _ _ _ _ (by decide) (by have h0 := codeOf_fmts f; omega) d.enc_lt a.enc_lt b.enc_lt (by have h0 := m.encC_lt; omega) (by decide), (rfl : assigned 0x248 = true)⟩
theorem mdrx (h : Hdr) (m : DMod) (d : Opnd) (a : Opnd) (b : Opnd) : Statement (.mdrx h m d a b) := fun _ =>
  ⟨hdr_small h 0x249 _ _ _ _ _ _ (by decide) (by omega) d.enc_lt a.enc_lt b.enc_lt (by have h0 := m.encC_lt; omega) (by decide), (rfl : assigned 0x249 = true)⟩
theorem mslotInv (h : Hdr) (a : Opnd) : Statement (.mslotInv h a) := fun _ =>
  ⟨hdr_small h 0x24A _ _ _ _ _ _ (by decide) (by decide) (by decide) a.enc_lt (by decide) (by decide) (by decide), (rfl : assigned 0x24A = true)⟩
theorem mslotNint (h : Hdr) (a : Opnd) (b : Opnd) : Statement (.mslotNint h a b) := fun _ =>
  ⟨hdr_small h 0x24A _ _ _ _ _ _ (by decide) (by decide) (by decide) a.enc_lt b.enc_lt (by decide) (by decide), (rfl : assigned 0x24A = true)⟩
theorem mwait (h : Hdr) : Statement (.mwait h) := fun _ =>
  ⟨hdr_small h 0x24B _ _ _ _ _ _ (by decide) (by decide) (by decide) (by decide) (by decide) (by decide) (by decide), (rfl : assigned 0x24B = true)⟩
theorem cpG2s (h : Hdr) (q : Fin 4) (d : Opnd) (a : Opnd) (b : Opnd) : Statement (.cpG2s h q d a b) := fun _ =>
  ⟨hdr_small h 0x280 _ _ _ _ _ _ (by decide) (by omega) d.enc_lt a.enc_lt b.enc_lt (by decide) (by decide), (rfl : assigned 0x280 = true)⟩
theorem cpS2g (h : Hdr) (q : Fin 4) (d : Opnd) (a : Opnd) (b : Opnd) : Statement (.cpS2g h q d a b) := fun _ =>
  ⟨hdr_small h 0x280 _ _ _ _ _ _ (by decide) (by omega) d.enc_lt a.enc_lt b.enc_lt (by decide) (by decide), (rfl : assigned 0x280 = true)⟩
theorem cpg (h : Hdr) (q : Fin 4) (d : Opnd) (a : Opnd) (b : Opnd) (cc : Opnd) : Statement (.cpg h q d a b cc) := fun _ =>
  ⟨hdr_small h 0x281 _ _ _ _ _ _ (by decide) (by omega) d.enc_lt a.enc_lt b.enc_lt (by have h0 := cc.enc_lt; omega) (by decide), (rfl : assigned 0x281 = true)⟩
theorem cpw (h : Hdr) (a : Opnd) (b : Opnd) (disp : Word) : Statement (.cpw h a b disp) := fun _ =>
  ⟨hdr_small h 0x282 _ _ _ _ _ _ (by decide) (by decide) (by decide) a.enc_lt b.enc_lt disp.isLt (by decide), (rfl : assigned 0x282 = true)⟩
theorem cpy (h : Hdr) (a : Opnd) (b : Opnd) (off : Word) : Statement (.cpy h a b off) := fun _ =>
  ⟨hdr_small h 0x283 _ _ _ _ _ _ (by decide) (by decide) (by decide) a.enc_lt b.enc_lt off.isLt (by decide), (rfl : assigned 0x283 = true)⟩
theorem qfence (h : Hdr) (q : BitVec 6) : Statement (.qfence h q) := fun _ =>
  ⟨hdr_small h 0x284 _ _ _ _ _ _ (by decide) (by have h0 := q.isLt; omega) (by decide) (by decide) (by decide) (by decide) (by decide), (rfl : assigned 0x284 = true)⟩
theorem qwait (h : Hdr) (q : BitVec 6) : Statement (.qwait h q) := fun _ =>
  ⟨hdr_small h 0x285 _ _ _ _ _ _ (by decide) (by have h0 := q.isLt; omega) (by decide) (by decide) (by decide) (by decide) (by decide), (rfl : assigned 0x285 = true)⟩
theorem trec (h : Hdr) (u : Use) (d : Opnd) (a : Opnd) : Statement (.trec h u d a) := fun _ =>
  ⟨hdr_small h 0x286 _ _ _ _ _ _ (by decide) (by have h0 : codeOf u uses ≤ 5 := codeOf_le _ _; omega) d.enc_lt a.enc_lt (by decide) (by decide) (by decide), (rfl : assigned 0x286 = true)⟩
theorem lnch (h : Hdr) (a : Opnd) : Statement (.lnch h a) := fun _ =>
  ⟨hdr_small h 0x287 _ _ _ _ _ _ (by decide) (by decide) (by decide) a.enc_lt (by decide) (by decide) (by decide), (rfl : assigned 0x287 = true)⟩
theorem srd (h : Hdr) (w : Bool) (d : Opnd) (r : SReg) (e : Option Opnd) : Statement (.srd h w d r e) := fun _ =>
  ⟨hdr_small h 0x2C0 _ _ _ _ _ _ (by decide) (by have h0 := bit_lt w; omega) d.enc_lt (Opnd.enc_lt _) (encElem_lt _) (by decide) (by decide), (rfl : assigned 0x2C0 = true)⟩
theorem swr (h : Hdr) (w : Bool) (r : SReg) (a : Opnd) (e : Option Opnd) (c : Word) : Statement (.swr h w r a e c) := fun _ =>
  ⟨hdr_small h 0x2C1 _ _ _ _ _ _ (by decide) (by have h0 := bit_lt w; omega) (Opnd.enc_lt _) a.enc_lt (encElem_lt _) c.isLt (by decide), (rfl : assigned 0x2C1 = true)⟩
theorem trap (h : Hdr) (n : BitVec 16) : Statement (.trap h n) := fun _ =>
  ⟨hdr_small h 0x2C2 _ _ _ _ _ _ (by decide) (by decide) (by decide) (by decide) (by decide) (by have h0 := n.isLt; omega) (by decide), (rfl : assigned 0x2C2 = true)⟩
theorem eret (h : Hdr) : Statement (.eret h) := fun _ =>
  ⟨hdr_small h 0x2C3 _ _ _ _ _ _ (by decide) (by decide) (by decide) (by decide) (by decide) (by decide) (by decide), (rfl : assigned 0x2C3 = true)⟩
theorem sqkill (h : Hdr) : Statement (.sqkill h) := fun _ =>
  ⟨hdr_small h 0x2C4 _ _ _ _ _ _ (by decide) (by decide) (by decide) (by decide) (by decide) (by decide) (by decide), (rfl : assigned 0x2C4 = true)⟩
theorem tmkill (h : Hdr) : Statement (.tmkill h) := fun _ =>
  ⟨hdr_small h 0x2C5 _ _ _ _ _ _ (by decide) (by decide) (by decide) (by decide) (by decide) (by decide) (by decide), (rfl : assigned 0x2C5 = true)⟩
theorem relax (h : Hdr) (n : BitVec 12) : Statement (.relax h n) := fun _ =>
  ⟨hdr_small h 0x2C6 _ _ _ _ _ _ (by decide) (by decide) (by decide) (by decide) (by decide) (by have h0 := n.isLt; omega) (by decide), (rfl : assigned 0x2C6 = true)⟩
theorem sleep (h : Hdr) (a : Opnd) (c : Word) : Statement (.sleep h a c) := fun _ =>
  ⟨hdr_small h 0x2C7 _ _ _ _ _ _ (by decide) (by decide) (by decide) a.enc_lt (by decide) c.isLt (by decide), (rfl : assigned 0x2C7 = true)⟩
theorem brkpt (h : Hdr) (n : BitVec 16) : Statement (.brkpt h n) := fun _ =>
  ⟨hdr_small h 0x2C8 _ _ _ _ _ _ (by decide) (by decide) (by decide) (by decide) (by decide) (by have h0 := n.isLt; omega) (by decide), (rfl : assigned 0x2C8 = true)⟩
theorem smark (h : Hdr) (n : BitVec 16) : Statement (.smark h n) := fun _ =>
  ⟨hdr_small h 0x2C9 _ _ _ _ _ _ (by decide) (by decide) (by decide) (by decide) (by decide) (by have h0 := n.isLt; omega) (by decide), (rfl : assigned 0x2C9 = true)⟩
theorem icinv (h : Hdr) (r : Fin 4) : Statement (.icinv h r) := fun _ =>
  ⟨hdr_small h 0x2CA _ _ _ _ _ _ (by decide) (by omega) (by decide) (by decide) (by decide) (by decide) (by decide), (rfl : assigned 0x2CA = true)⟩
theorem twait (h : Hdr) (a : Opnd) (c : Word) : Statement (.twait h a c) := fun _ =>
  ⟨hdr_small h 0x2CB _ _ _ _ _ _ (by decide) (by decide) (by decide) a.enc_lt (by decide) c.isLt (by decide), (rfl : assigned 0x2CB = true)⟩
theorem resultLand (x0 : Nat) (x1 : Nat) : Statement (.resultLand x0 x1) := nofun
theorem relaxExpire (x0 : Nat) : Statement (.relaxExpire x0) := nofun
theorem yieldExpire (x0 : Nat) : Statement (.yieldExpire x0) := nofun
theorem translationProbe (x0 : Nat) : Statement (.translationProbe x0) := nofun
theorem pageWalkStep (x0 : Nat) : Statement (.pageWalkStep x0) := nofun
theorem adUpdate (x0 : Nat) : Statement (.adUpdate x0) := nofun
theorem walkAheadTranslate (x0 : Nat) (x1 : Nat) : Statement (.walkAheadTranslate x0 x1) := nofun
theorem shootdownComplete (x0 : Nat) : Statement (.shootdownComplete x0) := nofun
theorem xfqRecordWrite (x0 : Nat) : Statement (.xfqRecordWrite x0) := nofun
theorem depart (x0 : Nat) : Statement (.depart x0) := nofun
theorem departureBufferGrant (x0 : Nat) : Statement (.departureBufferGrant x0) := nofun
theorem frameInject (x0 : Nat) : Statement (.frameInject x0) := nofun
theorem c0LimiterRefill (x0 : Nat) (x1 : Nat) (x2 : Nat) : Statement (.c0LimiterRefill x0 x1 x2) := nofun
theorem flush (x0 : Nat) : Statement (.flush x0) := nofun
theorem postedRequest (x0 : Nat) : Statement (.postedRequest x0) := nofun
theorem ackTimer (x0 : Nat) (x1 : Nat) : Statement (.ackTimer x0 x1) := nofun
theorem acknowledgement (x0 : Nat) : Statement (.acknowledgement x0) := nofun
theorem frameArrival (x0 : Nat) : Statement (.frameArrival x0) := nofun
theorem frameDispatch (x0 : Nat) : Statement (.frameDispatch x0) := nofun
theorem frameUnpark (x0 : Nat) : Statement (.frameUnpark x0) := nofun
theorem frameFetch (x0 : Nat) : Statement (.frameFetch x0) := nofun
theorem frameFetchData (x0 : Nat) : Statement (.frameFetchData x0) := nofun
theorem growthRequest (x0 : Nat) : Statement (.growthRequest x0) := nofun
theorem squadCreate (x0 : Nat) (x1 : Nat) : Statement (.squadCreate x0 x1) := nofun
theorem squadStart (x0 : Nat) : Statement (.squadStart x0) := nofun
theorem joinRequest (x0 : Nat) : Statement (.joinRequest x0) := nofun
theorem joinReply (x0 : Nat) : Statement (.joinReply x0) := nofun
theorem huddleFinalMask (x0 : Nat) : Statement (.huddleFinalMask x0) := nofun
theorem exitNotice (x0 : Nat) : Statement (.exitNotice x0) := nofun
theorem barrierArrival (x0 : Nat) : Statement (.barrierArrival x0) := nofun
theorem stageGo (x0 : Nat) : Statement (.stageGo x0) := nofun
theorem stageWait (x0 : Nat) : Statement (.stageWait x0) := nofun
theorem partWake (x0 : Nat) : Statement (.partWake x0) := nofun
theorem latchArrival (x0 : Nat) : Statement (.latchArrival x0) := nofun
theorem commandAppend (x0 : Nat) : Statement (.commandAppend x0) := nofun
theorem copyBegin (x0 : Nat) (x1 : Nat) : Statement (.copyBegin x0 x1) := nofun
theorem chunkComplete (x0 : Nat) (x1 : Nat) (x2 : Nat) : Statement (.chunkComplete x0 x1 x2) := nofun
theorem regionFillBegin (x0 : Nat) : Statement (.regionFillBegin x0) := nofun
theorem regionFillEnd (x0 : Nat) : Statement (.regionFillEnd x0) := nofun
theorem regionFree (x0 : Nat) : Statement (.regionFree x0) := nofun
theorem productBegin (x0 : Nat) : Statement (.productBegin x0) := nofun
theorem deltaInvocation (x0 : Nat) : Statement (.deltaInvocation x0) := nofun
theorem tileZero (x0 : Nat) : Statement (.tileZero x0) := nofun
theorem slotInvalidate (x0 : Nat) : Statement (.slotInvalidate x0) := nofun
theorem slotNintWrite (x0 : Nat) : Statement (.slotNintWrite x0) := nofun
theorem drainBegin (x0 : Nat) : Statement (.drainBegin x0) := nofun
theorem joinEntry (x0 : Nat) (x1 : Nat) : Statement (.joinEntry x0 x1) := nofun
theorem entryCompletion (x0 : Nat) (x1 : Nat) : Statement (.entryCompletion x0 x1) := nofun
theorem cpyHoldRelease (x0 : Nat) : Statement (.cpyHoldRelease x0) := nofun
theorem rscmdComplete (x0 : Nat) : Statement (.rscmdComplete x0) := nofun
theorem faultRecordArrival (x0 : Nat) : Statement (.faultRecordArrival x0) := nofun
theorem faultNotice (x0 : Nat) : Statement (.faultNotice x0) := nofun
theorem storeFaultDeferred (x0 : Nat) : Statement (.storeFaultDeferred x0) := nofun
theorem deferralNotice (x0 : Nat) : Statement (.deferralNotice x0) := nofun
theorem killDelivery (x0 : Nat) : Statement (.killDelivery x0) := nofun
theorem teamRestart (x0 : Nat) : Statement (.teamRestart x0) := nofun
theorem restartableClear (x0 : Nat) : Statement (.restartableClear x0) := nofun
theorem freeze (x0 : Nat) : Statement (.freeze x0) := nofun
theorem freezeTimeout (x0 : Nat) : Statement (.freezeTimeout x0) := nofun
theorem sleepWake (x0 : Nat) : Statement (.sleepWake x0) := nofun
theorem twaitWake (x0 : Nat) : Statement (.twaitWake x0) := nofun
theorem waitEventPoll (x0 : Nat) : Statement (.waitEventPoll x0) := nofun
theorem launchAdmit (x0 : Nat) : Statement (.launchAdmit x0) := nofun
theorem teamPlace (x0 : Nat) (x1 : Nat) (x2 : Nat) : Statement (.teamPlace x0 x1 x2) := nofun
theorem launchComplete (x0 : Nat) : Statement (.launchComplete x0) := nofun
theorem remoteSend (x0 : Nat) : Statement (.remoteSend x0) := nofun
theorem remoteRetransmit (x0 : Nat) : Statement (.remoteRetransmit x0) := nofun
theorem remoteTimeout (x0 : Nat) : Statement (.remoteTimeout x0) := nofun
theorem d2hPost (x0 : Nat) : Statement (.d2hPost x0) := nofun
theorem faultresp (x0 : Nat) (x1 : Nat) (x2 : Nat) (x3 : Bool) : Statement (.faultresp x0 x1 x2 x3) := nofun
theorem teardown (x0 : Nat) : Statement (.teardown x0) := nofun
theorem tickMatchFire (x0 : Nat) : Statement (.tickMatchFire x0) := nofun
theorem sampleCopy (x0 : Nat) : Statement (.sampleCopy x0) := nofun
theorem checkpoint (x0 : Nat) : Statement (.checkpoint x0) := nofun
theorem replayDiverged (x0 : Nat) : Statement (.replayDiverged x0) := nofun
theorem rerun (x0 : Nat) : Statement (.rerun x0) := nofun
theorem instructionFetch (x0 : Nat) : Statement (.instructionFetch x0) := nofun
theorem shootdownPage (x0 : Nat) (x1 : Nat) (x2 : Nat) : Statement (.shootdownPage x0 x1 x2) := nofun
theorem shootdownAll (x0 : Nat) (x1 : Nat) : Statement (.shootdownAll x0 x1) := nofun
theorem sdcmdInvalid (x0 : Nat) (x1 : Word) : Statement (.sdcmdInvalid x0 x1) := nofun
theorem xfqptrHeadWrite (x0 : Nat) (x1 : Nat) : Statement (.xfqptrHeadWrite x0 x1) := nofun
theorem xfrespRetry (x0 : Nat) (x1 : Nat) : Statement (.xfrespRetry x0 x1) := nofun
theorem xfrespDeny (x0 : Nat) (x1 : Nat) : Statement (.xfrespDeny x0 x1) := nofun
theorem flowStop (x0 : Ends) (x1 : Nat) (x2 : Nat) : Statement (.flowStop x0 x1 x2) := nofun
theorem flowGo (x0 : Ends) (x1 : Nat) (x2 : Nat) : Statement (.flowGo x0 x1 x2) := nofun
theorem macScrub (x0 : Nat) (x1 : Nat) (x2 : Nat) : Statement (.macScrub x0 x1 x2) := nofun
theorem rscmdOne (x0 : Nat) (x1 : Nat) : Statement (.rscmdOne x0 x1) := nofun
theorem rscmdPart (x0 : Nat) (x1 : Nat) : Statement (.rscmdPart x0 x1) := nofun
theorem rscmdKey (x0 : Nat) (x1 : Nat) (x2 : Nat) : Statement (.rscmdKey x0 x1 x2) := nofun
theorem rscmdAll (x0 : Nat) : Statement (.rscmdAll x0) := nofun
theorem rscmdInvalid (x0 : Nat) (x1 : Nat) : Statement (.rscmdInvalid x0 x1) := nofun
theorem contextLoss (x0 : Bool) (x1 : Nat) : Statement (.contextLoss x0 x1) := nofun
theorem resume (x0 : Nat) (x1 : Nat) : Statement (.resume x0 x1) := nofun
theorem doorbell (x0 : Nat) (x1 : Nat) (x2 : Word) (x3 : Bool) : Statement (.doorbell x0 x1 x2 x3) := nofun
theorem stpost (x0 : Nat) (x1 : Nat) : Statement (.stpost x0 x1) := nofun
theorem remoteReply (x0 : Nat) (x1 : Dgram) : Statement (.remoteReply x0 x1) := nofun
theorem remoteRequestReceive (x0 : Nat) (x1 : Dgram) : Statement (.remoteRequestReceive x0 x1) := nofun
theorem rateIncrease (x0 : Nat) (x1 : BitVec 128) (x2 : Bool) : Statement (.rateIncrease x0 x1 x2) := nofun
theorem ptpSync (x0 : Int) : Statement (.ptpSync x0) := nofun
theorem linkDown (x0 : Nat) (x1 : Nat) : Statement (.linkDown x0 x1) := nofun
theorem domainForm (x0 : List Nat) : Statement (.domainForm x0) := nofun
theorem mailboxSend (x0 : Nat) : Statement (.mailboxSend x0) := nofun
theorem windowWrite (x0 : Nat) (x1 : Nat) (x2 : List Byte) : Statement (.windowWrite x0 x1 x2) := nofun
theorem windowRead (x0 : Nat) (x1 : Nat) (x2 : Nat) : Statement (.windowRead x0 x1 x2) := nofun
theorem firmwareImageWrite (x0 : Bool) (x1 : Nat) (x2 : Nat) (x3 : List Byte) : Statement (.firmwareImageWrite x0 x1 x2 x3) := nofun
theorem faultServiceTimeout : Statement (.faultServiceTimeout) := nofun
theorem create : Statement (.create) := nofun
theorem attest (x0 : Nat) (x1 : List Byte) : Statement (.attest x0 x1) := nofun
theorem keyload (x0 : Nat) (x1 : Nat) (x2 : List Byte) : Statement (.keyload x0 x1 x2) := nofun
theorem revoke (x0 : Nat) (x1 : Nat) : Statement (.revoke x0 x1) := nofun
theorem profring (x0 : Nat) (x1 : DWord) (x2 : Nat) : Statement (.profring x0 x1 x2) := nofun
theorem replay (x0 : Nat) (x1 : Nat) (x2 : Nat) : Statement (.replay x0 x1 x2) := nofun
theorem hold (x0 : Nat) (x1 : List DWord) : Statement (.hold x0 x1) := nofun
theorem power (x0 : Nat) (x1 : Nat) (x2 : Nat) : Statement (.power x0 x1 x2) := nofun
theorem breakset (x0 : Nat) (x1 : Nat) (x2 : Word) (x3 : Word) (x4 : Bool) : Statement (.breakset x0 x1 x2 x3 x4) := nofun
theorem tickset (x0 : Nat) (x1 : DWord) (x2 : Word) (x3 : Bool) : Statement (.tickset x0 x1 x2 x3) := nofun
theorem stopctlArm (x0 : DWord) : Statement (.stopctlArm x0) := nofun
theorem stopctlStopnow : Statement (.stopctlStopnow) := nofun
theorem stopctlRelease : Statement (.stopctlRelease) := nofun
theorem stopctlSteprel (x0 : Bool) : Statement (.stopctlSteprel x0) := nofun
theorem stoplist (x0 : Nat) (x1 : Nat) : Statement (.stoplist x0 x1) := nofun
theorem dbgStep (x0 : Nat) (x1 : Word) (x2 : BitVec 48) (x3 : Nat) (x4 : Nat) : Statement (.dbgStep x0 x1 x2 x3 x4) := nofun
theorem dbgContinue (x0 : Nat) (x1 : Word) (x2 : Option (BitVec 48 × Nat × Nat)) : Statement (.dbgContinue x0 x1 x2) := nofun
theorem packageStop : Statement (.packageStop) := nofun
theorem scandataWrite (x0 : Bool) : Statement (.scandataWrite x0) := nofun
theorem replayRun (x0 : Nat) (x1 : Nat) : Statement (.replayRun x0 x1) := nofun
theorem capture (x0 : Nat) : Statement (.capture x0) := nofun
theorem kcmdLoad (x0 : Nat) (x1 : Nat) (x2 : Nat) (x3 : Nat) : Statement (.kcmdLoad x0 x1 x2 x3) := nofun
theorem kcmdRevoke (x0 : Nat) (x1 : Nat) (x2 : Nat) (x3 : Nat) : Statement (.kcmdRevoke x0 x1 x2 x3) := nofun
theorem kcmdInvalid (x0 : Nat) (x1 : Nat) (x2 : Nat) (x3 : Nat) : Statement (.kcmdInvalid x0 x1 x2 x3) := nofun
theorem powerOn : Statement (.powerOn) := nofun
theorem pf0Reset : Statement (.pf0Reset) := nofun
theorem fwctlGo : Statement (.fwctlGo) := nofun
theorem powerUpdate (x0 : Nat) (x1 : Nat) (x2 : Nat) : Statement (.powerUpdate x0 x1 x2) := nofun
theorem errlostRead : Statement (.errlostRead) := nofun
theorem smplostRead (x0 : Nat) : Statement (.smplostRead x0) := nofun
theorem bridgeAccess (x0 : Nat) (x1 : Nat) (x2 : Bool) (x3 : DWord) : Statement (.bridgeAccess x0 x1 x2 x3) := nofun
theorem registerWrite (x0 : Bool) (x1 : Nat) (x2 : Nat) (x3 : Nat) (x4 : DWord) : Statement (.registerWrite x0 x1 x2 x3 x4) := nofun
theorem tick : Statement (.tick) := nofun
theorem dramScrub (x0 : Nat) (x1 : Bool) : Statement (.dramScrub x0 x1) := nofun
theorem linkRetransmission (x0 : Nat) (x1 : Nat) : Statement (.linkRetransmission x0 x1) := nofun
theorem bootStepEnd (x0 : Bool) (x1 : Nat) : Statement (.bootStepEnd x0 x1) := nofun

end Sys2Proof.Laws.Enc
end

