-- ==== Sys2Proof/Tests/Slice0.lean ====
section
/-! SUPPORT. Tests: words written out from the encoding tables, ill-formed terms, one-step results, and for every statement
with hypotheses a state and operands that meet them. -/

namespace Sys2Proof.Tests

open Sys2Proof.Machine Sys2Proof.Claims

set_option Elab.async false

/-! ### Samples -/

def h0 : Hdr := ⟨false, 0, false, false, 0⟩

/-- Lane 0 of vector registers by number. -/
def regs (xs : List (Nat × Word)) : Store Word := xs.foldl (fun m x => Store.set 0 m (vkey x.1 0) x.2) []

/-- A register pair's value in lane 0. -/
def pair (n x : Nat) : List (Nat × Word) := [(n, BitVec.ofNat 32 x), (n + 1, BitVec.ofNat 32 (x / 2 ^ 32))]

/-- The machine with one READY squad, part 1, changed as asked. -/
def one (f : Part → Part) : State :=
  let s := State.reset.withFetchWord 96 0
  { s with
    cur := 1
    parts := [(1, f placedPart)] }

/-- The squad with A, B and C in v4, v6 and v8 of lane 0, and their high words next to them. -/
def abc (a b c : Nat) : State :=
  one (fun p => { p with
    vregs := regs (pair 4 a ++ pair 6 b ++ pair 8 c)
    sregs := Store.set 0 [] 1 5 })

def f3 : F3 := ⟨.v 2, .v 4, .v 6, 0⟩
def f2 : F2 := ⟨.v 2, .v 4, 0⟩
def f4 : F4 := ⟨.v 2, .v 4, .v 6, .v 8⟩

/-- What lane 0 of v2 and v3 holds after the instruction, written or pending. -/
def v2After (i : Instr) (s : State) : Option Nat :=
  match exec i s with
  | .next t =>
    let p := t.part 1
    let v := fun n => ((p.pend.findSome? (fun e => e.valAt n 0)).getD (p.word n 0)).toNat
    some (v 2 + 2 ^ 32 * v 3)
  | _ => none


/-! ### One written word of every instruction -/

/-- Words of class 0x0 (R205 to R213). -/
def words0 : List (Nat × Instr) :=
  [ (0b0000_000000_0_000_0_0_000000_0000000000_0000000000_0000000000_0000000000_00_00000000000000000000000000000000,
      .nop h0),
    (0b0000_000001_1_011_0_1_000000_0000000000_0000000101_0000000010_1010000000_00_00000000000000000000000100101100,
      .add ⟨true, 3, false, true, 0⟩ ⟨⟨.w32, false⟩, false⟩ ⟨.v 5, .v 2, .i false, 300⟩),
    (0b0000_000010_0_000_0_0_000000_0000001001_0010000001_0010000010_1100000111_00_00000000000000000000000000000000,
      .sub h0 ⟨⟨.w8, false⟩, true⟩ ⟨.s 1, .s 2, .k 7, 0⟩),
    (0b0000_000011_0_000_0_0_000000_0000000000_0000000010_0000000000_0000000001_00_00000000000000000000000100000000,
      .addc h0 ⟨.v 2, .v 0, .v 1, .p 0⟩),
    (0b0000_000100_0_000_0_0_000000_0000000000_0000000010_0010000011_1100000001_00_00000000000000000000000100000110,
      .subb h0 ⟨.v 2, .s 3, .k 1, .p 6⟩),
    (0b0000_000101_0_000_0_0_000000_0000000110_0000000001_0000000010_0000000011_00_00000000000000000000000000000000,
      .mul h0 ⟨⟨.w16, true⟩, false⟩ ⟨.v 1, .v 2, .v 3, 0⟩),
    (0b0000_000110_0_000_0_0_000000_0000000100_0000000001_0000000010_0000000011_00_00000000000000000000000000000000,
      .mulh h0 ⟨⟨.w32, true⟩, false⟩ ⟨.v 1, .v 2, .v 3, 0⟩),
    (0b0000_000111_0_000_0_0_000000_0000001100_0000000001_0000000010_0000000011_00_00000000000000000000000000000100,
      .mad h0 ⟨⟨.w32, true⟩, true⟩ ⟨.v 1, .v 2, .v 3, .v 4⟩),
    (0b0000_001000_0_000_0_0_000000_0000000100_0000000100_0000000001_1100000011_00_00000000000000000000000000000110,
      .madw h0 true ⟨.v 4, .v 1, .k 3, .v 6⟩),
    (0b0000_001001_0_000_0_0_000000_0000000111_0000000010_0000000100_1010000001_00_11111111111111111111111111111111,
      .div h0 ⟨⟨.w64, true⟩, false⟩ ⟨.v 2, .v 4, .i true, 0xFFFFFFFF⟩),
    (0b0000_001010_0_000_0_0_000000_0000000101_0000000010_0000000100_0000000110_00_00000000000000000000000000000000,
      .rem h0 ⟨⟨.w8, true⟩, false⟩ ⟨.v 2, .v 4, .v 6, 0⟩),
    (0b0000_001011_0_000_0_0_000000_0000001000_0000000010_0000000100_0000000000_00_00000000000000000000000000000000,
      .neg h0 ⟨⟨.w32, false⟩, true⟩ ⟨.v 2, .v 4, 0⟩),
    (0b0000_001100_0_000_0_0_000000_0000000110_0000000010_0000000100_0000000000_00_00000000000000000000000000000000,
      .abs h0 ⟨⟨.w16, true⟩, false⟩ ⟨.v 2, .v 4, 0⟩),
    (0b0000_001101_0_000_0_0_000000_0000000100_0000000010_0000000100_1101111111_00_00000000000000000000000000000000,
      .min h0 ⟨⟨.w32, true⟩, false⟩ ⟨.v 2, .v 4, .k 127, 0⟩),
    (0b0000_001110_0_000_0_0_000000_0000000010_0000000010_0000000100_1100000000_00_00000000000000000000000000000000,
      .max h0 ⟨⟨.w16, false⟩, false⟩ ⟨.v 2, .v 4, .k 0, 0⟩),
    (0b0000_001111_0_000_0_0_000000_0000000001_0000000010_0000000100_0000000110_00_00000000000000000000001101100100,
      .sad h0 ⟨⟨.w8, false⟩, false⟩ ⟨.v 2, .v 4, .v 6, .k 100⟩),
    (0b0000_010000_0_000_0_0_000000_0000001111_0000000010_0000000100_0010001001_00_00000000000000000000000000000000,
      .lea h0 7 true ⟨.v 2, .v 4, .s 9, 0⟩),
    (0b0000_010001_0_000_0_0_000000_0000001011_0000011110_0000000000_0000000010_00_00000000000000000000000000000000,
      .add64 h0 ⟨⟨.w64, false⟩, true⟩ ⟨.v 30, .v 0, .v 2, 0⟩),
    (0b0000_010010_0_000_0_0_000000_0000000111_0010001110_0010000010_1010000000_00_00000000000000000000000000000101,
      .sub64 h0 ⟨⟨.w64, true⟩, false⟩ ⟨.s 14, .s 2, .i false, 5⟩),
    (0b0000_010011_0_000_0_0_000000_0000000011_0000000110_0010000100_0000000000_00_00000000000000000000000000000000,
      .mov h0 true ⟨.v 6, .s 4, 0⟩),
    (0b0000_010100_0_000_0_0_000000_0000000000_0000000000_1010000000_1100000100_00_00000000000000000000001111101000,
      .movi h0 ⟨.v 0, .i false, .k 4, 1000⟩),
    (0b0000_010101_0_000_0_0_000000_0000000001_0000000011_1010000000_0000000000_00_00000000000000000001001000110100,
      .movw h0 true ⟨.v 3, .i false, 0x1234⟩),
    (0b0000_010110_0_000_0_0_000000_0000000000_0000000011_0000000100_1100001001_00_00000000000000000000000100000010,
      .sel h0 false ⟨.v 3, .v 4, .k 9, .p 2⟩),
    (0b0000_010111_0_000_0_0_000000_0000000100_0000000011_0000000100_1100000000_00_00000000000000000000001100001001,
      .iclamp h0 ⟨⟨.w32, true⟩, false⟩ ⟨.v 3, .v 4, .k 0, .k 9⟩),
    (0b0000_011000_0_000_0_0_000000_0000001001_0000000011_0000000100_0000000101_00_00000000000000000000000000000110,
      .dot4 h0 true false true ⟨.v 3, .v 4, .v 5, .v 6⟩),
    (0b0000_011001_0_000_0_0_000000_0000000010_0000000011_0000000100_0000000101_00_00000000000000000000000000000110,
      .dot2 h0 false true false ⟨.v 3, .v 4, .v 5, .v 6⟩) ]

/-- Words of class 0x1 (R214 to R218). -/
def words1 : List (Nat × Instr) :=
  [ (0b0001_000000_0_000_0_0_000000_0000000011_0000000010_0000000100_0000000110_00_00000000000000000000000000000000,
      .andB h0 true ⟨.v 2, .v 4, .v 6, 0⟩),
    (0b0001_000001_0_000_0_0_000000_0000000000_0000000010_0000000100_0000000110_00_00000000000000000000000000000000,
      .orB h0 false ⟨.v 2, .v 4, .v 6, 0⟩),
    (0b0001_000010_0_000_0_0_000000_0000000011_0000000010_0000000100_0000000110_00_00000000000000000000000000000000,
      .xorB h0 true ⟨.v 2, .v 4, .v 6, 0⟩),
    (0b0001_000011_0_000_0_0_000000_0000000000_0000000010_0000000100_0000000000_00_00000000000000000000000000000000,
      .notB h0 false ⟨.v 2, .v 4, 0⟩),
    (0b0001_000100_0_000_0_0_000000_0000000000_0010000010_0010000100_1010000000_00_00000000000000000000000011111111,
      .andn h0 false ⟨.s 2, .s 4, .i false, 0xFF⟩),
    (0b0001_000101_0_000_0_0_000000_0000000011_0000000010_0000000100_1010000001_00_10000000000000000000000000000000,
      .orn h0 true ⟨.v 2, .v 4, .i true, 0x80000000⟩),
    (0b0001_000110_0_000_0_0_000000_0000100010_0000000001_0000000010_0000000011_00_00000000000000000000001100000000,
      .bfn3 h0 0x22 ⟨.v 1, .v 2, .v 3, .k 0⟩),
    (0b0001_000111_0_000_0_0_000000_0000000000_0000000000_0000000010_1100000000_00_00000000000000000000000000000000,
      .shl h0 ⟨.v 0, .v 2, .k 0, 0⟩),
    (0b0001_001000_0_000_0_0_000000_0000000000_0000000010_0000000010_1100000001_00_00000000000000000000000000000000,
      .shr h0 ⟨.v 2, .v 2, .k 1, 0⟩),
    (0b0001_001001_0_000_0_0_000000_0000000000_0000000100_0000000010_1100000010_00_00000000000000000000000000000000,
      .sar h0 ⟨.v 4, .v 2, .k 2, 0⟩),
    (0b0001_001010_0_000_0_0_000000_0000000000_0000000110_0000000010_1100000011_00_00000000000000000000000000000000,
      .rotl h0 ⟨.v 6, .v 2, .k 3, 0⟩),
    (0b0001_001011_0_000_0_0_000000_0000000000_0000001000_0000000010_1100000100_00_00000000000000000000000000000000,
      .rotr h0 ⟨.v 8, .v 2, .k 4, 0⟩),
    (0b0001_001100_0_000_0_0_000000_0000000000_0000001010_0000000010_1100000101_00_00000000000000000000000000000000,
      .shl64 h0 ⟨.v 10, .v 2, .k 5, 0⟩),
    (0b0001_001101_0_000_0_0_000000_0000000000_0000001100_0000000010_1100000110_00_00000000000000000000000000000000,
      .shr64 h0 ⟨.v 12, .v 2, .k 6, 0⟩),
    (0b0001_001110_0_000_0_0_000000_0000000000_0000001110_0000000010_1100000111_00_00000000000000000000000000000000,
      .sar64 h0 ⟨.v 14, .v 2, .k 7, 0⟩),
    (0b0001_001111_0_000_0_0_000000_0000000011_0000000011_0000000100_0000000000_00_00000000000000000000000000000000,
      .clz h0 true ⟨.v 3, .v 4, 0⟩),
    (0b0001_010000_0_000_0_0_000000_0000000000_0000000011_0000000101_0000000000_00_00000000000000000000000000000000,
      .ctz h0 false ⟨.v 3, .v 5, 0⟩),
    (0b0001_010001_0_000_0_0_000000_0000000011_0010000011_0010000100_0000000000_00_00000000000000000000000000000000,
      .popc h0 true ⟨.s 3, .s 4, 0⟩),
    (0b0001_010010_0_000_0_0_000000_0000000011_0000000110_0000000100_0000000000_00_00000000000000000000000000000000,
      .brev h0 true ⟨.v 6, .v 4, 0⟩),
    (0b0001_010011_0_000_0_0_000000_0000000100_0000000110_0000000100_1010000000_00_00000000000000000000010000001000,
      .bfx h0 true ⟨.v 6, .v 4, .i false, 0x0408⟩),
    (0b0001_010100_0_000_0_0_000000_0000000000_0000000110_0000000100_0000000101_00_00000000000000000000001100001000,
      .bfi h0 ⟨.v 6, .v 4, .v 5, .k 8⟩),
    (0b0001_010101_0_000_0_0_000000_0000000011_0000000110_0000000100_0010000010_00_00000000000000000000000000001000,
      .bsel h0 true ⟨.v 6, .v 4, .s 2, .v 8⟩) ]

/-- Words of class 0x2 (R230 to R238). -/
def words2 : List (Nat × Instr) :=
  [ (0b0010_000000_0_000_0_0_000000_0101101101_0100000111_0000000001_0010000010_11_00000000000000000000000000000000,
      .cmp h0 ⟨.w8, true⟩ .ge 5 .xor ⟨.p 7, .v 1, .s 2, 0⟩),
    (0b0010_000001_0_000_0_0_000000_0000001111_0100000001_0000000010_0000000100_00_00000000000000000000000000000000,
      .cmp64 h0 true .ne 0 .none ⟨.p 1, .v 2, .v 4, 0⟩),
    (0b0010_000010_0_000_0_0_000000_0000000010_0100000001_0000000011_1010000000_00_00111111000000000000000000000000,
      .fcmp h0 (.ord .lt) 0 .none ⟨.p 1, .v 3, .i false, 0x3F000000⟩),
    (0b0010_000011_0_000_0_0_000000_0000000010_0100000001_0100000010_0100000011_00_00000000000000000000000000000000,
      .pand h0 false true ⟨.p 1, .p 2, .p 3, 0⟩),
    (0b0010_000100_0_000_0_0_000000_0000000001_0100000001_0100000010_0100000011_00_00000000000000000000000000000000,
      .por h0 true false ⟨.p 1, .p 2, .p 3, 0⟩),
    (0b0010_000101_0_000_0_0_000000_0000000011_0100000001_0100000010_0100000011_00_00000000000000000000000000000000,
      .pxor h0 true true ⟨.p 1, .p 2, .p 3, 0⟩),
    (0b0010_000110_0_000_0_0_000000_0000000000_0100000001_0100000010_0000000000_00_00000000000000000000000000000000,
      .pnot h0 ⟨.p 1, .p 2, 0⟩),
    (0b0010_000111_0_000_0_0_000000_0000000000_0010000001_0100000010_0000000000_00_00000000000000000000000000000000,
      .pmov h0 ⟨.s 1, .p 2, 0⟩),
    (0b0010_001000_0_000_0_0_000000_0000001100_0000000001_0100000010_0000000000_00_00000000000000000000000000000000,
      .vote h0 .count true ⟨.v 1, .p 2, 0⟩),
    (0b0010_001001_0_000_0_0_000000_0000110011_0000000010_0000000100_1100000011_00_00000000000000000000000000000000,
      .shfl h0 .mirr 2 true ⟨.v 2, .v 4, .k 3, 0⟩),
    (0b0010_001010_0_000_0_0_000000_0000000001_0010000010_0000000100_0010000001_00_00000000000000000000000000000000,
      .vtos h0 true ⟨.s 2, .v 4, .s 1, 0⟩),
    (0b0010_001011_0_000_0_0_000000_0000000000_0000000010_1010000000_1100001111_00_00000000000000000000000001001101,
      .stov h0 false ⟨.v 2, .i false, .k 15, 77⟩),
    (0b0010_001100_0_011_0_0_000000_0000000000_0010000001_0000000000_0000000000_00_00000000000000000000000000000000,
      .amask ⟨false, 3, false, false, 0⟩ (.s 1)),
    (0b0010_001101_0_000_0_0_000000_0101000110_0000000001_0000000010_0000000000_00_00000000000000000000000000000000,
      .prefixScan h0 .fadd ⟨.w32, false⟩ true .rdn ⟨.v 1, .v 2, 0⟩),
    (0b0010_001110_0_000_0_0_000000_0000111001_0010000010_0000000100_0000000000_00_00000000000000000000000000000000,
      .reduce h0 .min ⟨.w64, true⟩ .rne ⟨.s 2, .v 4, 0⟩),
    (0b0010_001111_0_000_0_0_000000_0000000001_0000000001_0000000010_0000000000_00_00000000000000000000000000000000,
      .matchV h0 true ⟨.v 1, .v 2, 0⟩) ]

/-- Words of class 0x3 (R219). -/
def words3 : List (Nat × Instr) :=
  [ (0b0011_000000_0_000_0_0_000000_0000000001_0000000000_0100000010_0000000000_00_00000000000000000000000000000101,
      .br h0 true 2 5),
    (0b0011_000001_0_000_0_0_000000_0000110000_0000000000_0100000010_0000000000_00_00000000000000000000000000001111,
      .brd h0 false 2 3 15),
    (0b0011_000010_0_000_0_0_000000_0000000000_0000000000_0000000000_0000000000_00_11111111111111111111111111111111,
      .jmp h0 0xFFFFFFFF),
    (0b0011_000011_0_000_0_0_000000_0000000000_0000000000_0000000111_0000000000_00_00000000000000000000000000000000,
      .jmpi h0 (.v 7) 0),
    (0b0011_000100_0_000_0_0_000000_0000000001_0000000000_0000000000_0000000000_00_00000000000000000000000000111100,
      .call h0 1 60),
    (0b0011_000101_0_000_0_0_000000_0000000011_0000000000_1010000000_0000000000_00_00000000000000000000000001100100,
      .calli h0 3 (.i false) 100),
    (0b0011_000110_0_000_1_0_000000_0000000000_0000000000_0000000000_0000000000_00_00000000000000000000000000000000,
      .ret ⟨false, 0, true, false, 0⟩),
    (0b0011_000111_0_000_0_0_111111_0000001111_0000000000_0000000000_0000000000_00_00000000000000000000000000000000,
      .hjoin ⟨false, 0, false, false, 63⟩ 15),
    (0b0011_001000_1_111_0_0_000000_0000000000_0000000000_0000000000_0000000000_00_00000000000000000000000000000000,
      .exit ⟨true, 7, false, false, 0⟩),
    (0b0011_001001_0_000_0_0_000000_0000000000_0000000000_0010001111_0000000000_00_11111111111111111111111111111110,
      .loop h0 15 0xFFFFFFFE),
    (0b0011_001010_0_000_0_0_000000_0000000011_0000000000_0000000000_0000000000_00_00000000000000000000000000000000,
      .wgrow h0 3),
    (0b0011_001011_0_000_0_0_000000_0000000001_0000000000_0000000000_0000000000_00_00000000000000000000000000000000,
      .wshrink h0 1) ]

/-- Words of class 0x4 (R239). -/
def words4 : List (Nat × Instr) :=
  [ (0b0100_000000_0_000_0_0_000000_0000000111_0000000001_0000000010_0000000011_00_00000000000000000000000000000000,
      .fadd h0 ⟨.rup, true⟩ ⟨.v 1, .v 2, .v 3, 0⟩),
    (0b0100_000001_0_000_0_0_000000_0000000010_0000000001_0000000010_1100000001_00_00000000000000000000000000000000,
      .fsub h0 ⟨.rdn, false⟩ ⟨.v 1, .v 2, .k 1, 0⟩),
    (0b0100_000010_0_000_0_0_000000_0000000101_0010000001_0010000010_1010000000_00_00111111100000000000000000000000,
      .fmul h0 ⟨.rtz, true⟩ ⟨.s 1, .s 2, .i false, 0x3F800000⟩),
    (0b0100_000011_0_000_0_0_000000_0000000000_0000000001_0000000010_0000000011_00_00000000000000000000001100000010,
      .ffma h0 ⟨.rne, false⟩ ⟨.v 1, .v 2, .v 3, .k 2⟩),
    (0b0100_000100_0_000_0_0_000000_0000000000_0000000001_0000000010_0000000011_00_00000000000000000000000000000000,
      .fmin h0 ⟨.v 1, .v 2, .v 3, 0⟩),
    (0b0100_000101_0_000_0_0_000000_0000000000_0000000001_0000000010_0000000011_00_00000000000000000000000000000000,
      .fmax h0 ⟨.v 1, .v 2, .v 3, 0⟩),
    (0b0100_000110_0_000_0_0_000000_0000000000_0000000001_0000000010_0000000000_00_00000000000000000000000000000000,
      .fabs h0 ⟨.v 1, .v 2, 0⟩),
    (0b0100_000111_0_000_0_0_000000_0000000000_0000000001_0010000010_0000000000_00_00000000000000000000000000000000,
      .fneg h0 ⟨.v 1, .s 2, 0⟩),
    (0b0100_001000_0_000_0_0_000000_0000000011_0000000001_0000000010_0000000011_00_00000000000000000000000000000000,
      .fdiv h0 ⟨.rup, false⟩ ⟨.v 1, .v 2, .v 3, 0⟩),
    (0b0100_001001_0_000_0_0_000000_0000000000_0000000001_0000000000_0000000000_00_00000000000000000000000000000000,
      .fsqrt h0 ⟨.rne, false⟩ ⟨.v 1, .v 0, 0⟩),
    (0b0100_001010_0_000_0_0_000000_0000000101_0000000001_0000000001_0000000000_00_00000000000000000000000000000000,
      .frcp h0 ⟨.rtz, true⟩ ⟨.v 1, .v 1, 0⟩),
    (0b0100_001011_0_000_0_0_000000_0000000010_0000000001_0000000010_0000000000_00_00000000000000000000000000000000,
      .frsq h0 ⟨.rdn, false⟩ ⟨.v 1, .v 2, 0⟩),
    (0b0100_001100_0_000_0_0_000000_0000000111_0000000001_0000000011_0000000000_00_00000000000000000000000000000000,
      .fexp2 h0 ⟨.rup, true⟩ ⟨.v 1, .v 3, 0⟩),
    (0b0100_001101_0_000_0_0_000000_0000000000_0000000001_0000000100_0000000000_00_00000000000000000000000000000000,
      .flog2 h0 ⟨.rne, false⟩ ⟨.v 1, .v 4, 0⟩),
    (0b0100_001110_0_000_0_0_000000_0000000011_0000000001_0000000010_0000000000_00_00000000000000000000000000000000,
      .frnd h0 .rup ⟨.v 1, .v 2, 0⟩),
    (0b0100_001111_0_000_0_0_000000_0000000000_0010000001_0010000010_0000000000_00_00000000000000000000000000000000,
      .fclass h0 ⟨.s 1, .s 2, 0⟩),
    (0b0100_010000_0_000_0_0_000000_0000000000_0000000001_0000000010_0000000011_00_00000000000000000000000000000000,
      .fcopysign h0 ⟨.v 1, .v 2, .v 3, 0⟩),
    (0b0100_010001_0_000_0_0_000000_0000000001_0000000001_0000000010_1010000000_00_11111111111111111111111111111110,
      .fscale h0 ⟨.rtz, false⟩ ⟨.v 1, .v 2, .i false, 0xFFFFFFFE⟩) ]

/-- Words of class 0x5 (R247 to R249). -/
def words5 : List (Nat × Instr) :=
  [ (0b0101_000000_0_000_0_0_000000_0000000011_0000000001_0000000010_0000000011_00_00000000000000000000000000000000,
      .f16add h0 ⟨.rup, false⟩ ⟨.v 1, .v 2, .v 3, 0⟩),
    (0b0101_000001_0_000_0_0_000000_0000000100_0000000001_0000000010_1100000011_00_00000000000000000000000000000000,
      .f16mul h0 ⟨.rne, true⟩ ⟨.v 1, .v 2, .k 3, 0⟩),
    (0b0101_000010_0_000_0_0_000000_0000000101_0000000001_0000000010_0000000011_00_00000000000000000000000000000100,
      .f16fma h0 ⟨.rtz, true⟩ ⟨.v 1, .v 2, .v 3, .v 4⟩),
    (0b0101_000011_0_000_0_0_000000_0000000000_0000000001_0000000010_0000000011_00_00000000000000000000000000000000,
      .f16min h0 ⟨.v 1, .v 2, .v 3, 0⟩),
    (0b0101_000100_0_000_0_0_000000_0000000000_0000000001_0000000010_0000000011_00_00000000000000000000000000000000,
      .f16max h0 ⟨.v 1, .v 2, .v 3, 0⟩),
    (0b0101_000101_0_000_0_0_000000_0000000010_0000000001_0000000010_0000000011_00_00000000000000000000000000000000,
      .b16add h0 ⟨.rdn, false⟩ ⟨.v 1, .v 2, .v 3, 0⟩),
    (0b0101_000110_0_000_0_0_000000_0000000000_0000000001_0000000010_0000000011_00_00000000000000000000000000000000,
      .b16mul h0 ⟨.rne, false⟩ ⟨.v 1, .v 2, .v 3, 0⟩),
    (0b0101_000111_0_000_0_0_000000_0000000111_0000000001_0000000010_0000000011_00_00000000000000000000001100000001,
      .b16fma h0 ⟨.rup, true⟩ ⟨.v 1, .v 2, .v 3, .k 1⟩),
    (0b0101_001000_0_000_0_0_000000_0000000001_0000000001_0000000010_0000000011_00_00000000000000000000000000000100,
      .fdot2 h0 ⟨.rtz, false⟩ ⟨.v 1, .v 2, .v 3, .v 4⟩),
    (0b0101_001001_0_000_0_0_000000_0000000000_0000000001_0000000010_0000000011_00_00000000000000000000000000000100,
      .bdot2 h0 ⟨.rne, false⟩ ⟨.v 1, .v 2, .v 3, .v 4⟩),
    (0b0101_001010_0_000_0_0_000000_0000011101_0000000001_0000000010_0000000011_00_00000000000000000000000000000000,
      .fcmp2 h0 (.uno .ge) true ⟨.v 1, .v 2, .v 3, 0⟩),
    (0b0101_001011_0_000_0_0_000000_0000001100_0000000001_0000000010_0000000011_00_00000000000000000000001100000000,
      .qdot4 h0 ⟨.rne, true⟩ true false ⟨.v 1, .v 2, .v 3, .k 0⟩),
    (0b0101_001100_0_000_0_0_000000_0000000000_0000000001_0000000010_0000000011_00_00000000000000000000000000000000,
      .b16min h0 ⟨.v 1, .v 2, .v 3, 0⟩),
    (0b0101_001101_0_000_0_0_000000_0000000000_0000000001_0000000010_0000000011_00_00000000000000000000000000000000,
      .b16max h0 ⟨.v 1, .v 2, .v 3, 0⟩) ]

/-- Words of class 0x6 (R251 to R255). -/
def words6 : List (Nat × Instr) :=
  [ (0b0110_000000_0_000_0_0_000000_0111000101_0000000001_0000000010_1100111000_00_00000000000000000000000000000000,
      .cvt h0 ⟨.rtz, true⟩ .f32 .e2m1 ⟨.v 1, .v 2, .k 56, 0⟩),
    (0b0110_000001_0_000_0_0_000000_0011011111_0000000001_0000000010_0000000000_00_00000000000000000000000000000000,
      .i2f h0 ⟨.rup, true⟩ ⟨.w64, true⟩ .bf16 ⟨.v 1, .v 2, 0⟩),
    (0b0110_000010_0_000_0_0_000000_0000101010_0000000001_0000000010_0000000000_00_00000000000000000000000000000000,
      .f2i h0 .rdn ⟨.w16, false⟩ .f16 ⟨.v 1, .v 2, 0⟩),
    (0b0110_000011_0_000_0_0_000000_0110000100_0000000001_0000000010_0000000011_00_00000000000000000000000000000000,
      .pk h0 ⟨.rne, true⟩ false .e4m3 1 ⟨.v 1, .v 2, .v 3, 0⟩),
    (0b0110_000100_0_000_0_0_000000_0001011101_0000000001_0000000010_0000000000_00_00000000000000000000000000000000,
      .upk h0 .e3m2 3 true ⟨.v 1, .v 2, 0⟩),
    (0b0110_000101_0_000_0_0_000000_0000000110_0000000001_0000000010_0000000000_00_00000000000000000000000010000011,
      .mxq h0 .e2m3 (.v 1) (.v 2) (.s 3)),
    (0b0110_000110_0_000_0_0_000000_0000001111_0000000100_0000000010_0010000011_00_00000000000000000000000000000000,
      .mxd h0 .rup .e5m2 ⟨.v 4, .v 2, .s 3, 0⟩) ]

/-- Words of class 0x7 (R256, R257, R265, R268). -/
def words7 : List (Nat × Instr) :=
  [ (0b0111_000000_0_000_0_0_000011_0100010000_0000001010_0000000010_0000000000_00_00000000000000000000000001000000,
      .ld ⟨false, 0, false, false, 3⟩ ⟨⟨.w32, false⟩, .acq, .sy⟩ (.v 10) (.v 2) 0x40),
    (0b0111_000001_0_000_0_0_000000_0011011001_0000000000_0010000010_1100001001_00_11111111111111111111111111111111,
      .st h0 ⟨⟨.w8, false⟩, .rel, .pk⟩ (.s 2) (.k 9) 0xFFFFFFFF),
    (0b0111_000010_0_000_0_0_000000_0000000011_0000000000_0000000010_0000000100_00_00000000000000000000000000001000,
      .stp h0 .w64 (.v 2) (.v 4) 8),
    (0b0111_000011_0_000_0_0_000000_0011010010_0000000110_0000000010_0000000100_11_00000000000000000000000000001000,
      .atm h0 ⟨.max, .sc, .tm, true, true⟩ (.v 6) (.v 2) (.v 4) 8),
    (0b0111_000100_0_000_0_0_000000_1000011001_0000000000_0000000010_0000000100_00_00000000000000000000000000000000,
      .atp h0 ⟨.fadd, .rlx, .sy, false, false⟩ (.v 2) (.v 4) 0),
    (0b0111_000101_0_000_0_0_000000_0010100011_0000000110_0000000010_0000000100_00_00000000000000000000000000010000,
      .cas h0 ⟨⟨.w64, false⟩, .ar, .st⟩ (.v 6) (.v 2) (.v 4) 16),
    (0b0111_000110_0_000_0_0_000000_0001100101_0000000000_0000000000_0000000000_00_00000000000000000000000000000000,
      .fence h0 .sc .sy true false),
    (0b0111_000111_0_000_0_0_000000_0000000000_0000000000_0000000000_0000000000_00_00000000000000000000000000000000,
      .drain h0),
    (0b0111_001000_0_000_0_0_000001_0000000001_0000000000_0000000000_0000000000_00_00000000000000000000000000000000,
      .pass ⟨false, 0, false, false, 1⟩ none 0),
    (0b0111_001001_0_000_0_0_000000_0000000110_0000000001_0010000100_0000000000_00_00000000000000000000000000000100,
      .rrd h0 ⟨.w16, true⟩ (.v 1) (.s 4) 4),
    (0b0111_001010_0_000_0_0_000000_0000000010_0000000000_0000000100_1100000001_00_00000000000000000000000000000010,
      .rwr h0 .w16 (.v 4) (.k 1) 2) ]

/-- Words of class 0x8 (R256, R257, R265). -/
def words8 : List (Nat × Instr) :=
  [ (0b1000_000000_0_000_0_0_000000_0000000110_0010000001_0010000010_0000000000_00_00000000000000000000000000000110,
      .lds h0 ⟨⟨.w16, true⟩, .plain, .sq⟩ (.s 1) (.s 2) 6),
    (0b1000_000001_0_000_0_0_000000_0000001011_0000000000_0000000001_0000000010_00_00000000000000000000000000001000,
      .sts h0 ⟨⟨.w64, false⟩, .rlx, .sq⟩ (.v 1) (.v 2) 8),
    (0b1000_000010_0_000_0_0_000000_0011001000_0000000001_0000000010_0010000011_00_00000000000000000000000000000100,
      .ats h0 ⟨.decw, .ar, .tm, false, false⟩ (.v 1) (.v 2) (.s 3) 4),
    (0b1000_000011_0_000_0_0_000000_0000001111_0000000000_0000000000_0000000000_00_00000000000000000000000000000000,
      .bar h0 7 true),
    (0b1000_000100_0_000_0_0_000000_0000000010_0000000000_0000000000_0000000000_00_00000000000000000000000000000000,
      .bara h0 2 false),
    (0b1000_000101_0_000_0_0_000000_0000000101_0000000000_0000000000_0000000000_00_00000000000000000000000000000000,
      .barw h0 5),
    (0b1000_000110_0_000_0_0_000000_0000001011_0000000000_0010000001_0000000000_00_00000000000000000000000000000000,
      .sgo h0 3 true (.s 1)),
    (0b1000_000111_0_000_0_0_000000_0000000100_0000000000_1100000111_0010000001_00_00000000000000000000000000000000,
      .swt h0 4 (.k 7) (.s 1)) ]

/-- Words of class 0x9 (R281, R285, R291). -/
def words9 : List (Nat × Instr) :=
  [ (0b1001_000000_0_000_0_0_000000_0000000000_0000000000_1010000000_0000000000_00_00000000000000000000000000111111,
      .gang h0 (.i false) 0x3F),
    (0b1001_000001_0_000_0_0_000000_0000010100_0000000000_0010000001_1100000010_00_00000000000000000000000000111111,
      .mstat h0 .e4m3 .s14 (.s 1) (.k 2) 63),
    (0b1001_000010_0_000_0_0_000000_0000000000_0000000000_0000000000_0000000000_00_00000000000000000000000000000101,
      .mfree h0 5),
    (0b1001_000011_0_000_0_0_000000_0000010001_0110000001_0010000010_0000000011_00_00000000000000000000000000000011,
      .mmx h0 ⟨.m32, .ga, 3, 0, 0⟩ (.acc 1) (.s 2) (.v 3)),
    (0b1001_000100_0_000_0_0_000000_0000100110_0110011111_0010000010_1100000011_00_00000000000000000001000010000001,
      .mmxs h0 ⟨.auto, .pl, 1, 2, 4⟩ true (.acc 31) (.s 2) (.k 3)),
    (0b1001_000101_0_000_0_0_000000_0001001101_0110000000_0010000010_0010000011_00_00000000000000100100001111000000,
      .mmxd h0 ⟨.m128, .cv, 0, 15, 0⟩ true 9 (.acc 0) (.s 2) (.s 3)),
    (0b1001_000110_0_000_0_0_000000_0000000000_0110000100_0000000000_0000000000_00_00000000000000000000000000000000,
      .mzero h0 (.acc 4)),
    (0b1001_000111_0_000_0_0_000000_0000111010_0010000001_0110000010_0000000000_00_00000000000001000111111100000001,
      .mdrn h0 true ⟨7, 1, 127, 4⟩ (.s 1) (.acc 2)),
    (0b1001_001000_0_000_0_0_000000_0000000111_0010000001_0110000010_1100000011_00_11111111111111111000000000000000,
      .mdrq h0 .e2m1 ⟨0, 0, 128, 0xFFFF⟩ (.s 1) (.acc 2) (.k 3)),
    (0b1001_001001_0_000_0_0_000010_0000001000_0010000001_0110000010_0000000011_00_00000000000000010000000000010000,
      .mdrx ⟨false, 0, false, false, 2⟩ ⟨1, 16, 0, 1⟩ (.s 1) (.acc 2) (.v 3)),
    (0b1001_001010_0_000_0_0_000000_0000000000_0000000000_0010000100_0000000000_00_00000000000000000000000000000000,
      .mslotInv h0 (.s 4)),
    (0b1001_001010_0_000_0_0_000000_0000000001_0000000000_0010000100_1101000000_00_00000000000000000000000000000000,
      .mslotNint h0 (.s 4) (.k 64)),
    (0b1001_001011_0_000_1_0_000000_0000000000_0000000000_0000000000_0000000000_00_00000000000000000000000000000000,
      .mwait ⟨false, 0, true, false, 0⟩) ]

/-- Words of class 0xA (R281). -/
def wordsA : List (Nat × Instr) :=
  [ (0b1010_000000_0_000_0_0_000000_0000000011_0010000001_0010000010_0010000011_00_00000000000000000000000000000000,
      .cpG2s h0 3 (.s 1) (.s 2) (.s 3)),
    (0b1010_000000_0_000_0_0_000000_0000000110_0010000001_1101000000_0010000011_00_00000000000000000000000000000000,
      .cpS2g h0 2 (.s 1) (.k 64) (.s 3)),
    (0b1010_000001_0_000_0_0_000000_0000000001_0010000001_0010000010_0010000011_00_00000000000000000000000010000100,
      .cpg h0 1 (.s 1) (.s 2) (.s 3) (.s 4)),
    (0b1010_000010_0_000_0_0_000000_0000000000_0000000000_0010000001_1100000001_00_00000000000000000000000000000100,
      .cpw h0 (.s 1) (.k 1) 4),
    (0b1010_000011_0_000_0_0_000000_0000000000_0000000000_0010000001_1100000001_00_11111111111111111111111111110000,
      .cpy h0 (.s 1) (.k 1) 0xFFFFFFF0),
    (0b1010_000100_0_000_0_0_000000_0000010101_0000000000_0000000000_0000000000_00_00000000000000000000000000000000,
      .qfence h0 0b010101),
    (0b1010_000101_0_000_0_0_000000_0000100000_0000000000_0000000000_0000000000_00_00000000000000000000000000000000,
      .qwait h0 0b100000),
    (0b1010_000110_0_000_0_0_000000_0000000100_0010000001_1101000000_0000000000_00_00000000000000000000000000000000,
      .trec h0 .conv (.s 1) (.k 64)),
    (0b1010_000111_0_000_0_0_000000_0000000000_0000000000_0010000001_0000000000_00_00000000000000000000000000000000,
      .lnch h0 (.s 1)) ]

/-- Words of class 0xB (R306). -/
def wordsB : List (Nat × Instr) :=
  [ (0b1011_000000_0_000_0_0_000000_0000000001_0000000110_1000010010_1100001001_00_00000000000000000000000000000000,
      .srd h0 true (.v 6) .tva (some (.k 9))),
    (0b1011_000001_0_000_0_0_000000_0000000000_1000001110_1010000000_0000000000_00_00000000000000000000000000111111,
      .swr h0 false .fpctl (.i false) none 0x3F),
    (0b1011_000010_0_000_0_0_000000_0000000000_0000000000_0000000000_0000000000_00_00000000000000001111111111111111,
      .trap h0 0xFFFF),
    (0b1011_000011_0_000_0_0_000000_0000000000_0000000000_0000000000_0000000000_00_00000000000000000000000000000000,
      .eret h0),
    (0b1011_000100_0_000_0_0_000000_0000000000_0000000000_0000000000_0000000000_00_00000000000000000000000000000000,
      .sqkill h0),
    (0b1011_000101_0_010_0_0_000000_0000000000_0000000000_0000000000_0000000000_00_00000000000000000000000000000000,
      .tmkill ⟨false, 2, false, false, 0⟩),
    (0b1011_000110_0_000_0_0_000000_0000000000_0000000000_0000000000_0000000000_00_00000000000000000000111111111111,
      .relax h0 0xFFF),
    (0b1011_000111_0_000_0_0_000000_0000000000_0000000000_1101100100_0000000000_00_00000000000000000000000000000000,
      .sleep h0 (.k 100) 0),
    (0b1011_001000_0_000_0_0_000000_0000000000_0000000000_0000000000_0000000000_00_00000000000000000000000000000001,
      .brkpt h0 1),
    (0b1011_001001_0_000_0_0_000000_0000000000_0000000000_0000000000_0000000000_00_00000000000000000000000000000010,
      .smark h0 2),
    (0b1011_001010_0_000_0_0_000000_0000000011_0000000000_0000000000_0000000000_00_00000000000000000000000000000000,
      .icinv h0 3),
    (0b1011_001011_0_000_0_0_000000_0000000000_0000000000_0010000010_0000000000_00_00000000000000000000000000000000,
      .twait h0 (.s 2) 0) ]

/-- Every word decodes to the instruction it stands for. -/
def decodes (l : List (Nat × Instr)) : Bool := l.all (fun e => decide (decode e.1 = .ok e.2))

theorem test_words0 : decodes words0 = true := by decide +kernel
theorem test_words1 : decodes words1 = true := by decide +kernel
theorem test_words2 : decodes words2 = true := by decide +kernel
theorem test_words3 : decodes words3 = true := by decide +kernel
theorem test_words4 : decodes words4 = true := by decide +kernel
theorem test_words5 : decodes words5 = true := by decide +kernel
theorem test_words6 : decodes words6 = true := by decide +kernel
theorem test_words7 : decodes words7 = true := by decide +kernel
theorem test_words8 : decodes words8 = true := by decide +kernel
theorem test_words9 : decodes words9 = true := by decide +kernel
theorem test_wordsA : decodes wordsA = true := by decide +kernel
theorem test_wordsB : decodes wordsB = true := by decide +kernel

/-! ### Fates of words (R174), and ill-formed terms -/

def hp (gn : Bool) (gp : Fin 8) (lsi : Fin 64) : Hdr := ⟨gn, gp, false, false, lsi⟩

/-- The words of R177, R222, R231, 12 and 13's worked examples and of R310, as the spec prints them. -/
theorem test_printed_words :
    decode 0x006D0000_01402A00_0000012C = .ok (.add ⟨true, 3, false, true, 0⟩ ⟨⟨.w32, false⟩, false⟩ ⟨.v 5, .v 2, .i false, 300⟩) ∧
    decode 0x30400030_00102000_0000000F = .ok (.brd h0 false 2 3 15) ∧
    decode 0x20800002_40403A00_3F000000 = .ok (.fcmp h0 (.ord .lt) 0 .none ⟨.p 1, .v 3, .i false, 0x3F000000⟩) ∧
    decode 0x70000D10_02802000_00000040 = .ok (.ld (hp false 0 3) ⟨⟨.w32, false⟩, .acq, .sy⟩ (.v 10) (.v 2) 0x40) ∧
    decode 0x90C00811_60087020_00000003 = .ok (.mmx (hp false 0 2) ⟨.m32, .ga, 3, 0, 0⟩ (.acc 0) (.s 7) (.v 8)) ∧
    decode 0xB0000001_01A12C24_00000000 = .ok (.srd h0 true (.v 6) .tva (some (.k 9))) := by decide +kernel

/-- The borderline words of R174, and one word with each further breach: a reserved bit, a kind, an index, a reserved code. -/
theorem test_fates :
    decode (0x01A * 2 ^ 86) = .illegalOpcode ∧ decode (0x300 * 2 ^ 86) = .illegalOpcode ∧
    decode (0x001 * 2 ^ 86 + 8 * 2 ^ 82) = .illegalEncoding ∧ decode (0x001 * 2 ^ 86 + 5 * 2 ^ 74) = .illegalEncoding ∧
    decode (0x001 * 2 ^ 86 + 0x300 * 2 ^ 54) = .illegalEncoding ∧
    decode (0x001 * 2 ^ 86 + 0x082 * 2 ^ 54 + 1 * 2 ^ 44) = .illegalEncoding ∧
    decode (0x001 * 2 ^ 86 + 16 * 2 ^ 64) = .illegalEncoding ∧ decode (0x001 * 2 ^ 86 + 2 ^ 32) = .illegalEncoding ∧
    decode (0x001 * 2 ^ 86 + 5) = .illegalEncoding ∧ decode (0x007 * 2 ^ 86 + 2 ^ 33) = .illegalEncoding ∧
    decode (0x001 * 2 ^ 86 + 32 * 2 ^ 44) = .illegalEncoding ∧ decode (0x001 * 2 ^ 86 + 0x380 * 2 ^ 44) = .illegalEncoding ∧
    decode (0x011 * 2 ^ 86 + 3 * 2 ^ 64 + 1 * 2 ^ 44) = .illegalEncoding ∧
    decode (0x088 * 2 ^ 86 + 6 * 2 ^ 64 + 0x080 * 2 ^ 54 + 0x100 * 2 ^ 44) = .illegalEncoding ∧
    decode 0x70000D00_02802000_00000040 = .illegalEncoding ∧ decode 0 = .ok (.nop h0) := by decide +kernel

/-- A term that each check of `wf` refuses: guard, live set, operand kind, pair, immediate, uniform form, type, saturation,
order, scope, element, region of a code. -/
def illFormed : List Instr :=
  [ .nop (hp true 0 0), .nop (hp false 0 1), .br (hp false 0 7) false 1 0,
    .add h0 ⟨⟨.w64, false⟩, false⟩ f3, .add h0 ⟨⟨.w32, false⟩, false⟩ ⟨.p 1, .v 1, .v 2, 0⟩,
    .add h0 ⟨⟨.w32, false⟩, false⟩ ⟨.v 1, .p 1, .v 2, 0⟩, .add h0 ⟨⟨.w32, false⟩, false⟩ ⟨.v 1, .v 1, .v 2, 7⟩,
    .add h0 ⟨⟨.w32, false⟩, false⟩ ⟨.v 1, .i true, .v 2, 7⟩, .add h0 ⟨⟨.w32, false⟩, false⟩ ⟨.s 1, .v 1, .s 2, 0⟩,
    .add h0 ⟨⟨.w32, false⟩, false⟩ ⟨.k 1, .v 1, .s 2, 0⟩,
    .mulh h0 ⟨⟨.w16, false⟩, false⟩ f3, .mulh h0 ⟨⟨.w32, false⟩, true⟩ f3, .div h0 ⟨⟨.w32, false⟩, true⟩ f3,
    .abs h0 ⟨⟨.w32, false⟩, false⟩ f2, .min h0 ⟨⟨.w32, false⟩, true⟩ f3, .iclamp h0 ⟨⟨.w32, false⟩, true⟩ f4,
    .add64 h0 ⟨⟨.w32, false⟩, false⟩ f3, .add64 h0 ⟨⟨.w64, false⟩, false⟩ ⟨.v 1, .v 2, .v 4, 0⟩,
    .madw h0 false ⟨.v 2, .v 4, .v 6, .k 1⟩, .madw h0 false ⟨.v 2, .v 4, .v 6, .v 7⟩, .addc h0 ⟨.s 2, .s 1, .s 3, .p 1⟩,
    .subb h0 ⟨.v 2, .i false, .v 3, .p 1⟩, .movi h0 ⟨.s 1, .k 1, .k 2, 0⟩, .sel h0 false ⟨.v 2, .v 3, .v 4, .v 5⟩,
    .mad h0 ⟨⟨.w32, false⟩, false⟩ ⟨.v 1, .v 2, .i false, .v 3⟩,
    .cmp h0 ⟨.w64, false⟩ .eq 0 .none ⟨.p 1, .v 2, .v 4, 0⟩, .cmp h0 ⟨.w32, false⟩ .eq 1 .none ⟨.p 1, .v 2, .v 4, 0⟩,
    .cmp h0 ⟨.w32, false⟩ .eq 0 .none ⟨.v 1, .v 2, .v 4, 0⟩, .cmp64 h0 false .eq 0 .none ⟨.p 1, .v 3, .v 4, 0⟩,
    .pand h0 false false ⟨.p 1, .v 2, .p 3, 0⟩, .pmov h0 ⟨.v 1, .p 2, 0⟩, .vote h0 .mask false ⟨.p 1, .p 2, 0⟩,
    .vote h0 .each false ⟨.v 1, .p 2, 0⟩, .shfl h0 .from 0 false ⟨.v 1, .s 2, .v 3, 0⟩, .vtos h0 false ⟨.v 1, .v 2, .k 0, 0⟩,
    .stov h0 false ⟨.v 1, .v 2, .k 0, 0⟩, .amask h0 (.v 1), .prefixScan h0 .add ⟨.w32, true⟩ false .rne f2,
    .prefixScan h0 .fadd ⟨.w64, false⟩ false .rne f2, .reduce h0 .min ⟨.w32, true⟩ .rtz f2,
    .reduce h0 .min ⟨.w16, true⟩ .rne f2, .matchV h0 true ⟨.v 1, .v 3, 0⟩, .jmpi h0 (.p 1) 0, .jmpi h0 (.v 1) 4,
    .wgrow h0 0, .wshrink h0 0,
    .qdot4 h0 ⟨.rne, false⟩ false false ⟨.v 1, .k 1, .v 2, .v 3⟩, .cvt h0 ⟨.rne, false⟩ .f16 .f16 ⟨.v 1, .v 2, .k 0, 0⟩,
    .cvt h0 ⟨.rne, false⟩ .f16 .f32 ⟨.v 1, .v 2, .k 2, 0⟩, .cvt h0 ⟨.rne, false⟩ .f16 .f32 ⟨.v 1, .v 2, .k 8, 0⟩,
    .cvt h0 ⟨.rne, false⟩ .f16 .f32 ⟨.v 1, .v 2, .k 64, 0⟩, .i2f h0 ⟨.rne, false⟩ ⟨.w32, true⟩ .e4m3 f2,
    .f2i h0 .rne ⟨.w32, true⟩ .e5m2 f2, .pk h0 ⟨.rne, false⟩ false .f32 0 f3, .pk h0 ⟨.rne, false⟩ false .f16 1 f3,
    .pk h0 ⟨.rne, false⟩ false .e4m3 2 f3, .pk h0 ⟨.rtz, false⟩ true .e4m3 0 f3, .upk h0 .f32 0 false f2,
    .upk h0 .f16 2 false f2, .mxq h0 .f16 (.v 1) (.v 2) (.s 1), .mxq h0 .e4m3 (.v 1) (.v 3) (.s 1),
    .mxd h0 .rne .bf16 f3, .mxd h0 .rne .e4m3 ⟨.v 3, .v 4, .k 1, 0⟩,
    .ld h0 ⟨⟨.w32, false⟩, .rel, .sy⟩ (.v 1) (.v 2) 0, .ld h0 ⟨⟨.w32, false⟩, .plain, .sy⟩ (.v 1) (.v 2) 0,
    .ld h0 ⟨⟨.w32, false⟩, .plain, .sq⟩ (.v 1) (.v 3) 0, .ld h0 ⟨⟨.w32, false⟩, .plain, .sq⟩ (.s 1) (.v 2) 0,
    .ld h0 ⟨⟨.w64, false⟩, .plain, .sq⟩ (.v 1) (.v 2) 0, .st h0 ⟨⟨.w32, false⟩, .acq, .sy⟩ (.v 2) (.v 1) 0,
    .st h0 ⟨⟨.w32, true⟩, .plain, .sq⟩ (.v 2) (.v 1) 0, .atm h0 ⟨.add, .plain, .sq, false, false⟩ (.v 1) (.v 2) (.v 4) 0,
    .atm h0 ⟨.add, .rlx, .sy, false, true⟩ (.v 1) (.v 2) (.v 4) 0, .atm h0 ⟨.fadd, .rlx, .sy, true, false⟩ (.v 2) (.v 2) (.v 4) 0,
    .atp h0 ⟨.add, .rel, .sy, false, false⟩ (.v 2) (.v 4) 0, .atp h0 ⟨.add, .rlx, .st, false, false⟩ (.v 2) (.v 4) 0,
    .cas h0 ⟨⟨.w16, false⟩, .rlx, .sy⟩ (.v 1) (.v 2) (.v 4) 0, .fence h0 .rlx .sy false false, .pass h0 none 4,
    .rrd h0 ⟨.w32, false⟩ (.s 1) (.s 2) 0, .sgo h0 0 false (.v 1), .swt h0 0 (.k 1) (.v 1), .gang h0 (.v 1) 0,
    .mstat h0 .f16 .dense (.s 1) (.s 2) 0, .mmx h0 ⟨.m16, .ga, 0, 0, 0⟩ (.acc 0) (.s 1) (.s 2),
    .mmx h0 ⟨.m16, .pl, 0, 0, 0⟩ (.acc 0) (.s 1) (.v 2), .mmx h0 ⟨.m16, .pl, 0, 0, 1⟩ (.acc 0) (.s 1) (.s 2),
    .mmx h0 ⟨.m16, .pl, 0, 0, 0⟩ (.v 0) (.s 1) (.s 2), .mzero h0 (.v 1),
    .mdrn h0 false ⟨0, 0, 0, 1⟩ (.s 1) (.acc 0), .mdrn h0 false ⟨0, 1, 128, 1⟩ (.s 1) (.acc 0),
    .mdrx h0 ⟨0, 0, 1, 1⟩ (.s 1) (.acc 0) (.v 1), .qfence h0 0, .qwait h0 0, .trec h0 .cp (.p 1) (.s 1),
    .srd h0 false (.v 2) .tva (some (.k 0)), .srd h0 true (.v 2) .sqid none, .srd h0 false (.v 2) .sqid (some (.k 0)),
    .srd h0 true (.v 2) .tva (some (.k 16)), .srd h0 true (.v 2) .tva none, .srd h0 false (.s 1) .laneid none,
    .swr h0 false .amask (.s 1) none 0, .swr h0 false .mstat (.s 1) (some (.k 2)) 0, .swr h0 true .fpstat (.s 2) none 0,
    .sleep h0 (.v 1) 0, .twait h0 (.s 1) 0 ]

theorem test_ill_formed : illFormed.all (fun i => !i.wf) = true := by decide +kernel

/-- A register outside the window is ILLEGAL_ENCODING as it issues: v20 in a window of 16 (R174). -/
theorem test_window : (match exec (.add h0 ⟨⟨.w32, false⟩, false⟩ ⟨.v 1, .v 20, .v 2, 0⟩)
      (one (fun p => { p with w := 16 })) with
    | .next t => (t.part 1).live
    | _ => true) = false := by decide +kernel

/-! ### Results the spec works out -/

/-- Each instruction on A, B and C gives the value printed. -/
def gives (l : List (Instr × (Nat × Nat × Nat) × Nat)) : Bool :=
  l.all (fun e => decide (v2After e.1 (abc e.2.1.1 e.2.1.2.1 e.2.1.2.2) = some e.2.2))

def ty (w : Width) (sg sat : Bool) : IMod := ⟨⟨w, sg⟩, sat⟩

/-- R188, R206 to R212. -/
theorem test_integer : gives
  [ (.neg h0 (ty .w32 false false) f2, (5, 0, 0), 0xFFFFFFFB), (.neg h0 (ty .w32 false true) f2, (5, 0, 0), 0),
    (.abs h0 (ty .w32 true false) f2, (0x80000000, 0, 0), 0x80000000),
    (.abs h0 (ty .w32 true true) f2, (0x80000000, 0, 0), 0x7FFFFFFF),
    (.sub h0 (ty .w8 false true) f3, (3, 7, 0), 0), (.add h0 (ty .w16 true false) f3, (0x7FFF, 1, 0), 0xFFFF8000),
    (.mulh h0 (ty .w32 true false) f3, (0xFFFFFFFF, 1, 0), 0xFFFFFFFF),
    (.mul h0 (ty .w8 true true) f3, (100, 2, 0), 127), (.mad h0 (ty .w32 false false) f4, (3, 5, 7), 22),
    (.sad h0 (ty .w8 false false) f4, (200, 10, 100), 34), (.div h0 (ty .w32 true false) f3, (0xFFFFFFF9, 2, 0), 0xFFFFFFFD),
    (.rem h0 (ty .w32 true false) f3, (0xFFFFFFF9, 2, 0), 0xFFFFFFFF),
    (.div h0 (ty .w32 false false) f3, (7, 0, 0), 0xFFFFFFFF), (.rem h0 (ty .w32 false false) f3, (7, 0, 0), 7),
    (.div h0 (ty .w32 true false) f3, (0x80000000, 0xFFFFFFFF, 0), 0x80000000),
    (.rem h0 (ty .w32 true false) f3, (0x80000000, 0xFFFFFFFF, 0), 0),
    (.min h0 (ty .w32 true false) f3, (0xFFFFFFFF, 1, 0), 0xFFFFFFFF), (.max h0 (ty .w32 true false) f3, (0xFFFFFFFF, 1, 0), 1),
    (.addc h0 ⟨.v 2, .v 4, .v 6, .p 0⟩, (4, 5, 0), 10), (.subb h0 ⟨.v 2, .v 4, .v 6, .p 1⟩, (4, 5, 0), 0xFFFFFFFF),
    (.madw h0 true f4, (0xFFFFFFFE, 3, 10), 4), (.madw h0 false f4, (0xFFFFFFFF, 2, 0), 0x1FFFFFFFE),
    (.lea h0 2 true f3, (0x1000000000, 0xFFFFFFFF, 0), 0x0FFFFFFFFC),
    (.add64 h0 (ty .w64 false false) f3, (0xFFFFFFFF, 1, 0), 0x100000000),
    (.sub64 h0 (ty .w64 true false) f3, (0, 1, 0), 0xFFFFFFFFFFFFFFFF), (.mov h0 true f2, (0x500000007, 0, 0), 0x500000007),
    (.movi h0 ⟨.v 2, .i false, .k 4, 1000⟩, (0, 0, 0), 1000), (.sel h0 false ⟨.v 2, .v 4, .v 6, .p 0⟩, (8, 9, 0), 8),
    (.sel h0 false ⟨.v 2, .v 4, .v 6, .p 1⟩, (8, 9, 0), 9), (.iclamp h0 (ty .w32 false false) f4, (5, 9, 7), 7),
    (.dot4 h0 true true false f4, (0x80FF0102, 0x0304FF05, 10), 0xFFFFFE8F),
    (.dot4 h0 false false false f4, (0x80FF0102, 0x0304FF05, 10), 0x0000068F),
    (.dot2 h0 true true false f4, (0xFFFF0002, 0x00030004, 10), 15), (.nop h0, (1, 2, 3), 0) ] = true := by decide +kernel

theorem test_movw : v2After (.movw h0 true ⟨.v 2, .i false, 0x1234⟩) (one (fun p => { p with vregs := regs [(2, 0x5678)] })) =
    some 0x12345678 := by decide +kernel

/-- R214 to R218. -/
theorem test_logic : gives
  [ (.andB h0 false f3, (12, 10, 0), 8), (.orB h0 false f3, (12, 10, 0), 14), (.xorB h0 false f3, (12, 10, 0), 6),
    (.notB h0 false f2, (12, 0, 0), 0xFFFFFFF3), (.andn h0 true f3, (0xC0000000C, 0x80000000A, 0), 0x400000004),
    (.orn h0 false f3, (0, 10, 0), 0xFFFFFFF5), (.bfn3 h0 0x22 ⟨.v 2, .v 4, .v 6, .k 0⟩, (12, 10, 0), 4),
    (.bfn3 h0 0xE8 f4, (12, 10, 9), 8), (.shl h0 f3, (1, 31, 0), 0x80000000), (.shl h0 f3, (1, 32, 0), 0),
    (.shr h0 f3, (0x80000000, 31, 0), 1), (.sar h0 f3, (0x80000000, 40, 0), 0xFFFFFFFF), (.rotl h0 f3, (0x80000001, 33, 0), 3),
    (.rotr h0 f3, (1, 1, 0), 0x80000000), (.shl64 h0 f3, (1, 63, 0), 0x8000000000000000), (.shr64 h0 f3, (0x100000000, 32, 0), 1),
    (.sar64 h0 f3, (0x8000000000000000, 64, 0), 0xFFFFFFFFFFFFFFFF), (.clz h0 false f2, (1, 0, 0), 31),
    (.clz h0 true f2, (0, 0, 0), 64), (.ctz h0 false f2, (8, 0, 0), 3), (.ctz h0 false f2, (0, 0, 0), 32),
    (.popc h0 true f2, (0xF0000000F, 0, 0), 8), (.brev h0 false f2, (1, 0, 0), 0x80000000),
    (.brev h0 true f2, (1, 0, 0), 0x8000000000000000), (.bfx h0 true f3, (0xA50, 0x0404, 0), 5),
    (.bfx h0 true f3, (0xA50, 0x0408, 0), 0xFFFFFFFA), (.bfx h0 false f3, (0xA50, 0x101C, 0), 0),
    (.bfi h0 f4, (0xF, 0x12345678, 0x0408), 0x12345F78), (.bsel h0 false f4, (12, 3, 0xA), 9) ] = true := by decide +kernel

/-- R194, R196, R239, R240 and the exact cases of R241. -/
theorem test_float : gives
  [ (.fadd h0 ⟨.rne, false⟩ f3, (0x3F800000, 0x3F800000, 0), 0x40000000),
    (.fsub h0 ⟨.rdn, false⟩ f3, (0x3F800000, 0x3F800000, 0), 0x80000000),
    (.fmul h0 ⟨.rne, false⟩ f3, (0x40000000, 0xC0400000, 0), 0xC0C00000),
    (.ffma h0 ⟨.rne, false⟩ f4, (0x40000000, 0x40400000, 0x3F800000), 0x40E00000),
    (.fmin h0 f3, (0x7FC00000, 0x3F800000, 0), 0x3F800000), (.fmax h0 f3, (0x80000000, 0, 0), 0),
    (.fabs h0 f2, (0xFFC00001, 0, 0), 0x7FC00001), (.fneg h0 f2, (0, 0, 0), 0x80000000),
    (.fdiv h0 ⟨.rne, false⟩ f3, (0x3F800000, 0, 0), 0x7F800000), (.fdiv h0 ⟨.rne, true⟩ f3, (0x3F800000, 0, 0), 0x7F7FFFFF),
    (.fsqrt h0 ⟨.rne, false⟩ f2, (0x80000000, 0, 0), 0x80000000), (.fsqrt h0 ⟨.rne, false⟩ f2, (0x40800000, 0, 0), 0x40000000),
    (.frnd h0 .rne f2, (0xBE99999A, 0, 0), 0x80000000), (.fclass h0 f2, (0x00000001, 0, 0), 128),
    (.fclass h0 f2, (0x7FA00000, 0, 0), 1), (.fcopysign h0 f3, (0x3F800000, 0x80000000, 0), 0xBF800000),
    (.fscale h0 ⟨.rne, false⟩ f3, (0x3F800000, 0xFFFFFFFF, 0), 0x3F000000), (.frcp h0 ⟨.rne, false⟩ f2, (0x40000000, 0, 0), 0x3F000000),
    (.frsq h0 ⟨.rne, false⟩ f2, (0x40800000, 0, 0), 0x3F000000), (.fexp2 h0 ⟨.rne, false⟩ f2, (0x40400000, 0, 0), 0x41000000),
    (.flog2 h0 ⟨.rne, false⟩ f2, (0x41000000, 0, 0), 0x40400000) ] = true := by decide +kernel

/-- R247 to R249: elements 1.0 and 2.0, and products of halves. -/
theorem test_packed : gives
  [ (.f16add h0 ⟨.rne, false⟩ f3, (0x40003C00, 0x3C003C00, 0), 0x42004000), (.f16mul h0 ⟨.rne, false⟩ f3, (0x40003C00, 0x40004000, 0), 0x44004000),
    (.f16fma h0 ⟨.rne, false⟩ f4, (0x40003C00, 0x40004000, 0x3C003C00), 0x45004200), (.f16min h0 f3, (0x40003C00, 0x3C007E00, 0), 0x3C003C00),
    (.f16max h0 f3, (0x40003C00, 0x3C007E00, 0), 0x40003C00), (.b16add h0 ⟨.rne, false⟩ f3, (0x40003F80, 0x3F803F80, 0), 0x40404000),
    (.b16mul h0 ⟨.rne, false⟩ f3, (0x40003F80, 0x40004000, 0), 0x40804000), (.b16fma h0 ⟨.rne, false⟩ f4, (0x40003F80, 0x40004000, 0x3F803F80), 0x40A04040),
    (.b16min h0 f3, (0x3F804000, 0x40003F80, 0), 0x3F803F80), (.b16max h0 f3, (0x3F804000, 0x40003F80, 0), 0x40004000),
    (.fdot2 h0 ⟨.rne, false⟩ f4, (0x40003C00, 0x40003C00, 0x3F800000), 0x40C00000), (.bdot2 h0 ⟨.rne, false⟩ f4, (0x40003F80, 0x40003F80, 0x3F800000), 0x40C00000),
    (.fcmp2 h0 (.ord .lt) false f3, (0x3C003C00, 0x40003C00, 0), 0xFFFF0000), (.qdot4 h0 ⟨.rne, false⟩ false false f4, (0x38383838, 0x38383838, 0), 0x40800000) ] = true := by
  decide +kernel

/-- The conversions worked out at the end of the number formats, with the result; the flags follow. -/
def conversions : List (Instr × Nat × Nat × Fl) :=
  let cv := fun (r : Rnd) (sat : Bool) (dst : Fmt) => Instr.cvt h0 ⟨r, sat⟩ .f32 dst ⟨.v 2, .v 4, .k 0, 0⟩
  [ (cv .rne false .f16, 0x477FF000, 0x7C00, 0x14), (cv .rne true .f16, 0x477FF000, 0x7BFF, 0x30), (cv .rtz false .f16, 0x477FF000, 0x7BFF, 0x10),
    (cv .rne false .f16, 0x33400000, 0x0001, 0x18), (cv .rtz false .f16, 0x33400000, 0, 0x18), (cv .rne false .bf16, 0x3F808000, 0x3F80, 0x10),
    (cv .rne false .e4m3, 0x43960000, 0x79, 0x10), (cv .rne false .e4m3, 0x43FA0000, 0x7F, 0x14), (cv .rne true .e4m3, 0x43FA0000, 0x7E, 0x30),
    (cv .rne false .e2m1, 0xC1200000, 0xF, 0x30), (cv .rne false .f16, 0x7FA00000, 0x7E00, 0x01),
    (.f2i h0 .rtz ⟨.w32, true⟩ .f32 f2, 0xC06CCCCD, 0xFFFFFFFD, 0x10), (.f2i h0 .rne ⟨.w32, true⟩ .f32 f2, 0x4F32D05E, 0x7FFFFFFF, 0x01),
    (.i2f h0 ⟨.rne, false⟩ ⟨.w32, false⟩ .f32 f2, 16777217, 0x4B800000, 0x10) ]

/-- The flags of an instruction, raised or pending. -/
def flagsAfter (i : Instr) (s : State) : Option Fl :=
  match exec i s with
  | .next t => some ((t.part 1).pend.foldl (fun f e => f ||| e.flags) (t.part 1).fpstat)
  | _ => none

theorem test_conversions : conversions.all (fun e => decide (v2After e.1 (abc e.2.1 0 0) = some e.2.2.1) &&
    decide (flagsAfter e.1 (abc e.2.1 0 0) = some e.2.2.2)) = true := by decide +kernel

theorem test_packing : gives
  [ (.pk h0 ⟨.rne, false⟩ false .f16 0 f3, (0x3F800000, 0x40000000, 0), 0x40003C00), (.upk h0 .f16 1 false f2, (0x40003C00, 0, 0), 0x40000000),
    (.upk h0 .e2m1 7 true f2, (0xF0000000, 0, 0), 0xF), (.mxd h0 .rne .e4m3 f3, (0xE27C, 0x78, 0), 0xBEA0000040400000) ] = true := by decide +kernel

/-- `mxq` of R255's block: codes 0x7C and 0xE2, scale 0x78, NX. -/
theorem test_mxq : v2After (.mxq h0 .e4m3 (.v 2) (.v 4) (.s 2)) (one (fun p => { p with vregs := regs [(4, 0x40400000), (5, 0xBE99999A)] })) =
      some 0xE27C ∧
    (match exec (.mxq h0 .e4m3 (.v 2) (.v 4) (.s 2)) (one (fun p => { p with vregs := regs [(4, 0x40400000), (5, 0xBE99999A)] })) with
     | .next t => decide ((t.part 1).pend.map (fun e => (e.svals, e.flags)) = [([(2, 0x78)], 0x10)])
     | _ => false) = true := by decide +kernel

/-! ### Lanes, control, memory and system: one step each -/

/-- v1 holds LANEID, predicate 3 holds 0x00F0, s1 is 5. -/
def laned : State :=
  one (fun p => { p with
    vregs := (List.range 16).foldl (fun m l => Store.set 0 m (vkey 1 l) (BitVec.ofNat 32 l)) []
    preds := Store.set 0 [] 3 0x00F0
    sregs := Store.set 0 [] 1 5
    pc := 10 })

def part1 (i : Instr) (s : State) : Part :=
  match exec i s with
  | .next t => t.part 1
  | _ => Part.absent

/-- Register n in lane l after the instruction, written or pending. -/
def lane (i : Instr) (s : State) (n l : Nat) : Nat :=
  let p := part1 i s
  ((p.pend.findSome? (fun e => e.valAt n l)).getD (p.word n l)).toNat

/-- The examples of R235 to R238, and predicates and moves (R230 to R234). -/
theorem test_lanes :
    (List.range 4).map (lane (.shfl h0 .rot 2 false ⟨.v 2, .v 1, .k 1, 0⟩) laned 2) = [1, 2, 3, 0] ∧
    (List.range 5).map (lane (.shfl h0 .back 0 false ⟨.v 2, .v 1, .k 3, 0⟩) laned 2) = [0, 1, 2, 0, 1] ∧
    lane (.prefixScan h0 .add ⟨.w32, false⟩ true .rne ⟨.v 2, .v 1, 0⟩) laned 2 4 = 6 ∧
    lane (.reduce h0 .add ⟨.w32, false⟩ .rne ⟨.v 2, .v 1, 0⟩) laned 2 7 = 120 ∧
    lane (.matchV h0 false ⟨.v 2, .v 1, 0⟩) laned 2 4 = 16 ∧
    (part1 (.cmp h0 ⟨.w32, false⟩ .lt 3 .or ⟨.p 2, .v 1, .k 2, 0⟩) laned).pred 2 = 0x00F3 ∧
    (part1 (.cmp64 h0 true .ge 0 .none ⟨.p 2, .k 1, .k 2, 0⟩) laned).pred 2 = 0 ∧
    (part1 (.fcmp h0 (.uno .lt) 0 .none ⟨.p 2, .i false, .k 2, 0x7FC00000⟩) laned).pred 2 = 0xFFFF ∧
    (part1 (.pand h0 true false ⟨.p 2, .p 3, .p 0, 0⟩) laned).pred 2 = 0xFF0F ∧
    (part1 (.por h0 false true ⟨.p 2, .p 3, .p 0, 0⟩) laned).pred 2 = 0x00F0 ∧
    (part1 (.pxor h0 false false ⟨.p 2, .p 3, .p 0, 0⟩) laned).pred 2 = 0xFF0F ∧
    (part1 (.pnot h0 ⟨.p 0, .p 3, 0⟩) laned).pred 0 = 0xFFFF ∧
    (part1 (.pmov h0 ⟨.s 2, .p 3, 0⟩) laned).uni 2 = 0x00F0 ∧
    (part1 (.vote h0 .count true ⟨.s 2, .p 3, 0⟩) laned).uni 2 = 12 ∧
    (part1 (.vtos h0 false ⟨.s 2, .v 1, .k 23, 0⟩) laned).uni 2 = 7 ∧
    lane (.stov h0 false ⟨.v 1, .k 99, .k 3, 0⟩) laned 1 3 = 99 ∧
    (part1 (.amask ⟨false, 3, false, false, 0⟩ (.s 2)) laned).uni 2 = 0x00F0 := by decide +kernel

/-- `reduce.fadd` of R237's lanes gives +0 and raises NX. -/
theorem test_reduce_fadd :
    let s := one (fun p => { p with
      vregs := Store.set 0 (Store.set 0 (Store.set 0 (Store.set 0 [] (vkey 1 0) 0x4B800000) (vkey 1 1) 0x3F800000) (vkey 1 2)
        0x3F800000) (vkey 1 3) 0xCB800000 })
    lane (.reduce h0 .fadd ⟨.w32, false⟩ .rne ⟨.v 2, .v 1, 0⟩) s 2 0 = 0 ∧
    lane (.prefixScan h0 .fadd ⟨.w32, false⟩ true .rne ⟨.v 2, .v 1, 0⟩) s 2 3 = 0x4B800000 ∧
    flagsAfter (.reduce h0 .fadd ⟨.w32, false⟩ .rne ⟨.v 2, .v 1, 0⟩) s = some 0x10 := by decide +kernel

/-- Where control goes: R221 to R228, and the link of `call 8` at PC 40. -/
theorem test_control :
    (part1 (.br h0 false 0 5) laned).pc = 15 ∧ (part1 (.br h0 true 0 5) laned).pc = 11 ∧
    (part1 (.brd h0 false 0 3 5) laned).pc = 15 ∧ (part1 (.jmp h0 0xFFFFFFFE) laned).pc = 8 ∧
    (part1 (.jmpi h0 (.s 1) 0) laned).pc = 5 ∧ (part1 (.loop h0 1 0xFFFFFFF6) laned).pc = 0 ∧
    (part1 (.loop h0 1 0xFFFFFFF6) laned).uni 1 = 4 ∧ (part1 (.loop h0 2 0xFFFFFFF6) laned).uni 2 = 0xFFFFFFFF ∧
    (let p := part1 (.call h0 1 60) (one (fun p => { p with w := 16, pc := 40 }))
     p.pc = 100 ∧ p.depth = 2 ∧ p.word 7 0 = 0xA5) ∧
    (let p := part1 (.ret h0) (one (fun p => { p with
        w := 16
        pc := 101
        depth := 2
        amask := 1
        vregs := Store.set 0 (Store.set 0 [] (vkey 7 0) 0xA5) (vkey 8 0) 6 }))
     p.pc = 41 ∧ p.depth = 0 ∧ p.word 8 0 = 6) ∧
    (part1 (.calli h0 0 (.k 77) 0) laned).pc = 77 ∧
    (part1 (.wgrow h0 1) (one (fun p => { p with w := 16 }))).w = 24 ∧ (part1 (.wshrink h0 3) laned).w = 8 ∧
    (part1 (.exit ⟨false, 3, false, false, 0⟩) laned).amask = 0xFF0F ∧ (part1 (.exit h0) laned).live = false := by
  decide +kernel

/-- `brd` on lanes that differ divides the part: both ways, one path bit apart. -/
theorem test_split : (match exec (.brd h0 false 3 0 5) laned with
    | .next t => decide ((t.part 1).amask = 0xFF0F ∧ (t.part 1).pc = 11 ∧ (t.part 2).amask = 0x00F0 ∧ (t.part 2).pc = 15)
    | _ => false) = true := by decide +kernel

/-- The system instructions on state of their own (R307 to R319). -/
theorem test_system :
    (part1 (.srd h0 false (.s 2) .amask none) laned).uni 2 = 0xFFFF ∧
    lane (.srd h0 false (.v 2) .laneid none) laned 2 9 = 9 ∧
    (part1 (.swr h0 false .fpctl (.i false) none 0xFF) laned).fpctl = 0x3F ∧
    (part1 (.relax h0 0) laned).relaxTo = 64 ∧ (part1 (.sleep h0 (.k 9) 0) laned).st ≠ .ready ∧
    (part1 (.sleep h0 (.k 0) 0) laned).pc = 11 ∧ (part1 (.twait h0 (.k 0) 0) laned).pc = 11 ∧
    (part1 (.gang h0 (.k 0) 0) laned).pc = 11 ∧ (part1 (.icinv h0 0) laned).pc = 11 ∧
    (part1 (.smark h0 5) laned).pc = 11 ∧ (part1 (.fence h0 .sc .sy false false) laned).pc = 11 ∧
    (part1 (.drain h0) laned).pc = 11 ∧ (part1 (.pass h0 none 0) laned).pc = 11 ∧
    (part1 (.sqkill h0) laned).live = false ∧ (part1 (.tmkill h0) laned).live = false ∧
    (part1 (.brkpt h0 1) laned).live = false := by decide +kernel

/-- The launch with a trap vector at PC 7 and every cause enabled. -/
def vectored (f : Part → Part) : State :=
  (one f).setLaunch (State.lkey 0 1) { placedLaunch with
    header := leBytes 8 0 ++ leBytes 4 12 ++ leBytes 24 0 ++ leBytes 4 7 ++ leBytes 4 0xFFFFFFFF ++ leBytes 20 0 }

/-- `trap 3` enters the handler: TCAUSE 18, TPC = PC + 1, TVA = 3, DEPTH 2 higher, H set; `eret` comes back (R311, R312,
R341). -/
theorem test_trap_and_return :
    (let p := part1 (.trap h0 3) (vectored (fun p => { p with pc := 10 }))
     p.pc = 7 ∧ p.h = true ∧ p.depth = 2 ∧ p.tcause = 18 ∧ p.tpc = 11 ∧ p.tlm = 0xFFFF ∧ Store.get 0 p.tva 5 = 3) ∧
    (let p := part1 (.eret h0) (vectored (fun p => { p with
        pc := 10
        h := true
        depth := 2
        tpc := 30
        tcause := 18 }))
     p.pc = 30 ∧ p.h = false ∧ p.depth = 0) := by decide +kernel

/-- One macro and a READY squad whose v2:v3 names VA 0x100 + 8 × lane; s2 is 0x40. -/
def memory : State :=
  let s := one (fun p => { p with
    vregs := (List.range 16).foldl (fun m l => Store.set 0 m (vkey 2 l) (BitVec.ofNat 32 (0x100 + 8 * l)))
      ((List.range 16).foldl (fun m l => Store.set 0 m (vkey 4 l) (BitVec.ofNat 32 (l + 1))) [])
    sregs := Store.set 0 [] 2 0x40 })
  (s.setTeam 0 { placedTeam with
    mcount := 1
    dmac := 1
    acct := 1
    rings := 1 }).poke 0x108 8 0x1122334455667788

def after (i : Instr) (s : State) : State :=
  match exec i s with
  | .next t => t
  | _ => State.reset

/-- Loads, stores and atomics at VA and in the scratchpad: little-endian, the lanes in ascending order (R258 to R267). -/
theorem test_memory :
    lane (.ld h0 ⟨⟨.w16, true⟩, .plain, .sq⟩ (.v 6) (.v 2) 0) memory 6 1 = 0x7788 ∧
    lane (.ld h0 ⟨⟨.w8, true⟩, .acq, .sy⟩ (.v 6) (.v 2) 0) memory 6 1 = 0xFFFFFF88 ∧
    (after (.st h0 ⟨⟨.w64, false⟩, .plain, .sq⟩ (.v 2) (.v 4) 0) memory).peek 0x118 8 = 4 ∧
    (after (.sts h0 ⟨⟨.w32, false⟩, .plain, .sq⟩ (.s 2) (.v 4) 0) memory).padPeek 0 0x40 4 = 16 ∧
    (after (.atm h0 ⟨.add, .rlx, .sy, false, false⟩ (.v 6) (.v 2) (.v 4) 0) memory).peek 0x108 4 = 0x5566778A ∧
    lane (.atm h0 ⟨.add, .rlx, .sy, false, false⟩ (.v 6) (.v 2) (.v 4) 0) memory 6 1 = 0x55667788 ∧
    lane (.ats h0 ⟨.add, .rlx, .tm, false, false⟩ (.v 6) (.s 2) (.v 4) 0) memory 6 3 = 6 ∧
    (after (.ats h0 ⟨.add, .rlx, .tm, false, false⟩ (.v 6) (.s 2) (.v 4) 0) memory).padPeek 0 0x40 4 = 136 ∧
    (after (.cas h0 ⟨⟨.w32, false⟩, .rlx, .sy⟩ (.v 4) (.v 2) (.k 9) 0) memory).peek 0x100 4 = 0 ∧
    lane (.lds h0 ⟨⟨.w32, false⟩, .plain, .sq⟩ (.v 6) (.s 2) 4) memory 6 0 = 0 ∧
    (after (.stp h0 .w32 (.v 2) (.v 4) 0) memory).mem = memory.mem ∧
    (after (.stp h0 .w32 (.v 2) (.v 4) 0) memory).fab.posted ≠ [] ∧
    (after (.atp h0 ⟨.or, .rlx, .sy, false, false⟩ (.v 2) (.v 4) 0) memory).fab.posted ≠ [] := by decide +kernel

/-! ### Hypotheses that can be met -/

def issuesB (s : State) (h : Hdr) (srcs dsts : List (Opnd × Bool)) (switch : Bool) : Bool :=
  s.current.live && decide (s.current.st = .ready) && s.current.fits (srcs ++ dsts) && decide (s.current.act h ≠ 0) &&
    !s.current.anyDead srcs && (!switch || s.current.pend.isEmpty)

theorem issues_of {s : State} {h : Hdr} {srcs dsts : List (Opnd × Bool)} {switch : Bool}
    (x : issuesB s h srcs dsts switch = true) : Issues s h srcs dsts switch := by
  simp only [issuesB, Bool.and_eq_true, decide_eq_true_eq, Bool.not_eq_true', Bool.or_eq_true, List.isEmpty_iff] at x
  obtain ⟨⟨⟨⟨⟨a, b⟩, c⟩, d⟩, e⟩, f⟩ := x
  exact ⟨a, b, c, d, fun _ => e, fun h => by simpa [h] using f⟩

/-- A READY squad with half the lanes in every predicate. -/
def full : State :=
  one (fun p => { p with preds := (List.range 7).foldl (fun m n => Store.set 0 m (n + 1) 0x00FF) [] })

/-- The instructions of a table of words. -/
def instrs (l : List (Nat × Instr)) : List Instr := l.map Prod.snd

theorem witness_DecodeEncode : ∀ e ∈ words0 ++ words7 ++ words9 ++ wordsB, e.2.hasWord = true ∧ e.2.wf = true := by
  decide +kernel

theorem witness_EncodeDecode : (2 ^ 84 : Nat) < 2 ^ 96 ∧
    decode (2 ^ 84 + 2 ^ 81) = .ok (.nop ⟨false, 4, true, false, 0⟩) ∧ decode 0 = .ok (.nop h0) := by decide +kernel

/-- A word where the next step fetches. -/
def at96 (w : Nat) : State := State.reset.withFetchWord 96 w

theorem reaches_at96 {w : Nat} (a : ((at96 w).urgent = none ∧ (at96 w).duty = none) ∧
      ((issued (at96 w) 1 w).urgent = none ∧ (issued (at96 w) 1 w).duty = none) ∧ (at96 w).sched = [] ∧ (at96 w).turn = false ∧
      (at96 w).dyingPart = none ∧ (at96 w).nextPart = some (1, (at96 w).part 1) ∧ ((at96 w).part 1).trapq = none ∧
      ((at96 w).part 1).defer = 0 ∧
      ((at96 w).part 1).tmHit = none ∧ (at96 w).heldPart ((at96 w).part 1) = false ∧ ((at96 w).part 1).mi.denied = [] ∧
      (at96 w).fetch 1 = .word w) : Reaches (at96 w) 1 w :=
  let ⟨b, c, d, e, f, g, h, i, j, k, l, m⟩ := a
  ⟨b, c, d, e, f, g, h, i, j, .inl k, l, m⟩

theorem witness_StepRunsDecoded :
    Reaches (at96 0x006D0000_01402A00_0000012C) 1 0x006D0000_01402A00_0000012C ∧ Reaches (at96 0) 1 0 ∧
    decode 0 = .ok (.nop h0) :=
  ⟨reaches_at96 (by decide +kernel), reaches_at96 (by decide +kernel), by decide +kernel⟩

theorem witness_StepTrapsUndecoded :
    Reaches (at96 (2 ^ 95 + 2 ^ 94)) 1 (2 ^ 95 + 2 ^ 94) ∧ decode (2 ^ 95 + 2 ^ 94) = .illegalOpcode ∧
    Reaches (at96 1) 1 1 ∧ decode 1 = .illegalEncoding :=
  ⟨reaches_at96 (by decide +kernel), by decide +kernel, reaches_at96 (by decide +kernel), by decide +kernel⟩

theorem witness_StepPerformsScheduled :
    let s := { at96 0 with sched := [.domainForm [0]] }
    s.urgent = none ∧ s.duty = none ∧ s.sched = [.domainForm [0]] ∧ (Instr.domainForm [0]).hasWord = false := by decide +kernel

theorem witness_MemoryCanonicalStep :
    Store.wf 0 (at96 1).mem = true ∧ (match step (at96 1) with | .next _ => true | _ => false) = true := by decide +kernel

theorem witness_CanonicalUnique : Store.wf 0 ([(3, 1), (4, 255)] : Store Byte) = true := by decide +kernel

/-- A completion statement's hypotheses on `s` for an instruction of its table. -/
def meets (spec : Instr → Option RegSpec) (s : State) (i : Instr) : Bool :=
  i.wf && (match spec i with | some r => issuesB s r.h r.srcs r.dsts false | none => false)

theorem meets_of {spec : Instr → Option RegSpec} {s : State} {i : Instr} (h : meets spec s i = true) :
    ∃ r, i.wf = true ∧ spec i = some r ∧ Issues s r.h r.srcs r.dsts false := by
  unfold meets at h
  rw [Bool.and_eq_true] at h
  cases e : spec i with
  | none => simp [e] at h
  | some r => exact ⟨r, h.1, rfl, issues_of (by simpa [e] using h.2)⟩

/-- Every word of class 0 but `addc` and `subb`, and every word of class 1. -/
theorem witness_IntegerResults :
    (∀ i ∈ (instrs words0).filter (fun i => (intSpec i).isSome), meets intSpec full i = true) ∧
    ((instrs words0).filter (fun i => (intSpec i).isSome)).length = 24 ∧
    (∀ i ∈ instrs words1, meets logicSpec full i = true) := by decide +kernel

theorem witness_CarryResults :
    (Instr.addc h0 ⟨.v 2, .v 0, .v 1, .p 0⟩).wf = true ∧ issuesB full h0 [(.v 0, false), (.v 1, false)] [(.v 2, false)] false = true ∧
    decode 0x00C00000_00800004_00000002 = .illegalEncoding ∧
    decode (0b0000_000011_0_000_0_0_000000_0000000000_0000000010_0000000000_0000000001_00_00000000000000000000000100000000) =
      .ok (.addc h0 ⟨.v 2, .v 0, .v 1, .p 0⟩) ∧
    decode (0b0000_000100_0_000_0_0_000000_0000000000_0000000010_0010000011_1100000001_00_00000000000000000000000100000110) =
      .ok (.subb h0 ⟨.v 2, .s 3, .k 1, .p 6⟩) := by decide +kernel

def meetsP (spec : Instr → Option PredSpec) (s : State) (i : Instr) : Bool :=
  i.wf && (match spec i with | some r => issuesB s r.h r.srcs [] false | none => false)

theorem witness_PredicateResults :
    (∀ i ∈ (instrs words2).take 7, meetsP predSpec full i = true) ∧
    meetsP predCopySpec full (.pmov h0 ⟨.p 1, .k 5, 0⟩) = true ∧
    meetsP predCopySpec full (.vote h0 .each true ⟨.p 7, .p 2, 0⟩) = true := by decide +kernel

theorem witness_LaneResults :
    (∀ i ∈ [Instr.vote h0 .count true ⟨.v 1, .p 2, 0⟩, .vote h0 .some false ⟨.s 15, .p 7, 0⟩, .pmov h0 ⟨.s 1, .p 2, 0⟩,
      .vtos h0 true ⟨.s 2, .v 4, .s 1, 0⟩, .amask (hp false 3 0) (.s 1)], meets laneSpec full i = true) ∧
    (Instr.stov h0 true ⟨.v 30, .k 1, .k 15, 0⟩).wf = true ∧
    issuesB full h0 [(.k 1, true), (.k 15, false)] [(.v 30, true)] false = true := by decide +kernel

theorem witness_FloatResults :
    (∀ i ∈ (instrs words4).filter (fun i => (floatSpec i).isSome), meets floatSpec full i = true) ∧
    ((instrs words4).filter (fun i => (floatSpec i).isSome)).length = 14 ∧
    (∀ i ∈ instrs words5, meets packedSpec full i = true) ∧
    (∀ i ∈ [Instr.cvt h0 ⟨.rtz, true⟩ .f32 .f16 ⟨.v 1, .v 2, .k 8, 0⟩, .i2f h0 ⟨.rup, true⟩ ⟨.w64, true⟩ .bf16 ⟨.v 1, .v 2, 0⟩,
      .f2i h0 .rdn ⟨.w64, false⟩ .f16 ⟨.v 30, .v 2, 0⟩, .pk h0 ⟨.rne, true⟩ false .bf16 0 ⟨.v 1, .v 2, .v 3, 0⟩,
      .upk h0 .f16 1 true ⟨.v 1, .v 2, 0⟩], meets convertSpec full i = true) := by decide +kernel

theorem witness_LongResults :
    (∀ i ∈ [Instr.shfl h0 .mirr 2 true ⟨.v 2, .v 4, .k 3, 0⟩, .prefixScan h0 .fadd ⟨.w32, false⟩ true .rdn ⟨.v 1, .v 2, 0⟩,
      .reduce h0 .min ⟨.w64, true⟩ .rne ⟨.s 2, .v 4, 0⟩, .matchV h0 true ⟨.v 1, .v 2, 0⟩, .frcp h0 ⟨.rtz, true⟩ ⟨.v 1, .v 1, 0⟩,
      .frsq h0 ⟨.rne, true⟩ ⟨.v 1, .v 31, 0⟩, .fexp2 h0 ⟨.rne, true⟩ ⟨.s 1, .s 15, 0⟩, .flog2 h0 ⟨.rne, true⟩ ⟨.v 1, .k 127, 0⟩,
      .cvt h0 ⟨.rtz, true⟩ .f32 .e2m1 ⟨.v 1, .v 2, .k 56, 0⟩, .pk h0 ⟨.rne, true⟩ false .e4m3 1 ⟨.v 1, .v 2, .v 3, 0⟩,
      .upk h0 .e3m2 3 true ⟨.v 1, .v 2, 0⟩, .mxd h0 .rup .e5m2 ⟨.v 4, .v 2, .s 3, 0⟩], meets longSpec full i = true) ∧
    (Instr.mxq h0 .e2m3 (.v 1) (.v 2) (.s 3)).wf = true ∧ issuesB full h0 [(.v 2, true)] [(.v 1, false)] false = true := by
  decide +kernel

theorem witness_PendingLands :
    let e : Pend := ⟨7, [(3, 15, 9), (4, 0, 8)], [(2, 1)], 16, [(3, 15)], false, .free⟩
    let s := one (fun p => { p with pend := [e], st := .switched })
    (s.part 1).pend[0]? = some e ∧ s.msg e.id = none ∧ e.cond = .free ∧ (∀ d ∈ (s.part 1).pend.take 0, d.clash e = false) ∧
      (e.vals.map (fun v => vkey v.1 v.2.1)).Nodup ∧ (e.svals.map Prod.fst).Nodup := by decide +kernel

/-- The huddle 3 of the squad stands open at level 0; the part's SPLIT depth is `d`. -/
def huddled (opened : Bool) (d : Word) : State :=
  let s := one (fun p => { p with
    preds := Store.set 0 [] 1 0x00FF
    split := d })
  s.setHuddle (s.part 1) 3 ⟨0xFFFF, 0, 0, 0, false, opened, 0⟩

theorem not_uniform {p : Part} {c : Word} {a : Opnd} {m : Mask} (l j : Nat) (hl : l < 16) (hj : j < 16)
    (ml : m.getLsbD l = true) (mj : m.getLsbD j = true)
    (h : BitVec.ofNat 32 (p.val c false a l) ≠ BitVec.ofNat 32 (p.val c false a j)) : ∀ x, ¬ Uniform p c a m x :=
  fun _ u => h ((u l hl ml).trans (u j hj mj).symm)

/-- `br` and `jmpi` at each outcome, `loop` with and without a lane. -/
theorem witness_BranchResults :
    issuesB full h0 [] [] false = true ∧
    (taking full.current (full.current.act h0) false 0 = full.current.act h0) ∧
    (taking full.current (full.current.act h0) true 0 = 0) ∧
    (taking full.current (full.current.act h0) false 1 ≠ full.current.act h0 ∧
      taking full.current (full.current.act h0) false 1 ≠ 0) ∧
    issuesB full h0 [(.k 5, false)] [] false = true ∧ Uniform full.current 0 (.k 5) (full.current.act h0) 5 ∧
    (Instr.jmpi h0 (.v 1) 0).wf = true ∧ issuesB laned h0 [(.v 1, false)] [] false = true ∧
    (∀ x, ¬ Uniform laned.current 0 (.v 1) (laned.current.act h0) x) ∧
    (full.current.live = true ∧ full.current.st = .ready ∧ (one id).current.act (hp false 1 0) = 0) := by
  refine ⟨by decide +kernel, by decide +kernel, by decide +kernel, by decide +kernel, by decide +kernel, ?_,
    by decide +kernel, by decide +kernel, ?_, by decide +kernel⟩
  · unfold Uniform
    decide +kernel
  · exact not_uniform 0 15 (by decide) (by decide) (by decide +kernel) (by decide +kernel) (by decide +kernel)

theorem witness_DivergenceResults :
    issuesB full h0 [] [] true = true ∧
    (let s := huddled false 0
     let c := taking s.current (s.current.act h0) false 1
     issuesB s h0 [] [] true = true ∧ c ≠ s.current.act h0 ∧ c ≠ 0 ∧ (s.huddle s.current 3).isOpen = false ∧
       s.current.split.toNat % 16 < 15) ∧
    (let s := huddled true 1
     issuesB s h0 [] [] true = true ∧ (s.huddle s.current 3).isOpen = true ∧
       (s.huddle s.current 3).level + 1 = s.current.split.toNat % 16) ∧
    (let s := huddled true 15
     issuesB s h0 [] [] true = true ∧ (s.huddle s.current 3).isOpen = true ∧
       (s.huddle s.current 3).level + 1 ≠ s.current.split.toNat % 16) ∧
    (let s := huddled false 15
     issuesB s h0 [] [] true = true ∧ (s.huddle s.current 3).isOpen = false ∧ s.current.split.toNat % 16 = 15) ∧
    (full.current.act h0 = full.current.amask) ∧
    (issuesB full (hp false 1 0) [] [] true = true ∧ full.current.act (hp false 1 0) ≠ full.current.amask) := by
  decide +kernel

/-- An earlier growth request waits on the core of part 1. -/
def crowded (s : State) : State := s.setPart 2 { s.part 1 with st := .growing 1 16 0 false, ask := 1 }

/-- A growth request of the current part is met, and leaves it where it stood. -/
def grants (s : State) (d w f : Nat) (pre : Part → Part) : Bool :=
  match s.growTo s.cur d w f pre with
  | .met t => t.current.live && decide (t.cur = s.cur ∧ t.current.depth = s.current.depth ∧ t.current.w = s.current.w ∧
      t.current.amask = s.current.amask ∧ t.current.pc = s.current.pc)
  | .held _ => false

/-- It waits. -/
def holdsBack (s : State) (d w f : Nat) (pre : Part → Part) : Bool :=
  match s.growTo s.cur d w f pre with
  | .met _ => false
  | .held _ => true

theorem room_of {s : State} {pid d w : Nat} {pre : Part → Part} (h : s.growAhead (s.part pid) = false ∧
    (s.setPart pid (State.asking (pre (s.part pid)) d w 0)).usedGroups (s.part pid).unit (s.part pid).core ≤ 2048) :
    Room s pid d w pre := ⟨h.1, h.2⟩

/-- A part with DEPTH `d` whose caller left the link `x` in every lane. -/
def linked (d : Nat) (x : Word) (f : Part → Part) : State :=
  one (fun p => f { p with
    w := 16
    depth := d
    preds := Store.set 0 [] 1 0x00FF
    vregs := (List.range 16).foldl (fun m l => Store.set 0 m (vkey (4 * d - 1) l) x) [] })

theorem witness_CallResults :
    (4 * ((3 : Fin 4).val + 1) ≤ (linked 1 0 id).current.w ∧ issuesB (linked 1 0 id) h0 [] [] true = true ∧
      (linked 1 0 id).current.act h0 = (linked 1 0 id).current.amask ∧
      issuesB (linked 1 0 id) h0 [(.k 5, false)] [] true = true ∧
      issuesB (linked 1 0 id) (hp false 1 0) [] [] true = true ∧
      (linked 1 0 id).current.act (hp false 1 0) ≠ (linked 1 0 id).current.amask) ∧
    SlideFits (linked 1 0 id).current 3 ∧ SlideFits (linked 249 0 id).current 3 ∧
    (let pre := Part.linked 16 (linkOf (linked 1 0 id).current 3)
     Room (linked 1 0 id) 1 5 16 pre ∧ grants (linked 1 0 id) 5 16 0 pre = true ∧
       holdsBack (crowded (linked 1 0 id)) 5 16 0 pre = true) ∧
    issuesB (crowded (linked 1 0 id)) h0 [] [] true = true ∧
    Uniform (linked 1 0 id).current 0 (.k 5) (linked 1 0 id).current.amask 5 ∧
    (Instr.calli h0 3 (.v 1) 0).wf = true ∧ (∀ x, ¬ Uniform laned.current 0 (.v 1) laned.current.amask x) ∧
    (let p := (linked 250 0 id).current
     (p.spillu * 65536 - 256) / 256 - 2 < p.depth + (3 : Fin 4).val + 1) ∧
    (let p := (linked 1 0 (fun p => { p with pc := 0x3FFFFFFF })).current
     p.depth + (3 : Fin 4).val + 1 ≤ (p.spillu * 65536 - 256) / 256 - 2 ∧ 2 ^ 30 ≤ p.pc.toNat + 1) ∧
    (let p := (linked 2 5 id).current
     let link := (p.readAbs (4 * p.depth - 1) ((lanesOf p.amask).headD 0)).toNat
     p.act h0 = p.amask ∧ p.depth ≠ 0 ∧ p.resLo ≤ p.depth - 1 ∧ link = 5 ∧
       (∀ l, l < 16 → p.amask.getLsbD l = true → (p.readAbs (4 * p.depth - 1) l).toNat = link) ∧ link % 4 + 1 ≤ p.depth ∧
       p.resLo ≤ p.depth - (link % 4 + 1)) ∧
    (full.current.act h0 = full.current.amask ∧ full.current.depth = 0) ∧
    (let p := (linked 2 5 (fun p => { p with resLo := 2 })).current
     p.act h0 = p.amask ∧ p.depth ≠ 0 ∧ p.depth - 1 < p.resLo) ∧
    grants (linked 2 5 (fun p => { p with resLo := 2 })) 2 16 1 id = true ∧
    holdsBack (crowded (linked 2 5 (fun p => { p with resLo := 2 }))) 2 16 1 id = true ∧
    (let p := (linked 1 5 id).current
     let link := (p.readAbs (4 * p.depth - 1) ((lanesOf p.amask).headD 0)).toNat
     p.depth ≠ 0 ∧ p.resLo ≤ p.depth - 1 ∧ p.depth < link % 4 + 1) ∧
    (let p := (linked 2 5 (fun p => { p with resLo := 1 })).current
     let link := (p.readAbs (4 * p.depth - 1) ((lanesOf p.amask).headD 0)).toNat
     p.resLo ≤ p.depth - 1 ∧ link % 4 + 1 ≤ p.depth ∧ p.depth - (link % 4 + 1) < p.resLo ∧
       ∀ l, l < 16 → p.amask.getLsbD l = true → (p.readAbs (4 * p.depth - 1) l).toNat = link) ∧
    (let p := (linked 2 5 (fun p => { p with vregs := Store.set 0 p.vregs (vkey 7 3) 9 })).current
     p.depth ≠ 0 ∧ p.resLo ≤ p.depth - 1 ∧ (p.readAbs 7 3).toNat ≠ (p.readAbs 7 0).toNat) := by
  refine ⟨by decide +kernel, ⟨by decide +kernel, by decide +kernel, by decide +kernel⟩,
    ⟨by decide +kernel, by decide +kernel, by decide +kernel⟩,
    ⟨room_of (by decide +kernel), by decide +kernel, by decide +kernel⟩, by decide +kernel, ?_, by decide +kernel, ?_,
    by decide +kernel⟩
  · unfold Uniform
    decide +kernel
  · exact not_uniform 0 15 (by decide) (by decide) (by decide +kernel) (by decide +kernel) (by decide +kernel)

theorem witness_WindowResults :
    issuesB (linked 1 0 id) h0 [] [] true = true ∧ (linked 1 0 id).current.act h0 = (linked 1 0 id).current.amask ∧
    (linked 1 0 id).current.w + 8 * (2 : Fin 4).val ≤ 32 ∧ 8 + 8 * (1 : Fin 4).val ≤ (linked 1 0 id).current.w ∧
    Room (linked 1 0 id) 1 1 32 id ∧ holdsBack (crowded (linked 1 0 id)) 1 32 0 id = true ∧
    issuesB (crowded (linked 1 0 id)) h0 [] [] true = true ∧
    32 < (linked 1 0 id).current.w + 8 * (3 : Fin 4).val ∧ (linked 1 0 id).current.w < 8 + 8 * (2 : Fin 4).val ∧
    (linked 1 0 id).current.act (hp false 1 0) ≠ (linked 1 0 id).current.amask ∧
    issuesB (linked 1 0 id) (hp false 1 0) [] [] true = true :=
  ⟨by decide +kernel, by decide +kernel, by decide +kernel, by decide +kernel, room_of (by decide +kernel), by decide +kernel⟩

theorem begins_of {s : State} (h : s.current.umask = 0 ∧ s.current.mi = MemOp.idle ∧ s.current.sample = none) : Begins s :=
  ⟨h.1, h.2.1, h.2.2⟩

theorem unhindered_of {s : State} {rel clears : Bool} (h : s.current.held = false ∧ (s.current.pend = [] ∧ s.outstanding s.cur = [] ∧
      s.current.rmHold ≤ (s.tickAt s.current.unit).toNat) ∧ s.current.restartable = false ∧
      s.postedAhead s.cur s.current.unit = false ∧ s.following s.current.prt s.current.unit = []) : Unhindered s rel clears :=
  ⟨h.1, fun _ => h.2.1, fun _ => h.2.2.1, h.2.2.2.1, h.2.2.2.2⟩

/-- The squad of `memory` may begin a memory instruction of any order. -/
theorem memory_ready : Begins memory ∧ ∀ rel clears, Unhindered memory rel clears :=
  ⟨begins_of (by decide +kernel), fun _ _ => unhindered_of (by decide +kernel)⟩

/-- Lane l of `memory` reaches SPA 0x100 + 8 × l. -/
def addrM (d : Opnd) (l : Nat) : DWord := BitVec.ofNat 64 (memory.current.val 0 true d l) + BitVec.signExtend 64 (0 : Word)
def spaM (l : Nat) : Nat := 0x100 + 8 * l

theorem resolvedM (k : AKind) (w : Nat) (h : (∀ l, l < 16 → memory.checkLane 1 memory.current ⟨k, false⟩ w (addrM (.v 2) l).toNat =
      .ok (spaM l) 0)) : Resolved memory k w (memory.current.act h0) (addrM (.v 2)) spaM (fun _ => 0) :=
  ⟨fun l hl _ => h l hl, by decide +kernel, by decide +kernel⟩

theorem padM (w : Nat) (o : Nat) (h : ((∀ l, l < 16 → (BitVec.ofNat 64 (memory.current.val 0 false (.s 2) l) +
        BitVec.signExtend 64 (BitVec.ofNat 32 o)).toNat % w = 0) ∧ (∀ l, l < 16 →
      0 ≤ (BitVec.ofNat 64 (memory.current.val 0 false (.s 2) l) + BitVec.signExtend 64 (BitVec.ofNat 32 o)).toInt ∧
      (BitVec.ofNat 64 (memory.current.val 0 false (.s 2) l) + BitVec.signExtend 64 (BitVec.ofNat 32 o)).toNat + w ≤
        (memory.team memory.current.team).mcount * 65536)) ∧ (∀ l, l < 16 → (memory.team memory.current.team).stationary
      ((BitVec.ofNat 64 (memory.current.val 0 false (.s 2) l) + BitVec.signExtend 64 (BitVec.ofNat 32 o)).toNat / 65536) = false)) :
    PadResolved memory w (memory.current.act h0)
      (fun l => BitVec.ofNat 64 (memory.current.val 0 false (.s 2) l) + BitVec.signExtend 64 (BitVec.ofNat 32 o)) :=
  ⟨by decide +kernel, fun l hl _ => h.1.1 l hl, fun l hl _ => h.1.2 l hl, fun l hl _ => h.2 l hl⟩

theorem witness_LoadResults :
    (Instr.ld h0 ⟨⟨.w64, false⟩, .sc, .sy⟩ (.v 6) (.v 2) 0).wf = true ∧
    issuesB memory h0 [(.v 2, true)] [(.v 6, true)] false = true ∧
    Resolved memory .load 8 (memory.current.act h0) (addrM (.v 2)) spaM (fun _ => 0) ∧
    Sound memory (memory.current.act h0) spaM ∧ memory.memKey = [] ∧
    (Instr.lds h0 ⟨⟨.w64, false⟩, .acq, .tm⟩ (.v 6) (.s 2) 0xFFB8).wf = true ∧
    issuesB memory h0 [(.s 2, false)] [(.v 6, true)] false = true ∧
    PadResolved memory 8 (memory.current.act h0)
      (fun l => BitVec.ofNat 64 (memory.current.val 0 false (.s 2) l) + BitVec.signExtend 64 (BitVec.ofNat 32 0xFFB8)) ∧
    PadSound memory (memory.current.act h0)
      (fun l => BitVec.ofNat 64 (memory.current.val 0 false (.s 2) l) + BitVec.signExtend 64 (BitVec.ofNat 32 0xFFB8)) := by
  refine ⟨by decide +kernel, by decide +kernel, resolvedM _ _ (by decide +kernel), ?_, rfl, by decide +kernel, by decide +kernel,
    padM _ _ (by decide +kernel), ?_⟩
  · unfold Sound
    decide +kernel
  · unfold PadSound
    decide +kernel

theorem witness_StoreResults :
    (Instr.st h0 ⟨⟨.w64, false⟩, .rel, .sy⟩ (.v 2) (.v 4) 0).wf = true ∧
    issuesB memory h0 [(.v 2, true), (.v 4, true)] [] false = true ∧
    Resolved memory .store 8 (memory.current.act h0) (addrM (.v 2)) spaM (fun _ => 0) ∧
    OneKey memory (memory.current.act h0) spaM (fun _ => 0) 0x17F ∧
    (Instr.sts h0 ⟨⟨.w32, false⟩, .rel, .tm⟩ (.s 2) (.v 4) 0xFFBC).wf = true ∧
    issuesB memory h0 [(.s 2, false), (.v 4, false)] [] false = true ∧
    PadResolved memory 4 (memory.current.act h0)
      (fun l => BitVec.ofNat 64 (memory.current.val 0 false (.s 2) l) + BitVec.signExtend 64 (BitVec.ofNat 32 0xFFBC)) :=
  ⟨by decide +kernel, by decide +kernel, resolvedM _ _ (by decide +kernel), ⟨1, by decide +kernel⟩, by decide +kernel,
    by decide +kernel, padM _ _ (by decide +kernel)⟩

theorem witness_AtomicResults :
    (Instr.atm h0 ⟨.max, .sc, .sy, true, true⟩ (.v 6) (.v 2) (.v 4) 0).wf = true ∧
    issuesB memory h0 [(.v 2, true), (.v 4, true)] [(.v 6, true)] false = true ∧
    Resolved memory .atomic 8 (memory.current.act h0) (addrM (.v 2)) spaM (fun _ => 0) ∧
    Resolved memory .atomic 4 (memory.current.act h0) (addrM (.v 2)) spaM (fun _ => 0) ∧
    Sound memory (memory.current.act h0) spaM ∧ Apart (memory.current.act h0) spaM 8 ∧ Apart (memory.current.act h0) spaM 4 ∧
    (∀ l i, l < 16 → (memory.current.act h0).getLsbD l = true → i < 8 →
      OneKey memory (memory.current.act h0) spaM (fun _ => 0) (spaM l + i)) ∧
    (Instr.cas h0 ⟨⟨.w32, false⟩, .ar, .sy⟩ (.v 8) (.v 2) (.v 4) 0).wf = true ∧
    issuesB memory h0 [(.v 2, true), (.v 4, false), (.v 8, false)] [(.v 8, false)] false = true ∧
    (Instr.ats h0 ⟨.fmin, .rlx, .tm, false, false⟩ (.v 8) (.s 2) (.v 4) 0xFFBC).wf = true ∧
    issuesB memory h0 [(.s 2, false), (.v 4, false)] [(.v 8, false)] false = true ∧
    PadResolved memory 4 (memory.current.act h0)
      (fun l => BitVec.ofNat 64 (memory.current.val 0 false (.s 2) l) + BitVec.signExtend 64 (BitVec.ofNat 32 0xFFBC)) := by
  refine ⟨by decide +kernel, by decide +kernel, resolvedM _ _ (by decide +kernel), resolvedM _ _ (by decide +kernel), ?_, ?_, ?_,
    ?_, by decide +kernel, by decide +kernel, by decide +kernel, by decide +kernel, padM _ _ (by decide +kernel)⟩
  · unfold Sound
    decide +kernel
  · unfold Apart spaM
    omega
  · unfold Apart spaM
    omega
  · intro l i _ _ _
    have h : ∀ b, memory.tagAt b = 0 := fun b => rfl
    exact ⟨1, fun l hl _ _ => ⟨(by decide +kernel : ∀ l, l < 16 → memory.keyAt (spaM l) memory.current.prt 0 = 1) l hl, .inl (h _)⟩⟩

theorem witness_PostedResults :
    memory.current.held = false ∧ (∀ x ∈ memory.outHomes memory.cur, x ∈ [0]) ∧ (∀ l, l < 16 → spaUnit (spaM l) ∈ [0]) ∧
    (Instr.stp h0 .w64 (.v 2) (.v 4) 0).wf = true ∧ issuesB memory h0 [(.v 2, true), (.v 4, true)] [] false = true ∧
    (∀ l, l < 16 → memory.checkLane memory.cur memory.current ⟨.posted, false⟩ 8 (addrM (.v 2) l).toNat = .ok (spaM l) 0) ∧
    (Instr.atp h0 ⟨.add, .rlx, .sy, true, false⟩ (.v 2) (.v 4) 0).wf = true ∧ memory.current.restartable = false ∧
    (∀ l, l < 16 → memory.checkLane memory.cur memory.current ⟨.posted, true⟩ 8 (addrM (.v 2) l).toNat = .ok (spaM l) 0) := by
  decide +kernel

/-- Every address of `memory`, and every offset, plus 3 is misaligned for 4 and 8 bytes. -/
theorem witness_MisalignedTraps :
    (∀ i ∈ [Instr.ld h0 ⟨⟨.w64, false⟩, .plain, .sq⟩ (.v 6) (.v 2) 3, .lds h0 ⟨⟨.w64, false⟩, .plain, .sq⟩ (.v 6) (.s 2) 3,
      .st h0 ⟨⟨.w64, false⟩, .rel, .sy⟩ (.v 2) (.v 4) 3, .sts h0 ⟨⟨.w64, false⟩, .plain, .sq⟩ (.s 2) (.v 4) 3,
      .cas h0 ⟨⟨.w32, false⟩, .ar, .sy⟩ (.v 8) (.v 2) (.v 4) 3, .atm h0 ⟨.add, .rlx, .sy, true, false⟩ (.v 6) (.v 2) (.v 4) 3,
      .ats h0 ⟨.add, .rlx, .tm, false, false⟩ (.v 6) (.s 2) (.v 4) 3, .atp h0 ⟨.add, .rlx, .sy, true, false⟩ (.v 2) (.v 4) 3,
      .stp h0 .w64 (.v 2) (.v 4) 3, .rwr h0 .w64 (.v 2) (.v 4) 3, .rrd h0 ⟨.w64, false⟩ (.v 6) (.v 2) 3], i.wf = true) ∧
    (issuesB memory h0 [(.v 2, true)] [(.v 6, true)] true = true ∧ issuesB memory h0 [(.s 2, false)] [(.v 6, true)] false = true ∧
      issuesB memory h0 [(.v 2, true), (.v 4, true)] [(.v 6, true)] false = true ∧
      issuesB memory h0 [(.v 2, true), (.v 4, false), (.v 8, false)] [(.v 8, false)] false = true ∧
      issuesB memory h0 [(.s 2, false), (.v 4, true)] [(.v 6, false)] false = true) ∧
    (∀ rel clears, Untied memory rel clears) ∧ (memory.outHomes memory.cur).length ≤ 16 ∧
    (∀ l, l < 16 → (memory.current.act h0).getLsbD l = true →
      (BitVec.ofNat 64 (memory.current.val 0 true (.v 2) l) + BitVec.signExtend 64 (3 : Word)).toNat % 8 ≠ 0 ∧
      (BitVec.ofNat 64 (memory.current.val 0 false (.s 2) l) + BitVec.signExtend 64 (3 : Word)).toNat % 4 ≠ 0) :=
  ⟨by decide +kernel, by decide +kernel,
    fun rel clears => ⟨(memory_ready.2 rel clears).loose, (memory_ready.2 rel clears).release, (memory_ready.2 rel clears).clear⟩,
    by decide +kernel, by decide +kernel⟩

/-- `memory` with a posted request of the squad in flight to stack 0. -/
def posting : State :=
  { after (.stp h0 .w32 (.v 2) (.v 4) 0) memory with cur := 1 }

theorem witness_FenceResults :
    (issuesB full h0 [] [] false = true ∧ full.current.held = false ∧ full.outstanding full.cur = [] ∧
      full.deferComing full.cur = false ∧ full.current.rmHold ≤ (full.tickAt full.current.unit).toNat) ∧
    (let s := one (fun p => { p with pend := [⟨9, [], [], 0, [], true, .release⟩] })
     issuesB s h0 [] [] false = true ∧ s.current.held = true) ∧
    (issuesB posting h0 [] [] false = true ∧ posting.current.held = false ∧ posting.outstanding posting.cur ≠ [] ∧
      posting.current.flushed = false) ∧
    (∀ c ∈ [PCond.release, .icinv 3, .reads],
      let e : Pend := ⟨9, [], [], 0, [], true, c⟩
      let s := one (fun p => { p with pend := [e] })
      (s.part 1).pend[0]? = some e ∧ s.msg e.id = none ∧ (s.part 1).pend.take 0 = [] ∧ s.outstanding 1 = [] ∧
        (s.part 1).rmHold ≤ (s.tickAt (s.part 1).unit).toNat) ∧
    (let e : Pend := ⟨9, [], [], 0, [], true, .release⟩
     let s := one (fun p => { p with pend := [⟨8, [(3, 0, 7)], [], 0, [], false, .free⟩, e] })
     (s.part 1).pend[1]? = some e ∧ s.msg e.id = none ∧ (s.part 1).pend.take 1 ≠ []) := by decide +kernel


/-- `memory` with page 1 of the squad on stack 1, where the squad runs when `gone`. -/
def away (gone : Bool) : State :=
  let s := memory.setPart 1 { memory.current with unit := if gone then 1 else 0 }
  let t := (s.setPartition 0 { s.partition 0 with homes := [(0, 3)] }).setL1 (if gone then 1 else 0) 0 [⟨0, false, 16, 1, 2 ^ 45, true, true, true, false, 0, false, true, 0⟩, placedTlb]
  { t with keys := Store.set 0 t.keys (State.keyIx (2 ^ 45) 0 0) 1 }

theorem witness_PassResults :
    Begins full ∧ issuesB full h0 [] [] false = true ∧ full.current.base = full.current.unit ∧
    Begins (away true) ∧ issuesB (away true) h0 [] [] false = true ∧ (away true).current.base ≠ (away true).current.unit ∧
      (away true).liveMask 1 63 = .inl 0xFFFFFFFF ∧
    issuesB memory h0 [(.s 2, true)] [] false = true ∧
      memory.checkLane 1 memory.current ⟨.pass, false⟩ 1 0x40 = .ok 0x40 0 ∧ spaUnit 0x40 = memory.current.unit ∧
    Begins (away false) ∧ issuesB (away false) h0 [(.s 2, true)] [] false = true ∧
      (away false).checkLane 1 (away false).current ⟨.pass, false⟩ 1
        (BitVec.ofNat 64 ((away false).current.val 0 true (.s 2) 0) + BitVec.signExtend 64 (0x10000 : Word)).toNat =
          .ok (2 ^ 45 + 0x40) 0 ∧
      spaUnit (2 ^ 45 + 0x40) ≠ (away false).current.unit ∧
      (let s := away false
       let va := BitVec.ofNat 64 (s.current.val 0 true (.s 2) 0) + BitVec.signExtend 64 (0x10000 : Word)
       (((s.mapPart s.cur (fun p => { p with
         mi := ⟨true, [(0, va)], [], [], false⟩
         umask := 1 })).clearXlats (.part s.cur)).touchLanes s.current [(0, va.toNat)]).liveMask s.cur 0 = .inl 0xFFFFFFFF) :=
  ⟨begins_of (by decide +kernel), by decide +kernel, by decide +kernel, begins_of (by decide +kernel), by decide +kernel,
    by decide +kernel, by decide +kernel, by decide +kernel, by decide +kernel, by decide +kernel, begins_of (by decide +kernel),
    by decide +kernel⟩

theorem witness_SpecialReads :
    (∀ r ∈ [SReg.laneid, .sqid, .teamid, .teamx, .teamy, .teamz, .launchid, .stackid, .partid, .amask, .gang, .ticklo,
        .tickhi, .fpstat, .fpctl, .tcause, .tpc, .tlm, .sfqhead, .sfqcount],
      (Instr.srd h0 false (.v 2) r none).wf = true) ∧
    (Instr.srd h0 true (.s 14) .ticklo none).wf = true ∧ (Instr.srd h0 true (.v 30) .tva (some (.k 15))).wf = true ∧
    (Instr.srd h0 false (.s 0) .mstat (some (.s 15))).wf = true ∧
    issuesB full h0 [] [(.v 2, false)] false = true ∧ issuesB full h0 [] [(.v 30, true)] false = true ∧
    issuesB full h0 [] [(.s 14, true)] false = true := by decide +kernel

theorem witness_SpecialWrites :
    issuesB full h0 [] [] false = true ∧ full.current.h = false ∧
    (let s := one (fun p => { p with h := true })
     issuesB s h0 [] [] false = true ∧ s.current.h = true) ∧
    (element full.current (some (.k 1)) = 1 ∧ (full.current.val 0x80000000 false (.i false) 0).testBit 31 = true) ∧
    ¬ (element full.current (some (.s 1)) = 1 ∧ (full.current.val 0x80000000 false (.i false) 0).testBit 31 = true) := by
  decide +kernel

theorem enabled_of {s : State} {p : Part} {c : Nat} (h : p.h = false ∧ fieldOf (s.launchOf p).header 36 4 ≠ 0xFFFFFFFF ∧
    (fieldOf (s.launchOf p).header 40 4).testBit c = true) : Enabled s p c := ⟨h.1, h.2.1, h.2.2⟩

/-- A held squad of launch 1 (R406). -/
def held : State := full.setUreg 0 (dbgOff 0 0x400) 0x6000000001

theorem witness_TrapResults :
    (issuesB (vectored id) h0 [] [] true = true ∧ 8 ≤ (vectored id).current.w ∧
      (vectored id).heldPart (vectored id).current = false ∧ grants (vectored id) 2 32 0 Part.landAll = true ∧
      holdsBack (crowded (vectored id)) 2 32 0 Part.landAll = true ∧ issuesB (crowded (vectored id)) h0 [] [] true = true) ∧
    Room (vectored id) 1 2 32 Part.landAll ∧ Enabled (crowded (vectored id)) (crowded (vectored id)).current 18 ∧
    Enabled (vectored id) (vectored id).current 18 ∧ Enabled (vectored id) (vectored id).current 16 ∧
    (issuesB full h0 [] [] true = true ∧ 8 ≤ full.current.w ∧ full.heldPart full.current = false ∧ full.current.dying = false) ∧
    ¬ Enabled full full.current 18 ∧ ¬ Enabled full full.current 16 ∧
    (issuesB held h0 [] [] true = true ∧ held.heldPart held.current = true) := by
  refine ⟨by decide +kernel, room_of (by decide +kernel), enabled_of (by decide +kernel), enabled_of (by decide +kernel),
    enabled_of (by decide +kernel), by decide +kernel, fun h => ?_, fun h => ?_, by decide +kernel⟩
  · exact h.vector (by decide +kernel)
  · exact h.vector (by decide +kernel)

theorem witness_EretResults :
    (let s := one (fun p => { p with h := true, depth := 2, preds := Store.set 0 [] 1 0x00FF })
     issuesB s h0 [] [] true = true ∧ s.current.act h0 = s.current.amask ∧ s.current.h = true ∧ 2 ≤ s.current.depth ∧
       s.current.resLo ≤ s.current.depth - 2 ∧ issuesB s (hp false 1 0) [] [] true = true ∧
       s.current.act (hp false 1 0) ≠ s.current.amask) ∧
    (issuesB full h0 [] [] true = true ∧ full.current.act h0 = full.current.amask ∧ full.current.h = false) ∧
    (let s := one (fun p => { p with h := true, depth := 1 })
     issuesB s h0 [] [] true = true ∧ s.current.act h0 = s.current.amask ∧ s.current.depth < 2) ∧
    (let s := one (fun p => { p with h := true, depth := 3, resLo := 2 })
     issuesB s h0 [] [] true = true ∧ s.current.act h0 = s.current.amask ∧ s.current.h = true ∧ 2 ≤ s.current.depth ∧
       s.current.depth - 2 < s.current.resLo ∧ grants s 3 32 1 id = true ∧ holdsBack (crowded s) 3 32 1 id = true ∧
       issuesB (crowded s) h0 [] [] true = true) := by decide +kernel

theorem witness_EndResults :
    issuesB full h0 [] [] true = true ∧ full.current.amask &&& ~~~(full.current.act h0) = 0 ∧
    full.current.act h0 = full.current.amask ∧ issuesB full (hp false 1 0) [] [] true = true ∧
    full.current.amask &&& ~~~(full.current.act (hp false 1 0)) ≠ 0 ∧
    full.current.act (hp false 1 0) ≠ full.current.amask := by decide +kernel

theorem witness_WaitingResults :
    issuesB full h0 [] [] false = true ∧
    (let e : Pend := ⟨9, [], [], 0, [], false, .icinv 2⟩
     let s := one (fun p => { p with pend := [e] })
     (s.part 1).pend[0]? = some e ∧ s.msg e.id = none ∧ (s.part 1).pend.take 0 = [] ∧ s.outstanding 1 = [] ∧
       (s.part 1).rmHold ≤ (s.tickAt (s.part 1).unit).toNat) ∧
    (let on := fun (s : State) =>
       let ctl := s.ureg s.current.unit (dbgOff s.current.unit 0x100)
       let ptr := s.ureg s.current.unit (dbgOff s.current.unit 0x108)
       ctl.getLsbD 0 = true ∧ ctl.getLsbD 2 = true ∧ ¬ (ctl.getLsbD 1 = true ∧ ptr.getLsbD 10 = true)
     ¬ on full ∧ on (full.setUreg 0 (dbgOff 0 0x100) 5)) ∧
    issuesB full h0 [(.k 0, false)] [] true = true ∧ full.current.val 0 false (.k 0) 0 = 0 ∧
    issuesB full h0 [(.k 1, false)] [] true = true ∧ full.current.val 0 false (.k 1) 0 ≠ 0 ∧
    issuesB full h0 [(.k 0, true)] [] true = true ∧ full.current.val 0 true (.k 0) 0 ≤ (full.tickAt full.current.unit).toNat ∧
    issuesB full h0 [(.i true, true)] [] true = true ∧
      (full.tickAt full.current.unit).toNat < full.current.val 0xFFFFFFFF true (.i true) 0 := by decide +kernel

/-- Each clause for `add` of v20, under each of its conditions; `hjoin` with a result pending. -/
theorem witness_IssueRules :
    (let s := one (fun p => { p with w := 16 })
     s.current.live = true ∧ s.current.st = .ready ∧ s.current.fits ([(.v 16, false), (.v 2, false)] ++ [(.v 1, false)]) = false) ∧
    full.current.held = false ∧ full.current.umask = 0 ∧
    (full.current.fits ([(.v 20, false), (.v 2, false)] ++ [(.v 1, false)]) = true ∧
      (one id).current.act (hp false 1 0) = 0) ∧
    (let s := one (fun p => { p with dead := 0x100000 })
     s.current.fits ([(.v 20, false), (.v 2, false)] ++ [(.v 1, false)]) = true ∧ s.current.act h0 ≠ 0 ∧ s.current.umask = 0 ∧
       s.current.anyDead [(.v 20, false), (.v 2, false)] = true) ∧
    (let s := one (fun p => { p with pend := [⟨9, [], [], 0, [], false, .free⟩] })
     s.current.live = true ∧ s.current.st = .ready ∧ s.current.fits ([] ++ []) = true ∧ s.current.act h0 ≠ 0 ∧
       s.current.anyDead [] = false ∧ s.current.pend ≠ []) := by decide +kernel

theorem witness_TrapEntry :
    (let s := vectored id
     let tva : List (Nat × DWord) := [(0, 5), (15, 6)]
     (s.part 1).live = true ∧ (s.part 1).pend = [] ∧ 8 ≤ (s.part 1).w ∧
       (∀ e ∈ tva, tva.find? (fun x => x.1 == e.1) = some e) ∧ grants s 2 32 0 Part.landAll = true ∧
       holdsBack (crowded s) 2 32 0 Part.landAll = true) ∧
    (let s := vectored (fun p => { p with pend := [⟨9, [], [], 0, [], false, .release⟩] })
     Enabled s (s.part 1) (causeCode .poison) ∧ ∃ e ∈ (s.part 1).pend, e.cond ≠ .free) ∧
    Enabled (vectored id) ((vectored id).part 1) (causeCode .poison) ∧ ¬ Enabled full (full.part 1) (causeCode .poison) ∧
    ((full.part 1).live = true ∧ (full.part 1).dying = false ∧ 8 ≤ (full.part 1).w) :=
  ⟨by decide +kernel, ⟨enabled_of (by decide +kernel), by decide +kernel⟩, enabled_of (by decide +kernel), fun h => h.vector (by decide +kernel), by decide +kernel⟩

theorem released_of {s : State} (h : s.current.pend = [] ∧ s.outstanding s.cur = [] ∧
    s.current.rmHold ≤ (s.tickAt s.current.unit).toNat) :
    Released s := ⟨h.1, h.2.1, h.2.2⟩

theorem witness_TeamResults :
    Released memory ∧ issuesB memory h0 [] [] true = true ∧ issuesB memory h0 [] [] false = true ∧
    issuesB memory h0 [(.k 7, false)] [] false = true ∧ (0 : Fin 8).val < (memory.team memory.current.team).rings ∧
    issuesB memory h0 [(.k 7, false), (.k 1, false)] [] true = true ∧ (memory.team memory.current.team).rings ≤ (1 : Fin 8).val ∧
    issuesB posting h0 [] [] true = true ∧ posting.outstanding posting.cur ≠ [] ∧ posting.current.flushed = false ∧
    memory.current.held = false :=
  ⟨released_of (by decide +kernel), by decide +kernel⟩

/-- `memory` with a copy squad, so that every command's rights hold, and offsets in s2, s3 and s4. -/
def commanding (gang : Word) : State :=
  (memory.setPart 1 { memory.current with
    gang := gang
    sregs := Store.set 0 (Store.set 0 (Store.set 0 [] 2 0x40) 3 0xFFC0) 4 0x80 }).setLaunch (State.lkey 0 1)
    { placedLaunch with roles := [⟨0, 1, 32, 0⟩] }

/-- The command issues and its checks hold; a product stands at its base stack, and no scrum is on. -/
def commandMeets (s : State) (i : Instr) : Bool :=
  i.wf && !s.current.held && (match cmdSpec i with
    | some r => issuesB s r.h r.srcs [] r.product && (r.checks s s.current).all (fun x => x.holds) &&
        (!r.product || decide (s.current.unit = s.current.base)) && (!r.scrum || s.current.gang == 0)
    | none => false)

/-- The first check of a command that fails. -/
def firstFail (s : State) (i : Instr) : Option Cause :=
  match cmdSpec i with
  | some r => if issuesB s r.h r.srcs [] r.product then ((r.checks s s.current).find? (fun y => !y.holds)).map (fun x => x.cause) else none
  | none => none

def commands : List Instr :=
  [ .mstat h0 .e4m3 .dense (.s 3) (.k 0) 63, .mfree h0 5, .mmx h0 ⟨.m16, .ga, 0, 0, 0⟩ (.acc 0) (.s 2) (.v 4),
    .mmxs h0 ⟨.auto, .pl, 1, 2, 4⟩ true (.acc 0) (.s 2) (.k 3), .mmxd h0 ⟨.m128, .cv, 0, 15, 0⟩ true 4 (.acc 0) (.s 2) (.s 3),
    .mzero h0 (.acc 0), .mslotInv h0 (.s 4), .mslotNint h0 (.s 4) (.k 64), .mdrn h0 true ⟨7, 1, 127, 4⟩ (.s 2) (.acc 0),
    .mdrq h0 .e2m1 ⟨0, 0, 128, 4⟩ (.s 2) (.acc 0) (.k 3), .mdrx h0 ⟨1, 16, 0, 1⟩ (.s 2) (.acc 0) (.v 4),
    .cpG2s h0 3 (.s 4) (.s 2) (.s 3), .cpS2g h0 2 (.s 4) (.k 64) (.s 3), .cpg h0 1 (.s 4) (.s 2) (.s 3) (.s 4),
    .qfence h0 0b000001, .qfence h0 0b110000 ]

theorem witness_CommandResults :
    (∀ i ∈ commands, commandMeets (commanding 0) i = true) ∧
    firstFail (commanding 0) (.mzero h0 (.acc 1)) = some .scratchBounds ∧
    firstFail (commanding 0) (.mmx h0 ⟨.m16, .pl, 0, 0, 0⟩ (.acc 0) (.k 1) (.k 0)) = some .misaligned ∧
    firstFail (full.setLaunch (State.lkey 0 1) { placedLaunch with roles := [⟨1, 1, 32, 0⟩, ⟨0, 1, 32, 0⟩] })
      (.cpG2s h0 3 (.s 4) (.s 2) (.s 3)) = some .copyRights ∧
    (let s := (commanding 6).setPart 1 { (commanding 6).current with amask := 1 }
     firstFail s (.mdrx h0 ⟨1, 16, 0, 1⟩ (.s 2) (.acc 0) (.v 4)) = some .scrumMismatch ∧ s.current.pend = []) := by decide +kernel

theorem witness_ScrumResults :
    full.current.held = false ∧
    (issuesB full h0 [(.k 0, false)] [] false = true ∧ BitVec.ofNat 32 (full.current.val 0 false (.k 0) 0) = 0) ∧
    (let s := full.setLaunch (State.lkey 0 1) { placedLaunch with roles := [⟨1, 6, 32, 0⟩] }
     let listed := (List.range 32).filter (fun i => (0x3F : Word).getLsbD i)
     issuesB s h0 [(.k 63, false)] [] false = true ∧ 2 ≤ listed.length ∧ listed.length ≤ 6 ∧ s.current.sq ∈ listed ∧
       ∀ q ∈ listed, roleKind (s.launchOf s.current).roles q = some 1 ∨ roleKind (s.launchOf s.current).roles q = some 3) ∧
    (let listed := (List.range 32).filter (fun i => (1 : Word).getLsbD i)
     issuesB full h0 [(.k 1, false)] [] false = true ∧ ¬ (2 ≤ listed.length)) ∧
    (∀ i ∈ [Instr.mmx h0 ⟨.m16, .ga, 0, 0, 0⟩ (.acc 0) (.s 2) (.v 4), .mdrx h0 ⟨1, 16, 0, 1⟩ (.s 2) (.acc 0) (.v 4)],
      (match cmdSpec i with
       | some r => i.wf && r.scrum && issuesB (commanding 3) r.h r.srcs [] r.product &&
           (r.checks (commanding 3) (commanding 3).current).all (fun x => x.holds)
       | none => false) = true) ∧
    ((commanding 3).current.unit = (commanding 3).current.base ∧ (commanding 3).current.gang ≠ 0 ∧
      (commanding 3).current.pend = []) ∧
    (let s := (commanding 3).setPart 1 { (commanding 3).current with unit := 1 }
     (match cmdSpec (.mmx h0 ⟨.m16, .ga, 0, 0, 0⟩ (.acc 0) (.s 2) (.v 4)) with
      | some r => r.product && r.scrum && issuesB s r.h r.srcs [] r.product && (r.checks s s.current).all (fun x => x.holds)
      | none => false) = true ∧ s.current.unit ≠ s.current.base ∧ s.liveMask s.cur 0 = .inl 0xFFFFFFFF) := by decide +kernel

/-- `memory` with bits 3 to 0 of the bitmap word 0x40 set. -/
def mapped : State := memory.padStore 0 0x40 4 0xF

theorem witness_EngineWaits :
    issuesB mapped h0 [] [] true = true ∧ issuesB mapped h0 [(.s 2, false), (.k 1, false)] [] true = true ∧
    (let off : Int := mapped.current.val 0 false (.s 2) 0 + (0xFFBC : Word).toInt
     let s := mapped.setTeam 0 { mapped.team 0 with
       regions := [(0, { Region.unused with
         used := true
         count := 1 })] }
     off % 4 = 0 ∧ 0 ≤ off ∧ off + 4 ≤ (mapped.team mapped.current.team).mcount * 65536 ∧
       (mapped.team mapped.current.team).stationary (off.toNat / 65536) = false ∧
       issuesB s h0 [(.s 2, false), (.k 1, false)] [] true = true ∧ off + 4 ≤ (s.team s.current.team).mcount * 65536 ∧
       (s.team s.current.team).stationary (off.toNat / 65536) = true) ∧
    (let off : Int := mapped.current.val 0 false (.s 2) 0 + (0xFFFFFFFF : Word).toInt
     off % 4 ≠ 0) ∧
    (let off : Int := mapped.current.val 0 false (.s 2) 0 + (0xFFFFFFBC : Word).toInt
     off % 4 = 0 ∧ off < 0) ∧
    (let off : Int := mapped.current.val 0 false (.s 2) 0 + (0xFFC0 : Word).toInt
     off % 4 = 0 ∧ ((mapped.team mapped.current.team).mcount * 65536 : Nat) < off + 4) ∧
    (mapped.current.val 0 false (.s 2) 0 % 4 = 0 ∧
      (mapped.team mapped.current.team).stationary (mapped.current.val 0 false (.s 2) 0 / 65536) = false ∧
      mapped.current.val 0 false (.s 2) 0 + 4 ≤ (mapped.team mapped.current.team).mcount * 65536) ∧
    met mapped 0x40 15 = true ∧ met mapped 0x40 31 = false ∧
    (Store.get 0 mapped.fab.hold (mapped.current.base * 8192 + 0) = 0) := by decide +kernel

/-- A hold area whose slots are all in use: none of the 8,192 slots of stack 0 is free. -/
theorem witness_EngineWaits_full :
    let hold : Store Nat := (List.range 8192).map (fun n => (n, 1))
    ∀ n, n < 8192 → Store.get 0 hold (0 * 8192 + n) ≠ 0 := by
  have key : ∀ (m k : Nat) (h : k < m) (b : Nat), Store.get 0 ((List.range' b m).map (fun n => (n, 1))) (b + k) = 1 := by
    intro m
    induction m with
    | zero => intro k h; omega
    | succ m ih =>
      intro k h b
      cases k with
      | zero => simp [List.range'_succ, Store.get]
      | succ k =>
        have e := ih k (by omega) (b + 1)
        rw [show b + (k + 1) = b + 1 + k by omega, List.range'_succ, List.map_cons]
        simpa [Store.get, show b ≠ b + 1 + k by omega] using e
  intro hold n hn
  have e := key 8192 n hn 0
  rw [← List.range_eq_range'] at e
  rw [show 0 * 8192 + n = 0 + n by omega, e]
  decide

/-- `memory` with queue 15 of partition 0 configured as given, its TAIL and HEAD. -/
def launching (cfg tail head : DWord) : State :=
  let o := lqOff 0 15
  ((memory.setUreg 16 (o + 8) cfg).setUreg 16 (o + 0x10) tail).setUreg 16 (o + 0x18) head

/-- A state in which `lnch` with its record at offset 0 issues and has nothing to wait for. -/
abbrev Launches (s : State) : Prop :=
  issuesB s h0 [(.k 0, false)] [] false = true ∧ s.current.val 0 false (.k 0) 0 % 128 = 0 ∧
    s.current.restartable = false ∧ (s.current.pend = [] ∧ s.outstanding s.cur = [] ∧
      s.current.rmHold ≤ (s.tickAt s.current.unit).toNat) ∧
    s.current.val 0 false (.k 0) 0 + 128 ≤ (s.team s.current.team).mcount * 65536 ∧
    (s.team s.current.team).stationary (s.current.val 0 false (.k 0) 0 / 65536) = false

theorem launches_room : Launches (launching 0x12 3 0) := by decide +kernel
theorem launches_full : Launches (launching 0x12 4 0) := by decide +kernel
theorem launches_disabled : Launches (launching 0 0 0) := by decide +kernel

theorem witness_RecordResults :
    (Instr.trec h0 .conv (.v 2) (.s 2)).wf = true ∧ memory.current.val 0 false (.s 2) 0 % 64 = 0 ∧
      memory.current.val 0 false (.s 2) 0 + 64 ≤ (memory.team memory.current.team).mcount * 65536 ∧
      memory.current.held = false ∧
      (memory.team memory.current.team).stationary (memory.current.val 0 false (.s 2) 0 / 65536) = false ∧
      issuesB memory h0 [(.s 2, false)] [(.v 2, false)] false = true ∧
    Launches (launching 0 0 0) ∧ ((launching 0 0 0).ureg 16 (lqOff 0 15 + 8)).getLsbD 4 = false :=
  ⟨by decide +kernel, by decide +kernel, by decide +kernel, by decide +kernel, by decide +kernel, by decide +kernel,
    launches_disabled, by decide +kernel⟩

/-- Entries between HEAD and TAIL of queue 15. -/
def waiting (s : State) : Nat :=
  (((s.ureg 16 (lqOff 0 15 + 0x10)).extractLsb' 0 32).toNat + 2 ^ 32 -
    ((s.ureg 16 (lqOff 0 15 + 0x18)).extractLsb' 0 32).toNat) % 2 ^ 32

/-- A queue of four entries that holds three, and one that is full. -/
theorem witness_RecordResults_queue :
    Launches (launching 0x12 3 0) ∧ Launches (launching 0x12 4 0) ∧
    ((launching 0x12 3 0).ureg 16 (lqOff 0 15 + 8)).getLsbD 4 = true ∧
    waiting (launching 0x12 3 0) < 2 ^ min 12 (((launching 0x12 3 0).ureg 16 (lqOff 0 15 + 8)).toNat % 16) ∧
    ((launching 0x12 4 0).ureg 16 (lqOff 0 15 + 8)).getLsbD 4 = true ∧
    2 ^ min 12 (((launching 0x12 4 0).ureg 16 (lqOff 0 15 + 8)).toNat % 16) ≤ waiting (launching 0x12 4 0) := by
  have a : min 12 (((launching 0x12 3 0).ureg 16 (lqOff 0 15 + 8)).toNat % 16) = 2 := by decide +kernel
  have b : min 12 (((launching 0x12 4 0).ureg 16 (lqOff 0 15 + 8)).toNat % 16) = 2 := by decide +kernel
  have c : waiting (launching 0x12 3 0) = 3 := by decide +kernel
  have d : waiting (launching 0x12 4 0) = 4 := by decide +kernel
  rw [a, b, c, d]
  exact ⟨launches_room, launches_full, by decide +kernel, by omega, by decide +kernel, by omega⟩

/-- `memory` with a valid peer 1 of the partition and two request slots, and the remote address 1 × 2⁵² + 8 in s4:s5. -/
def remote : State :=
  let s := memory.setPart 1 { memory.current with
    sregs := Store.set 0 (Store.set 0 [] 4 8) 5 (BitVec.ofNat 32 (2 ^ 20)) }
  let t := s.setPartition 0 { s.partition 0 with desc := [0, 0, 2, 0] }
  t.poke (peerSpa 0 1) 8 (1 + 2 ^ 16 * 2 + 2 ^ 32 * 3)

theorem witness_RemoteResults :
    Begins remote ∧ remote.current.fits [(.v 6, true)] = true ∧
    issuesB remote h0 [(.s 4, true)] [] true = true ∧
    (∀ l, l < 16 → (BitVec.ofNat 64 (remote.current.val 0 true (.s 4) l) + BitVec.signExtend 64 (0 : Word)).toNat % 8 = 0 ∧
      (BitVec.ofNat 64 (remote.current.val 0 true (.s 4) l) + BitVec.signExtend 64 (0 : Word)).toNat / 2 ^ 40 = 4096) ∧
    (remote.peer remote.current.prt (4096 / 4096)).v = true ∧ remote.remoteLanes remote.cur = [] ∧
    remote.freeReq (unitPkg (hubOf remote.current.unit)) remote.current.prt = some 0 ∧
    issuesB remote h0 [(.s 4, true), (.v 4, true)] [] false = true ∧
    remote.current.held = false ∧ (remote.outHomes remote.cur ++ [hubOf remote.current.unit]).eraseDups.length ≤ 16 :=
  ⟨begins_of (by decide +kernel), by decide +kernel⟩

theorem witness_RemoteResults_peer :
    (∀ l, l < 16 → (memory.current.act h0).getLsbD l = true →
      (memory.peer memory.current.prt ((BitVec.ofNat 64 (memory.current.val 0 true (.s 2) l) +
        BitVec.signExtend 64 (0 : Word)).toNat / 2 ^ 52)).v = false ∧
      (BitVec.ofNat 64 (memory.current.val 0 true (.s 2) l) + BitVec.signExtend 64 (0 : Word)).toNat % 8 = 0) ∧
    Begins memory ∧ memory.current.held = false ∧ memory.current.fits [(.v 6, true)] = true ∧
    issuesB memory h0 [(.s 2, true)] [] true = true ∧
    issuesB memory h0 [(.s 2, true), (.v 4, true)] [] false = true :=
  ⟨by decide +kernel, memory_ready.1, by decide +kernel⟩

/-- `memory` with its squad in a state. -/
def parted (st : PState) (f : Part → Part) : State :=
  memory.setPart 1 { f memory.current with st := st }

/-- The clock of a state. -/
def atTick (n : Nat) (s : State) : State :=
  { s with
    tick := BitVec.ofNat 64 n
    cyc := n }

/-- A part's squad may go on: it lives, its team is not frozen, the squad has not ended. -/
def running (s : State) : Bool :=
  (s.part 1).live && !(s.team (s.part 1).team).frozen && !(s.team (s.part 1).team).ended.contains (s.part 1).sq

theorem witness_WakeEvents :
    (let s := atTick 5 (parted .ready (fun p => { p with
        relaxTo := 5
        yieldTo := 5 }))
     (s.part 1).relaxTo ≤ s.cycAt 0 ∧ (s.part 1).yieldTo ≤ s.cycAt 0) ∧
    (let s := parted (.blocked (.tick 5) false) id
     running s = true ∧ (s.part 1).st = .blocked (.tick 5) false ∧ s.pkgStopped (unitPkg (s.part 1).unit) = false ∧
       (5 : DWord).toNat ≤ ((atTick 5 s).tickAt 0).toNat ∧ ((atTick 4 s).tickAt 0).toNat < (5 : DWord).toNat) ∧
    (let s := atTick 7 (parted .ready (fun p => { p with start := 7 }))
     (s.part 1).live = true ∧ (s.part 1).start ≠ 0 ∧ (s.part 1).start.toNat ≤ (s.tickAt (s.part 1).unit).toNat) ∧
    (∀ w ∈ [Wake.phase 15 9 true, .stage 7 7 false, .chunks 0x40 0xF, .held 0x40 0xF 9 none, .held 0x40 0xF 9 (some 8191),
        .cmds [3] true],
      running (parted (.blocked w true) id) = true ∧ ((parted (.blocked w true) id).part 1).st = .blocked w true ∧
        (parted (.blocked w true) id).badFrame 1 = false ∧ (parted (.blocked w true) id).parkRoom 0 0 1 = true) ∧
    (∀ a ∈ [true, false],
      let s := parted (.blocked (.held 0x40 0xF 9 (some 8191)) false) (fun p => { p with recWake := a })
      (s.part 1).live = true ∧ (s.part 1).recWake = a ∧ s.badFrame 1 = false ∧ s.parkRoom 0 0 1 = true) ∧
    (0 ∈ memory.mg.pkgs ∧ memory.pkgStopped 0 = false ∧ memory.net.slew = 0 ∧ memory.lag = []) ∧
    ((atTick 1023 memory).cycAt 0 / 1024 - Store.get 0 memory.fab.gained 7 = 0 ∧
      (atTick 2048 memory).cycAt 0 / 1024 - Store.get 0 memory.fab.gained 7 ≠ 0) := by decide +kernel

/-- `memory` with a lookup for the page at VA 0, and the entry at the start of a table at SPA 0x8000. -/
def looking (st : WalkSt) (e : Nat) : State :=
  (memory.poke 0x8000 8 e).setXlat 7 (some ⟨0, 0, 0, false, 0, .load, .part 1, 1, none, st, 0⟩)

def lookup (st : WalkSt) : Xlat := ⟨0, 0, 0, false, 0, .load, .part 1, 1, none, st, 0⟩

/-- A tensor record of `n` bytes at `a`: one dimension of bytes. -/
def copyRec (n a : Nat) : List Byte := leBytes 8 a ++ leBytes 4 0x5A0000 ++ leBytes 4 n ++ leBytes 48 0

/-- A copy of 1,024 bytes from VA 0xFE00 on, at the head of queue 3 of team 0. -/
def copyEntry (f : Entry → Entry) : Entry := f { newEntry placedPart 3 (.copy false 0 0x400) none with
  id := 9
  recd := copyRec 1024 0xFE00
  begun := true
  chunks := [0, 1] }

def queued (e : Entry) : State := memory.setTeam 0 { memory.team 0 with ents := [e] }

/-- A second lookup of the same page, walking or merged with walk 7. -/
def twice (st other : WalkSt) : State := (looking st 0).setXlat 8 (some (lookup other))

theorem witness_TranslationEvents :
    ((memory.part 1).live = true ∧ (memory.part 1).st = .ready ∧ memory.xlatWait (.part 1) = false ∧
      memory.fetch 1 = .word 0) ∧
    ((looking .probe 0).xlat 7 = some (lookup .probe) ∧ Store.wf none (looking .probe 0).tr.xlats = true ∧
      (looking .probe 0).probeFind (lookup .probe) = none ∧ (looking .probe 0).walking 0 = [] ∧
      ((looking .probe 0).setUtlb 0 [placedTlb]).probeFind (lookup .probe) = some placedTlb ∧
      ((looking .probe 0).setUtlb 0 [placedTlb]).ringFind (lookup .probe) = none) ∧
    ((twice .probe (.walk 1 0x8000)).probeFind (lookup .probe) = none ∧
      (twice .probe (.walk 1 0x8000)).walking 0 = [(8, lookup (.walk 1 0x8000))]) ∧
    (((looking (.walk 1 0x8000) 0).shoot 0).waits.contains 7 = false ∧
      (looking (.walk 1 0x8000) 0).flowing ⟨0, spaUnit 0x8000, 0, 4⟩ = true ∧
      (looking (.walk 1 0x8000) 0).nextOn 0 ⟨0, spaUnit 0x8000, 0, 4⟩ = true ∧
      (looking (.walk 1 0x8000) 0).served 7 = [(7, lookup (.walk 1 0x8000))] ∧
      ((twice (.walk 1 0x8000) (.joined 7)).served 7).length = 2) ∧
    (looking (.walk 3 0x8000) 0x18001).walkStep 0 0 false 3 0x8000 = .inl 0x18000 ∧
    (looking (.walk 1 0x8000) 0x801).walkStep 0 0 false 1 0x8000 = .inr .unres ∧
    (looking (.walk 4 0x8000) 0).walkStep 0 0 false 4 0x8000 = .inr (.fault 0 4) ∧
    (looking (.walk 4 0x8000) 0x30203).walkStep 0 0 false 4 0x8000 = .inr (.leaf 4 0x30000 0x8000 0x30203) ∧
      (0x30203 : DWord).getLsbD 9 = true ∧ (0x30203 : DWord).getLsbD 10 = false ∧ (0x30203 : DWord).getLsbD 1 = true ∧
      (leafTlb (lookup .probe) 4 0x30000 0x8000 0x30203).spa = 0x30000 ∧
    (looking (.walk 4 0x8000) 0x30003).walkStep 0 0 false 4 0x8000 = .inr (.leaf 4 0x30000 0x8000 0x30003) ∧
      (0x30003 : DWord).getLsbD 9 = false ∧
    (let st : WalkSt := .update 0x8000 0x30003 0x30203 (leafTlb (lookup .probe) 4 0x30000 0x8000 0x30203)
     (looking st 0x30003).xlat 7 = some (lookup st) ∧ (looking st 0x30003).pteAt 0 0x8000 = 0x30003 ∧
       (looking st 0x30003).served 7 = [(7, lookup st)] ∧ (looking st 0x30403).pteAt 0 0x8000 ≠ 0x30003 ∧
       (((looking st 0x30003).setShoot 0 { Shoot.idle with waits := [7] }).shoot 0).waits.contains 7 = true) := by
  decide +kernel

theorem witness_TranslationEvents_ahead :
    let e := copyEntry id
    let s := queued e
    s.pkgStopped 0 = false ∧ (s.team 0).headOf 3 = some e ∧ e.begun = true ∧ e.done = false ∧ e.parked = false ∧
      s.xlatWait (.entry 0 e.id) = false ∧ e.wants.find? (s.walkable 0 e) = some 0 ∧
      tlbFind (s.wtlb 0) 0 (s.partition 0).secure 0 = none ∧ s.xlatFor (.entry 0 e.id) 0 = none ∧
      tlbFind ((s.setWtlb 0 [placedTlb]).wtlb 0) 0 (s.partition 0).secure 0 = some placedTlb ∧
      s.checkLeaf 0 ⟨e.kind, false⟩ placedTlb 0 = .ok 0 0 ∧
      (let e := copyEntry (fun e => { e with cmd := .copy true 0 0x400 })
       let s := (queued e).setWtlb 0 [{ placedTlb with w := false }]
       e.wants.find? (s.walkable 0 e) = some 0 ∧ s.checkLeaf 0 ⟨e.kind, false⟩ { placedTlb with w := false } 0 =
         .fault 1 4 16 ∧ 0 ∈ e.front) := by decide +kernel

/-- `memory` with a shootdown in progress at unit 0, or idle. -/
def shooting (b : Bool) : State := memory.setShoot 0 { Shoot.idle with
  busy := b
  waits := [7]
  posts := [8] }

/-- `memory` with its squad parked for one record, in slot 63 of stack 0. -/
def parkedAt : State :=
  (parted .parked id).setXfq 0 { Xfq.fresh with
    tail := 64
    outst := 1
    slots := [(63, ⟨true, 1, .part 1, 3, 0x200000, false⟩)] }

/-- Every partition owns a slot of each mesh and fabric table of the hubs, and of the mesh tables of stacks 0 and 1, and of an Ethernet
table of hub 16 (R388). -/
def openSlots (s : State) : State :=
  [(16, 0), (17, 0), (16, 8), (16, 16), (0, 0), (1, 0)].foldl (fun (s : State) x =>
    s.setUreg x.1 (slotOff x.2) 0x0F0E0D0C0B0A0908) s

theorem witness_TranslationQueueEvents :
    ((shooting false).shoot 0).busy = false ∧ (2 : Nat) < 3 ∧ (shooting false).linked ⟨16, 0, 0, 4⟩ = false ∧
      (openSlots (shooting false)).linked ⟨16, 0, 0, 4⟩ = true ∧ (openSlots (shooting true)).linked ⟨16, 0, 7, 4⟩ = true ∧ ((shooting true).shoot 0).busy = true ∧
    ((0xE0 : Word).getLsbD 7 = true ∧ (0xE0 : Word).extractLsb' 3 4 = 0b1100) ∧
    ((0x90 : Word).getLsbD 7 = true ∧ (0x90 : Word).getLsbD 4 = true) ∧
    ((∀ k ∈ ((shooting true).shoot 0).waits, (shooting true).xlat k = none) ∧
      (∀ k ∈ ((shooting true).shoot 0).posts, (shooting true).preq k = none)) ∧
    (let f : XFault := ⟨0, 1, 0, 0x200000, 1, 4, .store, .part 1, 3, 0, 0⟩
     let s := memory.setXfq 0 { Xfq.fresh with
       tail := 127
       wait := [f] }
     (s.xfq 0).wait = [f] ∧ (Store.get XSlot.empty (s.xfq 0).slots 63).busy = false) ∧
    ((64 % 128 + 128 - (parkedAt.xfq 0).head) % 128 ≤ ((parkedAt.xfq 0).tail + 128 - (parkedAt.xfq 0).head) % 128 ∧
      ((parkedAt.xfq 0).tail + 128 - (parkedAt.xfq 0).head) % 128 < (65 % 128 + 128 - (parkedAt.xfq 0).head) % 128) ∧
    (parkedAt.xfSlot 0 63 = some (63, ⟨true, 1, .part 1, 3, 0x200000, false⟩) ∧ (parkedAt.part 1).live = true ∧
      (parkedAt.part 1).st = .parked ∧ (parkedAt.part 1).pend = [] ∧
      (parkedAt.xfFree 0 63 ⟨true, 1, .part 1, 3, 0x200000, false⟩).parkedOn 0 1 = false) ∧
    parkedAt.xfSlot 0 (65535 % 65536) = none := by decide +kernel

/-- The squad of `memory` on its way, with its frame on class 0 or not and its destination. -/
def going (st : PState) (d : Dest) (f : Part → Part := id) : State :=
  parted st (fun p => f { p with
    dest := d
    w := 8
    carry := 0xFC })

/-- A core's limiter of class 0 that allows `n` flits. -/
def limited (n : Nat) (s : State) : State :=
  { s.setUreg 0 (c0Off 0 0 0) 0x00400040 with fab := { s.fab with level := Store.set 0 s.fab.level 0 n } }

/-- A part that another waits for at a huddle, or a second one on the way to unit 1. -/
def withHost (s : State) : State := s.setPart 2 { memory.current with st := .joining 3 0 none }

theorem witness_PassingEvents_leave :
    (let s := going (.departing 0) (.unit 1)
     (s.part 1).live = true ∧ (s.part 1).st = .departing 0 ∧ (s.part 1).pend = []) ∧
    (let s := going (.departing 1) (.unit 1)
     (s.part 1).live = true ∧ (s.part 1).st = .departing 1 ∧
       (s.parts.filter (fun e => e.2.unit == (s.part 1).unit && e.2.core == (s.part 1).core && e.2.st == .departing 2)).length
         < 32) ∧
    (let s := openSlots (going (.departing 2) (.unit 1))
     (s.part 1).live = true ∧ (s.part 1).st = .departing 2 ∧ s.outstanding 1 = [] ∧ (s.part 1).lat = false ∧
       s.pkgStopped 0 = false ∧ s.stopped 0 1 0 1 = false ∧ s.hasSlots ⟨0, 1, 0, 1⟩ = true) ∧
    (let s := openSlots (limited ((going (.departing 2) (.unit 1)).part 1).flits (going (.departing 2) (.unit 1) (fun p => { p with
        lat := true })))
     (s.part 1).lat = true ∧ s.c0Rate (s.part 1) ≠ 0 ∧ s.stopped 0 1 0 0 = false ∧ s.hasSlots ⟨0, 1, 0, 0⟩ = true ∧
       (s.part 1).flits = Store.get 0 s.fab.level (((s.part 1).unit * 8 + (s.part 1).core) * 8 + (s.part 1).prt)) := by
  decide +kernel

theorem witness_PassingEvents_arrive :
    (∀ d ∈ [Dest.unit 1, .evict 0, .host 0 0 2],
      let s := withHost (going .travelling d)
      (s.part 1).live = true ∧ (s.part 1).st = .travelling ∧ s.orphan (s.part 1) = false ∧ (s.part 1).dest = d ∧
        s.pkgStopped (unitPkg d.unitOf) = false ∧ s.arrives (s.part 1).seq = true ∧
        s.orderAllows 0 d.unitOf (State.orderEntry (s.part 1) 0 (s.part 1).amask (s.part 1).pc) = true ∧
        s.arrStopped d.unitOf 0 false = false ∧ (s.team (s.part 1).team).frozen = false) ∧
    (let s := going .travelling (.unit 1) (fun p => { p with dying := true })
     s.orphan (s.part 1) = true ∧ (s.part 1).dest = .unit 1) ∧
    (let s := going .travelling (.hold 1 5 0x40 0xF 9)
     s.orphan (s.part 1) = false ∧ (s.part 1).dest = .hold 1 5 0x40 0xF 9 ∧
       s.arrives (s.part 1).seq = true ∧ s.arrStopped 1 0 false = false ∧
       s.orderAllows 0 1 (State.orderEntry (s.part 1) 0 (s.part 1).amask 9) = true) ∧
    (let s := going .queued (.unit 1) (fun p => { p with unlogged := true })
     let t := { s with dbg := { s.dbg with follow := [(8, List.replicate 24 1)] } }
     (t.part 1).st = .queued ∧ (t.part 1).unlogged = true ∧
       t.orderAllows 0 1 (State.orderEntry (t.part 1) 0 (t.part 1).amask (t.part 1).pc) = false) ∧
    (let s := parted (.growing 2 8 0 false) (fun p => { p with ask := 5 })
     (s.part 1).live = true ∧ (s.part 1).st = .growing 2 8 0 false ∧ s.growAhead (s.part 1) = false ∧
       ((s.setPart 1 (State.asking (s.part 1) 2 8 0)).growFits 1).2 = true) ∧
    (let s := parted (.growing 2 8 0 true) (fun p => { p with ask := 5 })
     (s.part 1).live = true ∧ (s.part 1).st = .growing 2 8 0 true ∧ s.growAhead (s.part 1) = false ∧
       s.usedGroups 0 0 ≤ 2048 ∧ (s.part 1).h = false ∧ (s.part 1).after = none) := by decide +kernel

/-- A part that has asked for 2,048 groups below its window leaves no room for the window. -/
theorem witness_PassingEvents_grow :
    ∀ a ∈ [true, false],
      let d := if a then 2048 else 4096
      let s := parted (.growing d 32 2048 a) (fun p => { p with
        ask := 5
        depth := 2048
        resLo := 2048
        fetching := 2048
        w := 32 })
      (s.part 1).live = true ∧ (s.part 1).st = .growing d 32 2048 a ∧ s.growAhead (s.part 1) = false ∧
        (a = true → (s.growFits 1).2 = false) ∧
        (a = false → ((s.setPart 1 (State.asking (s.part 1) d 32 2048)).growFits 1).2 = false) := by
  decide +kernel

/-- `memory` with one message. -/
def message (k : Nat) (m : Msg) (s : State) : State := { s with fab := { s.fab with msgs := [(k, some m)] } }

/-- The frame that is dispatched next at unit 0 when no frame is parked (R61). -/
def nextFrame (s : State) : Option Nat :=
  let queue := (s.arrQueue 0).filter (fun j => !(s.team (s.part j).team).frozen && !(s.part j).unlogged)
  (queue.filter (fun j => (s.part j).cls0) ++ queue.filter (fun j => !(s.part j).cls0)).find? (fun i =>
    s.orphan (s.part i) || (s.part i).dest.merges || (s.pickCore 0 (s.part i).prt).isSome)

theorem witness_PassingEvents_fetch :
    let s := message 9 (.frameFetch 1 0 2 5) (parted .switched id)
    s.fetchMsg 1 = some (9, 0, 2, 5) ∧ s.arrives 9 = true ∧ s.spillAhead (s.part 1) = false ∧
      s.fetchErr (s.part 1) 0 2 5 = false := by decide +kernel

/-- The data of a frame fetch under way, with control masks `ctl`. -/
def fetchBack (ctl : Mask) : State := message 9 (.fetchData 1 0 2 ctl [(16, 7)] []) (parted .switched id)

theorem witness_PassingEvents_fetched (ctl : Mask) :
    (fetchBack ctl).fab.msgs.find? (fun e => match e.2 with | some (.fetchData q _ _ _ _ _) => q == 1 | _ => false) =
      some (9, some (.fetchData 1 0 2 ctl [(16, 7)] [])) := rfl

theorem witness_PassingEvents_data : ∀ s ∈ [fetchBack 0, fetchBack 5],
    s.arrives 9 = true ∧ (s.part 1).live = true ∧ (s.part 1).st = .switched ∧ (s.part 1).pend = [] := by decide +kernel

theorem witness_PassingEvents_dispatch :
    (let s := (parted .queued id).setQueue 0 [1]
     s.pkgStopped 0 = false ∧ s.parking 0 = [] ∧ nextFrame s = some 1 ∧ s.orphan (s.part 1) = false ∧ (s.part 1).dest = .none ∧
       (s.setQueue 0 ((s.arrQueue 0).erase 1)).pickCore 0 0 = some 0) ∧
    (let s := (withHost (parted .queued (fun p => { p with dest := .host 0 0 2 }))).setQueue 0 [1]
     nextFrame s = some 1 ∧ s.orphan (s.part 1) = false ∧ (s.part 1).dest = .host 0 0 2) ∧
    (let s := (parted .queued (fun p => { p with dying := true })).setQueue 0 [1]
     nextFrame s = some 1 ∧ s.orphan (s.part 1) = true) ∧
    (let s := (parted .queued id).setParking 0 [1]
     (s.parking 0).find? (fun i => s.queueRoom 0 (s.part i).prt (s.part i).cls0) = some 1 ∧ (s.part 1).unlogged = false ∧
       s.badFrame 1 = false) := by decide +kernel

/-- The stored value of lane 0 on its way to SPA 0x100, in a phase. -/
def posted (ph : PPhase) : PReq :=
  ⟨1, [1], 0, 0, 0, 0, 0, 0, .stp, 0, [⟨0x100, 0x100, 4, none, [(0, 7)], 0⟩], ph, 0, false, 0⟩

def postedState (ph : PPhase) : State :=
  atTick 128 { memory with fab := { memory.fab with posted := [(9, some (posted ph))] } }

theorem witness_PostedEvents :
    (let s := postedState .flight
     let e : PElem := ⟨0x100, 0x100, 4, none, [(0, 7)], 0⟩
     s.preq 9 = some (posted .flight) ∧ s.arrives 9 = true ∧ s.earlierInFlight 9 (posted .flight) = false ∧ s.following 0 0 = [] ∧
       s.keyAt e.spa 0 e.slot ≠ 0 ∧ s.tagAt e.spa = 0) ∧
    (let s := postedState .performed
     s.preq 9 = some (posted .performed) ∧ Store.wf none s.fab.posted = true ∧ (posted .performed).viaRec = false ∧
       (posted .performed).pid ∈ (posted .performed).owners ∧ (posted .performed).doneAt + 128 ≤ s.cycAt 0) ∧
    (let s := postedState .acking
     s.preq 9 = some (posted .acking) ∧ (posted .acking).phase = .acking ∧ s.arrives (posted .acking).ack = true) ∧
    (let s := message 30 (.flushMsg 1 0 0 0) (postedState .performed)
     s.msg 30 = some (.flushMsg 1 0 0 0) ∧ s.arrives 30 = true ∧ Store.wf none s.fab.posted = true ∧ 9 < 30 ∧
       s.preq 9 = some (posted .performed) ∧ s.fab.posted = [(9, some (posted .performed))]) := by decide +kernel

/-- A posted fault record of squad 0 in a slot, entered `n`th. -/
def faultRec (n : Nat) : FRec := ⟨n, n, 5, 0x100, 40, 3, 0, 5, 0, false⟩

def recorded (n : Nat) (s : State) : State :=
  s.setTeam 0 { s.team 0 with
    recs := (List.range n).map faultRec
    recOrder := n }

theorem witness_PostedEvents_records :
    (let s := message 3 (.frec 0 (faultRec 0) none none) (recorded 64 memory)
     s.msg 3 = some (.frec 0 (faultRec 0) none none) ∧ s.arrives 3 = true ∧ (s.team 0).recs.length = 64) ∧
    (let s := message 3 (.frec 0 (faultRec 0) (some 9) (some 1)) (recorded 63 memory)
     s.msg 3 = some (.frec 0 (faultRec 0) (some 9) (some 1)) ∧ s.arrives 3 = true ∧ (s.team 0).recs.length ≠ 64 ∧
       (∀ x ∈ (s.team 0).recs, x.slot ≠ 63) ∧ ∀ m, m < 63 → ∃ x ∈ (s.team 0).recs, x.slot = m) ∧
    (∀ st ∈ [PState.ready, .departing 0],
      let s := message 3 (.notice 1 9) (parted st id)
      s.msg 3 = some (.notice 1 9) ∧ s.arrives 3 = true ∧ (s.dropMsg 3).fab.msgs = [] ∧ (((s.dropMsg 3).acked 9).part 1).live = true ∧
        (((s.dropMsg 3).acked 9).part 1).st = st) ∧
    (let s := message 3 (.deferral 1) memory
     s.msg 3 = some (.deferral 1) ∧ s.arrives 3 = true ∧ (s.part 1).live = true) := by decide +kernel

theorem witness_PostedEvents_trap :
    let s := recorded 2 (vectored (fun p => { p with defer := 1 }))
    Room s 1 2 32 Part.landAll ∧ Enabled s (s.part 1) 12 ∧ (s.part 1).live = true ∧ (s.part 1).st = .ready ∧ (s.part 1).defer ≠ 0 ∧ (s.part 1).umask = 0 ∧
      (s.part 1).mi.on = false ∧ (s.part 1).restrict = none ∧ (s.part 1).pend = [] ∧ 8 ≤ (s.part 1).w ∧
      faultRec 0 ∈ (s.team 0).recs ∧ (faultRec 0).sq = (s.part 1).sq ∧
      (∀ x ∈ (s.team 0).recs, x ≠ faultRec 0 → x.sq = (s.part 1).sq → (faultRec 0).order < x.order) ∧
      Store.get 0 (s.team 0).drops (s.part 1).sq = 0 :=
  ⟨room_of (by decide +kernel), enabled_of (by decide +kernel), by decide +kernel⟩

/-- A part with lanes `m` and SPLIT depth 1 asks to join huddle 3, whose entry is `e`; part 2 holds lanes 8 to 15. -/
def joining (m : Mask) (e : Huddle) : State :=
  let s := parted .switched (fun p => { p with
    amask := m
    split := 1 })
  let t := s.setPart 2 { s.part 1 with
    amask := 0xFF00
    st := .joining 3 0 none }
  message 9 (.join 1 3) (t.setHuddle (t.part 1) 3 e)

def joins (m : Mask) (e : Huddle) (agrees full : Bool) : Bool :=
  let s := joining m e
  let p := s.part 1
  let host := s.part e.hpid
  decide (s.msg 9 = some (.join 1 3)) && s.arrives 9 && !s.earlierMsg 9 1 && p.live && decide (s.huddle p 3 = e) &&
    (decide (e.level + 1 = p.sdepth ∧ (e.hostv = true → host.w = p.w ∧ host.depth = p.depth ∧ host.h = p.h)) == agrees) &&
    (decide (e.expect &&& ~~~((e.arrived ||| p.amask) ||| (s.team p.team).exitedOf p.sq) = 0) == full)

theorem witness_BarrierEvents_join :
    joins 0xFF Huddle.closed true true = true ∧ joins 0xFF ⟨0xFFFF, 0, 1, 0, false, true, 0⟩ false false = true ∧
    joins 0xFFFF ⟨0xFFFF, 0, 0, 0, false, true, 0⟩ true true = true ∧
    joins 0xFF ⟨0xFFFF, 0xFF00, 0, 0, true, true, 2⟩ true true = true ∧
    joins 0xFF ⟨0xFFFF, 0, 0, 0, false, true, 0⟩ true false = true ∧
    joins 0x7F ⟨0xFFFF, 0xFF00, 0, 0, true, true, 2⟩ true false = true := by decide +kernel

def replies (k core : Nat) : Bool :=
  let s := message 9 (.joinReply 1 3 k 15 2) ((withHost (parted .switched id)).setPart 2 { memory.current with core := core })
  decide (s.fab.msgs.find? (fun e => match e.2 with | some (.joinReply q _ _ _ _) => q == 1 | _ => false) =
    some (9, some (.joinReply 1 3 k 15 2))) && s.arrives 9 && (s.part 1).live && decide ((s.part 2).unit = (s.part 1).unit) &&
    decide ((s.part 2).core = core) && decide ((s.part 1).core = 0) &&
    decide ((s.part 1).st = .switched) && !s.xlatWait (.part 1) && decide ((s.part 1).mi.denied = []) &&
    decide (s.liveMask 1 (s.part 1).lsi = .inl 0xFFFFFFFF)

def finals (m : Mask) (covered : Bool) : Bool :=
  let s := message 9 (.finalMask 1 m 0) (parted (.joining 3 0 none) (fun p => { p with amask := 0xFF }))
  decide (s.fab.msgs.find? (fun e => match e.2 with | some (.finalMask q _ _) => q == 1 | _ => false) =
    some (9, some (.finalMask 1 m 0))) && s.arrives 9 && (s.part 1).live && decide ((s.part 1).st = .joining 3 0 none) &&
    !(s.team (s.part 1).team).frozen && (decide (m &&& ~~~(s.part 1).amask = 0) == covered)

theorem witness_BarrierEvents_reply :
    (List.range 5).all (fun k => replies k 0) = true ∧ replies 4 7 = true ∧ finals 0xFFFF false = true ∧
    finals 0xFF true = true := by decide +kernel

theorem witness_BarrierEvents_messages :
    ((message 9 (.exitMask 0 0 1) memory).msg 9 = some (.exitMask 0 0 1) ∧
      (message 9 (.exitMask 0 0 1) memory).arrives 9 = true) ∧
    (let s := message 9 (.arrive 1 0 0 7 0xFFFF true) memory
     s.msg 9 = some (.arrive 1 0 0 7 0xFFFF true) ∧ s.arrives 9 = true ∧ s.earlierMsg 9 1 = false ∧
       (Store.get Bar.fresh (s.team 0).bars 7).fullFor 0 0xFFFF = false ∧ (0xFFFF : Mask) ≠ 0) ∧
    (let s := message 9 (.sgo 1 0 7 7) memory
     s.msg 9 = some (.sgo 1 0 7 7) ∧ s.arrives 9 = true ∧ s.earlierMsg 9 1 = false) ∧
    (let s := message 9 (.swt 1 0 7 7 true) memory
     s.msg 9 = some (.swt 1 0 7 7 true) ∧ s.arrives 9 = true ∧ s.earlierMsg 9 1 = false) ∧
    (let s := message 9 (.kill 0 64 1) (parted .ready id)
     s.msg 9 = some (.kill 0 64 1) ∧ s.arrives 9 = true ∧ Store.wf Part.absent s.parts = true ∧ (s.part 1).live = true ∧ (s.part 1).team = 0 ∧
       (s.part 1).unit = 0 ∧ (s.part 1).st = .ready) ∧
    (let s := message 9 (.kill 0 0 1) (parted .parked id)
     s.msg 9 = some (.kill 0 0 1) ∧ s.arrives 9 = true ∧ Store.wf Part.absent s.parts = true ∧ (s.part 1).live = true ∧ (s.part 1).sq = 0 ∧
       (s.part 1).st = .parked) ∧
    (∀ sq ∈ [0, 64],
      let s := message 9 (.kill 0 sq 0) memory
      s.msg 9 = some (.kill 0 sq 0) ∧ s.arrives 9 = true ∧ (s.part 1).live = true ∧ (s.part 1).team = 0 ∧
        (sq < 64 ∧ (s.part 1).sq = sq ∨ 64 ≤ sq ∧ (s.part 1).sq < (s.team 0).sqn)) ∧
    (let s := parted .ready (fun p => { p with
        restartable := true
        mi := { MemOp.idle with sent := true } })
     (s.part 1).live = true ∧ (s.part 1).mi.sent = true ∧ (s.part 1).restartable = true) := by decide +kernel

/-- A scrum arrival of the squad, for a gang of squad 0 alone. -/
def latching (ls : List Latch) : State :=
  let s := parted .latched (fun p => { p with gang := 1 })
  message 9 (.latchAt 1 5 77 [3] 0xFFFF [] (copyEntry id)) (s.setTeam 0 { s.team 0 with latch := ls })

theorem witness_BarrierEvents_latch :
    (let s := latching []
     s.fab.msgs.find? (fun e => match e.2 with | some (.latchAt q _ _ _ _ _ _) => q == 1 | _ => false) =
       some (9, some (.latchAt 1 5 77 [3] 0xFFFF [] (copyEntry id))) ∧ s.arrives 9 = true ∧ (s.part 1).live = true ∧ (s.part 1).st = .latched ∧
       (s.team 0).latch.find? (fun x => x.gang == (s.part 1).gang && x.count == 5) = none ∧ (s.team 0).latch.length < 64) ∧
    (let x : Latch := ⟨1, 5, 77, [3], copyEntry id, [], false⟩
     let s := latching [x]
     (s.team 0).latch.find? (fun x => x.gang == (s.part 1).gang && x.count == 5) = some x ∧ x.failed = false ∧
       x.word = 77 ∧ x.ops = [3] ∧ ∀ q ∈ gangList x.gang, q = (s.part 1).sq ∨ ∃ a ∈ x.arrived, a.1 = q) ∧
    (∀ x ∈ [(⟨1, 5, 78, [3], copyEntry id, [], false⟩ : Latch), ⟨1, 5, 77, [4], copyEntry id, [], false⟩,
        ⟨1, 5, 77, [3], copyEntry id, [], true⟩],
      let s := latching [x]
      (s.team 0).latch.find? (fun x => x.gang == (s.part 1).gang && x.count == 5) = some x ∧
        (x.failed = true ∨ x.word ≠ 77 ∨ x.ops ≠ [3])) := by decide +kernel

/-- A bind record of stack 0 at slot 255, posted or not: team entry 0, squad 0, one squad, the window of 32. -/
def binding (p : Bool) : State :=
  let s := atTick 0 ((memory.setUreg 0 (0x61000 + 16 * 255) 2048).setUreg 0 (0x61008 + 16 * 255) 0xC100000000000009)
  { s with mg := { s.mg with binds := if p then [⟨0, 255⟩] else [] } }

theorem witness_BarrierEvents_bind :
    (binding true).mg.binds.any (fun x => x.unit == 0 && x.slot == 255) = true ∧
    ((binding true).ureg 0 (0x61000 + 16 * 255)).toNat ≤ ((binding true).tickAt 0).toNat + 2048 ∧
    ((binding true).team 0).v = true ∧ ((binding true).team 0).ended.contains 0 = false ∧
    (binding true).parkRoom 0 ((binding true).team 0).prt 1 = true ∧
    (let s := atTick 0 (memory.setUreg 0 0x61000 2049)
     (s.ureg 0 0x61000).toNat > (s.tickAt 0).toNat + 2048) ∧
    (binding false).mg.binds.any (fun x => x.unit == 0 && x.slot == 255) = false := by decide +kernel

theorem witness_QueueEvents :
    (let s := message 9 (.command 1 0 (copyEntry id)) memory
     s.msg 9 = some (.command 1 0 (copyEntry id)) ∧ s.arrives 9 = true ∧ (s.team 0).v = true ∧
       (∃ q ∈ (copyEntry id).squads, (s.team 0).ended.contains q = false) ∧ (s.team 0).inbox = [] ∧
       (copyEntry id).statRec = false ∧ (s.team 0).roomFor (copyEntry id) = true ∧
       ((s.setTeam 0 { s.team 0 with ents := List.replicate 16 (copyEntry id) }).team 0).roomFor (copyEntry id) = false) ∧
    (let e := copyEntry (fun e => { e with recOff := some 0xFFC0 })
     let s := message 9 (.command 1 0 e) memory
     let t := s.setTeam 0 { s.team 0 with
       regions := [(0, { Region.unused with
         used := true
         count := 1 })] }
     s.padStat 0 0xFFC0 64 = false ∧ t.padStat 0 0xFFC0 64 = true ∧ (t.team 0).roomFor e = true) ∧
    (({ memory.team 0 with inbox := [9] } : Team).inbox.contains 9 = true) ∧
    (let e := copyEntry (fun e => { e with cmd := .join 0x21 })
     let s := queued e
     s.clocked 0 = true ∧ (s.team 0).headOf 0 = some e ∧ ∀ j, j < 6 → (0x21 : BitVec 6).getLsbD j = true → ((s.team 0).headOf j) = some e) ∧
    (let e := copyEntry (fun e => { e with done := true })
     ((queued e).team 0).headOf 3 = some e ∧ e.begun = true ∧ e.done = true ∧ (queued e).recordDue 0 = false) := by
  decide +kernel

/-- A copy of 1,024 bytes to offset `soff` with its bitmap at `bmp` that may begin. -/
def fresh (soff bmp n : Nat) : Entry :=
  copyEntry (fun e => { e with
    cmd := .copy false soff bmp
    recd := copyRec n 0xFE00
    begun := false
    chunks := [] })

/-- What `QueueEvents` asks of a copy that begins. -/
def begins (s : State) (e : Entry) (soff bmp code : Nat) : Bool :=
  s.unitRuns 0 && decide ((s.team 0).headOf 3 = some e) && !e.begun && !e.done && (s.team 0).tileFree e &&
    decide (e.cmd = .copy false soff bmp) && decide (recCheck 65536 e.recd .cp 1 = code) &&
    decide ((s.team 0).mcount * 65536 = 65536) && decide ((parseRec e.recd).streamBytes = 1024 ∨ code ≠ 0)

theorem witness_QueueEvents_begin :
    (begins (queued (fresh 64512 65532 1024)) (fresh 64512 65532 1024) 64512 65532 0 = true ∧ 64512 + 1024 ≤ 65536 ∧
      65532 + 4 ≤ 65536 ∧ (queued (fresh 64512 65532 1024)).padStat 0 65532 4 = false) ∧
    begins (queued (fresh 0 0 0)) (fresh 0 0 0) 0 0 5 = true ∧
    (begins (queued (fresh 64513 0 1024)) (fresh 64513 0 1024) 64513 0 0 = true ∧ 65536 < 64513 + 1024) ∧
    (begins (queued (fresh 0 65533 1024)) (fresh 0 65533 1024) 0 65533 0 = true ∧ 65536 < 65533 + 4) ∧
    (let e := fresh 0 65532 1024
     let s := memory.setTeam 0 { memory.team 0 with
       ents := [e]
       regions := [(0, { Region.unused with
         used := true
         count := 1 })] }
     begins s e 0 65532 0 = true ∧ s.padStat 0 65532 4 = true) := by decide +kernel

/-- A gather of rows of 16 bytes, their list at `list`, that may begin; the list counts `n` rows. -/
def gathering (list n : Nat) (recd : List Byte) (row : Nat) (s : State) : State × Entry :=
  let e := copyEntry (fun e => { e with
    cmd := .gather (65536 - row) 0 list
    recd := recd
    begun := false
    chunks := [] })
  ((s.setTeam 0 { s.team 0 with ents := [e] }).poke (s.padSpa 0 list) 4 n, e)

/-- A tensor record of rows of `n` bytes, 9 of them. -/
def rowsRec (n : Nat) : List Byte := leBytes 8 0xFE00 ++ leBytes 4 0x5A0400 ++ leBytes 4 n ++ leBytes 4 9 ++ leBytes 44 0

/-- What `QueueEvents` asks of a gather that begins: the record's check gives `code`, and the list lies as `place` says. -/
def gathers (x : State × Entry) (alloc list n row code : Nat) : Bool :=
  let s := x.1
  s.unitRuns 0 && decide ((s.team 0).headOf 3 = some x.2) && !x.2.begun && !x.2.done && (s.team 0).tileFree x.2 &&
    decide (x.2.cmd = .gather (65536 - row) 0 list) && decide (recCheck alloc x.2.recd .cpg 1 = code) &&
    decide ((s.team 0).mcount * 65536 = alloc) && decide (s.padPeek 0 list 4 = n) &&
    decide ((parseRec x.2.recd).rowBytes = row ∨ code ≠ 0)

/-- The first or the second macro of two is stationary. -/
def macroUsed (m : Nat) : State := memory.setTeam 0 { memory.team 0 with
  mcount := 2
  regions := [(0, { Region.unused with
    used := true
    mac := m
    count := 1 })] }

theorem witness_QueueEvents_gather :
    gathers (gathering 0 1 (copyRec 16 0) 16 memory) 65536 0 1 16 5 = true ∧
    gathers (gathering 65533 0 (rowsRec 16) 16 memory) 65536 65533 0 16 0 = true ∧ 65536 < 65533 + 4 ∧
    (gathers (gathering 0 1 (rowsRec 16) 16 (macroUsed 0)) 131072 0 1 16 0 = true ∧
      (gathering 0 1 (rowsRec 16) 16 (macroUsed 0)).1.padStat 0 0 4 = true) ∧
    (gathers (gathering 0 0 (rowsRec 16) 16 memory) 65536 0 0 16 0 = true ∧
      (gathering 0 0 (rowsRec 16) 16 memory).1.padStat 0 0 4 = false) ∧
    gathers (gathering 0 8193 (rowsRec 64) 64 memory) 65536 0 8193 64 0 = true ∧ 524288 < 8193 * 64 ∧
    gathers (gathering 65532 1 (rowsRec 16) 16 memory) 65536 65532 1 16 0 = true ∧
    (gathers (gathering 65532 1 (rowsRec 16) 16 (macroUsed 1)) 131072 65532 1 16 0 = true ∧
      (gathering 65532 1 (rowsRec 16) 16 (macroUsed 1)).1.padStat 0 65532 4 = false ∧
      (gathering 65532 1 (rowsRec 16) 16 (macroUsed 1)).1.padStat 0 65532 8 = true) ∧
    (gathers (gathering 65528 1 (rowsRec 16) 16 memory) 65536 65528 1 16 0 = true ∧
      (gathering 65528 1 (rowsRec 16) 16 memory).1.padStat 0 65528 8 = false ∧
      (gathering 65528 1 (rowsRec 16) 16 memory).1.padStat 0 0 4 = false) := by decide +kernel

/-- A copy of 16 bytes at VA 0x200, on a page it has. -/
def moving (out : Bool) : Entry :=
  copyEntry (fun e => { e with
    cmd := .copy out 0x200 0x100
    recd := copyRec 16 0x200
    chunks := [0]
    pages := [⟨16, 0, 0, 0, false⟩] })

def moves (out : Bool) : Bool :=
  let e := moving out
  let s := openSlots (queued e)
  let as := chunkAddrs e 0
  let dst := fun (i : Nat) => if out then (s.pageAt 0 e ((as.getD i none).getD 0)).2.1 else s.padSpa 0 (0x200 + i)
  let word := s.padSpa 0 0x100
  s.clocked 0 && decide ((s.team 0).headOf 3 = some e) && as.all (fun a => match a with
    | some va => e.hasPage (va / 65536) && s.engineFlows 0 e out va
    | none => true) && decide (as.length = 16) &&
    (List.range 16).all (fun i => decide (dst i = dst 0 + i) && (decide (dst i < word) || decide (word + 4 ≤ dst i)) &&
      (!out || (decide ((s.pageAt 0 e ((as.getD i none).getD 0)).2.2 = (s.pageAt 0 e ((as.getD 0 none).getD 0)).2.2) &&
        decide (s.tagAt (dst i) = 0)))) &&
    (List.range 16).all (fun i =>
      match (if out then s.pieceOut 0 e (0x200 + 512 * 0 + i) ((as.getD i none).getD 0)
        else s.pieceIn 0 e (0x200 + 512 * 0 + i) (as.getD i none)) with
      | .move _ => true
      | _ => false)

theorem witness_QueueEvents_chunk : moves false = true ∧ moves true = true ∧ (moving true).begun = true ∧
    (moving true).done = false ∧ (moving true).parked = false ∧ (moving true).pos = 0 ∧ (moving true).hurt = false ∧
    ((moving true).chunks.takeWhile (fun d => d != 0)) = [] ∧
    ((queued (moving true)).team 0).stationary ((0x100 + 4 * (0 / 32)) / 65536) = false ∧ 0 ∈ (moving true).chunks ∧ 0x100 % 4 = 0 := by decide +kernel

/-- A two-dimensional record at `a` of format `f`: `e0` by `e1` elements, in the scratchpad or not. -/
def gridRec (a f e0 e1 : Nat) (pad : Bool) : List Byte :=
  leBytes 8 a ++ leBytes 4 (f + 256 * (if pad then 5 else 4) + 0x5A0000) ++ leBytes 4 e0 ++ leBytes 4 e1 ++ leBytes 44 0

/-- A region of one dense E4M3 macro in macro 1, of 32 by 8 elements. -/
def region1 (used : Bool) (recd : List Byte) : Region :=
  { Region.unused with
    used := used
    filling := !used
    mac := 1
    count := 1
    ty := .e4m3
    kx := 32
    nx := 8
    recd := recd }

/-- A team of one data macro, physical macro 0, and one more, physical macro 5, that may hold region 0; `c` heads its queue
`q` and may begin. -/
def engine (q : Nat) (c : Cmd) (recd : List Byte) (rs : List (Nat × Region)) : State :=
  let s := memory.setUreg 0 0x68000 0x50000
  s.setTeam 0 { s.team 0 with
    mcount := 2
    dmac := 1
    regions := rs
    ents := [copyEntry (fun e => { e with
      q := q
      cmd := c
      recd := recd
      begun := false
      chunks := [] })] }

def engineEntry (q : Nat) (c : Cmd) (recd : List Byte) : Entry :=
  copyEntry (fun e => { e with
    q := q
    cmd := c
    recd := recd
    begun := false
    chunks := [] })

/-- The entry heads its queue and may begin. -/
def ready (s : State) (q : Nat) (e : Entry) : Bool :=
  s.unitRuns 0 && decide ((s.team 0).headOf q = some e) && !e.begun && !e.done && (s.team 0).tileFree e

def rowCmd : Cmd := .prod .dense .auto .pl (some 1) 0 0 3 0 []
def rowRec : List Byte := gridRec 0x400 4 32 1 true

theorem witness_EngineEvents_fill :
    (let recd := gridRec 0x200 4 32 8 false
     let e := engineEntry 4 (.fill .e4m3 .dense 1 0) recd
     let s := engine 4 (.fill .e4m3 .dense 1 0) recd []
     let t := s.team 0
     let r := parseRec e.recd
     ready s 4 e = true ∧ recCheck t.alloc e.recd .fill (patG .dense) = 0 ∧ r.sparse = false ∧ r.fp = some .f32 ∧
       t.dmac = 1 ∧ 1 + (region1 false e.recd).total = t.mcount ∧ t.regions = [] ∧ (s.region 0 0).used = false) := by decide +kernel

/-- A fill of blocks of 128 bytes from `a` on, under way, with pages `ps`. -/
def filling (a : Nat) (ps : List Page) : State × Entry :=
  let recd := (gridRec a 4 32 8 false).take 28 ++ leBytes 6 128 ++ leBytes 30 0
  let e : Entry := { engineEntry 4 (.fill .e4m3 .dense 1 0) recd with
    begun := true
    pages := ps }
  let s := openSlots (engine 4 (.fill .e4m3 .dense 1 0) recd [(0, region1 false recd)])
  (s.setTeam 0 { s.team 0 with ents := [e] }, e)

def fills (x : State × Entry) : Bool :=
  x.1.clocked 0 && decide ((x.1.team 0).headOf 4 = some x.2) && x.2.begun && !x.2.done && !x.2.parked

/-- The pages of a block of a fill are there. -/
def blockReady (x : State × Entry) (b : Nat × Nat) : Bool :=
  (blockSpans (parseRec x.2.recd) b.1 b.2).all (fun y => (unitSpan y.1 y.2).all (fun g =>
    x.2.hasPage g && x.1.engineFlows 0 x.2 false (g * 65536)))

/-- The first block of the fill, and the region it fills. -/
def firstBlock (x : State × Entry) : Nat × List Nat × List Nat × Option Nat :=
  x.1.fillBlock 0 x.2 (parseRec x.2.recd) { x.1.region 0 0 with key := x.2.firstKey } 0 0

theorem witness_EngineEvents_fillEnd :
    (let x := filling 0x200 [⟨16, 0, 0, 0, false⟩]
     fills x = true ∧ (fillBlocks (parseRec x.2.recd)).length = 8 ∧ (fillBlocks (parseRec x.2.recd)).all (blockReady x) = true) ∧
    (let x := filling 0xFF80 [⟨16, 0, 0, 0, false⟩]
     fills x = true ∧ (fillBlocks (parseRec x.2.recd)).take 2 = [(0, 0), (1, 0)] ∧ blockReady x (1, 0) = false ∧
       blockReady x (0, 0) = true ∧ (firstBlock x).2.2.2 = none ∧
       (List.range (firstBlock x).2.1.length).all (fun i =>
         x.1.padSpa 0 ((x.1.region 0 0).elemOff i 0) != x.1.scaleSpa 0 (x.1.region 0 0) 0 0) = true) ∧
    (let x := filling 0xFF80 [⟨16, 0, 0, 0, true⟩]
     fills x = true ∧ blockReady x (0, 0) = true ∧ (firstBlock x).2.2.2.isSome = true) := by decide +kernel

/-- A product that begins, and one whose record fails a check. -/
def beginsRows (n : Nat) (s : State) (e : Entry) (pat : Option Pat) : Bool :=
  match s.beginProduct 0 e pat .auto .pl (some n) 0 0 0 [] with
  | .inr b => decide (b.m = n) && decide (b.g.kx ≤ 4096)
  | .inl _ => false

def begun (s : State) (e : Entry) (pat : Option Pat) : Bool := beginsRows 1 s e pat

theorem witness_EngineEvents_product :
    (let s := engine 4 rowCmd rowRec [(0, region1 true [])]
     ready s 4 (engineEntry 4 rowCmd rowRec) = true ∧ begun s (engineEntry 4 rowCmd rowRec) (some .dense) = true) ∧
    (let s := engine 4 rowCmd [] []
     ready s 4 (engineEntry 4 rowCmd []) = true ∧ begun s (engineEntry 4 rowCmd []) (some .dense) = false) ∧
    (∀ x ∈ [(ProdKind.sparse false, Pat.s24), (.sparse true, .s14)],
      let c : Cmd := .prod x.1 .auto .pl (some 1) 0 0 3 0 []
      let s := engine 4 c rowRec [(0, { region1 true [] with pat := x.2 })]
      ready s 4 (engineEntry 4 c rowRec) = true ∧ begun s (engineEntry 4 c rowRec) (some x.2) = true) := by decide +kernel

def deltaCmd (full : Bool) : Cmd := .prod (.delta full 0 77) .auto .pl (some 1) 0 0 3 0 []

/-- The launch allows reuse, and slot 0 holds the inputs of the same product: scales of 1 and codes of zero. -/
def reusing : State :=
  let s := engine 4 (deltaCmd false) rowRec [(0, region1 true [])]
  let l := s.launchOf (s.part 1)
  let u := s.setLaunch (State.lkey 0 1) { l with header := l.header.take 6 ++ leBytes 2 4 ++ l.header.drop 8 }
  let a := slotSpa 0 0
  ((u.poke a 4 (1 + 65536 * 77)).poke (a + 8) 8 0x010000200001_00_00).poke (a + 0x1000) 1 127

/-- The reason a delta invocation is computed in full; 100 when it does not begin. -/
def reason (s : State) (full : Bool) : Nat :=
  match s.beginProduct 0 (engineEntry 4 (deltaCmd full) rowRec) none .auto .pl (some 1) 0 0 0 [] with
  | .inr b => s.reuseReason 0 0 77 0 0 full b
  | .inl _ => 100

theorem witness_EngineEvents_delta :
    (ready reusing 4 (engineEntry 4 (deltaCmd false) rowRec) = true ∧ reason reusing false = 0) ∧
    (let s := engine 4 (deltaCmd true) rowRec [(0, region1 true [])]
     ready s 4 (engineEntry 4 (deltaCmd true) rowRec) = true ∧ reason s true ≠ 0 ∧ reason s true ≠ 100) ∧
    (let s := engine 4 (deltaCmd true) rowRec [(0, region1 true [])]
     let u := { s with keys := [] }
     ready u 4 (engineEntry 4 (deltaCmd true) rowRec) = true ∧ reason u true = 9 ∧
       s.keyAt (slotSpa 0 0) 0 (region1 true []).key ≠ 0) ∧
    (let u : State := { reusing with keys := [] }
     ready u 4 (engineEntry 4 (deltaCmd false) rowRec) = true ∧ reason u true = 1 ∧
       u.keyAt (slotSpa 0 0) 0 (region1 true []).key = 0) ∧
    (let c : Cmd := .prod (.delta false 0 77) .auto .pl (some 0) 0 0 3 0 []
     let s := engine 4 c rowRec [(0, region1 true [])]
     ready s 4 (engineEntry 4 c rowRec) = true ∧ beginsRows 0 s (engineEntry 4 c rowRec) none = true) ∧
    (let s := engine 4 (deltaCmd false) [] []
     ready s 4 (engineEntry 4 (deltaCmd false) []) = true ∧ begun s (engineEntry 4 (deltaCmd false) []) none = false) := by
  decide +kernel

theorem witness_EngineEvents_small :
    ([Cmd.free 7, .zero 3, .slotInv 255, .slotNint 255 1, .slotNint 255 64, .slotNint 255 0, .slotNint 255 65].all
      (fun c => ready (engine 4 c [] []) 4 (engineEntry 4 c []))) = true ∧
    ((engine 4 (.slotNint 255 64) [] []).slotKeyAt 0 255 0 ≠ 0 ∧
      (engine 4 (.slotNint 255 64) [] []).tagAt (slotSpa 0 255) = 0 ∧
      ({ engine 4 (.slotNint 255 64) [] [] with keys := [] } : State).slotKeyAt 0 255 0 = 0) ∧
    (let s := (engine 4 (.slotNint 255 64) [] []).poke (slotSpa 0 255) 1 3
     (s.byte (slotSpa 0 255)).getLsbD 0 = true ∧ (s.byte (slotSpa 0 255)).getLsbD 1 ≠ (s.partition (s.team 0).prt).secure) ∧
    ((engine 4 (.slotNint 255 64) [] []).byte (slotSpa 0 255)).getLsbD 0 = false ∧ 1 ≤ 64 ∧ 0 < 1 ∧ 64 < 65 := by
  decide +kernel

/-- Two rows from row 126 of tile 3, 32 bytes apart, drained to offset `dst`. -/
def drainMod : DMod := ⟨0, 126, 2, 2⟩

theorem witness_EngineEvents_drain :
    (∀ c ∈ [Cmd.drainN true drainMod 3 0x100, .drainQ .e2m1 drainMod 3 0x100 0x200],
      ready (engine 5 c [] []) 5 (engineEntry 5 c []) = true ∧
        ready (engine 5 c [] [(0, region1 true [])]) 5 (engineEntry 5 c []) = true) ∧
    (let s := engine 5 (.drainN true drainMod 3 0x100) [] [(0, region1 true [])]
     let rows := (List.range drainMod.rows.toNat).map (fun i =>
       (drainMod.row0.toNat + i, 0x100 + i * (16 * drainMod.rstride.toNat)))
     s.drainStat 0 64 rows = false ∧ (s.drainStat 0 16 (State.drainRows drainMod 0x100) || s.padStat 0 0x200 2) = false) ∧
    (let s := engine 5 (.drainN true drainMod 3 0x10000) [] [(0, region1 true [])]
     let rows := (List.range drainMod.rows.toNat).map (fun i =>
       (drainMod.row0.toNat + i, 0x10000 + i * (16 * drainMod.rstride.toNat)))
     s.drainStat 0 64 rows = true ∧ (s.drainStat 0 16 (State.drainRows drainMod 0x10000) || s.padStat 0 0x200 2) = true) := by
  decide +kernel

/-- Rows added at the rows that an index names, the second one outside the allocation or in a stationary macro. -/
def addCmd (idx : List (Option Nat)) : Cmd := .drainX drainMod 3 0x100 idx

theorem witness_EngineEvents_add :
    let named := fun (idx : List (Option Nat)) => (idx.zipIdx).filterMap (fun x => match x.1 with
      | some n => if 126 + x.2 < 128 then some (126 + x.2, 0x100 + n * 32) else none
      | none => none)
    let inside := fun (s : State) (idx : List (Option Nat)) => (named idx).map (fun r => s.padIn 0 r.2 128)
    (let s := engine 5 (addCmd [some 0, some 2047]) [] [(0, region1 true [])]
     ready s 5 (engineEntry 5 (addCmd [some 0, some 2047]) []) = true ∧ inside s [some 0, some 2047] = [true, true] ∧
       s.drainStat 0 128 (named [some 0, some 2047]) = true) ∧
    (let s := engine 5 (addCmd [some 0, some 7]) [] []
     ready s 5 (engineEntry 5 (addCmd [some 0, some 7]) []) = true ∧ inside s [some 0, some 7] = [true, true] ∧
       s.drainStat 0 128 (named [some 0, some 7]) = false) ∧
    (let s := engine 5 (addCmd [some 0, some 5000]) [] []
     ready s 5 (engineEntry 5 (addCmd [some 0, some 5000]) []) = true ∧ inside s [some 0, some 5000] = [true, false] ∧
       s.drainStat 0 128 [(126, 0x100)] = false) := by decide +kernel

theorem witness_EngineEvents_units :
    (memory.ureg 0 0x80008).getLsbD 0 = false ∧ ((memory.setUreg 0 0x80008 1).ureg 0 0x80008).getLsbD 0 = true ∧ isStack 0 = true ∧
    (let s := (engine 4 (.zero 0) [] [(0, region1 true [])]).setUreg 0 0x50010 1
     let t : State := { s with ecc := Store.set false [] (s.scaleSpa 0 (region1 true []) 0 0 / 32) true }
     (s.ureg 0 0x50010).toNat % 65536 ≠ 0 ∧ s.regionOf 0 5 = some (0, 0, region1 true [], 0) ∧
       0 < (region1 true []).weights ∧ 0 / 8 < (region1 true []).cols ∧ s.isPoison 0 (region1 true []) 0 0 = false ∧
       s.blockErr 0 (region1 true []) 0 0 = false ∧ t.regionOf 0 5 = some (0, 0, region1 true [], 0) ∧
       t.isPoison 0 (region1 true []) 0 0 = false ∧ t.blockErr 0 (region1 true []) 0 0 = true) := by decide +kernel

/-- `memory` with page tables that map VA 0 to SPA 0x50000, with all rights, for unit 16. -/
def mappedVa : State :=
  let s := memory.setUreg 16 0x20000 0x10001
  (((s.poke 0x10000 8 0x20001).poke 0x20000 8 0x30001).poke 0x30000 8 0x40001).poke 0x40000 8 0x5060F

/-- A booted machine with queue 14 of partition 0 configured, and its HEAD. -/
def belled (cfg head : DWord) (f : State → State := id) : State :=
  let o := lqOff 0 14
  let s := ((f mappedVa).setUreg 16 (o + 8) cfg).setUreg 16 (o + 0x18) head
  { s with mg := { s.mg with boot := 9 } }

theorem witness_LaunchEvents_doorbell :
    memory.mg.boot ≠ 9 ∧ (belled 0x1C 0).mg.boot = 9 ∧ ((belled 0x1C 0).partition 0).ex = true ∧
    ((belled 0x1C 0).partition 7).ex = false ∧ ((belled 0x1C 0).ureg 16 (lqOff 0 14 + 8)).getLsbD 4 = true ∧
    lqLog ((belled 0x1C 0).ureg 16 (lqOff 0 14 + 8)) = 12 ∧ ((belled 0xC 0).ureg 16 (lqOff 0 14 + 8)).getLsbD 4 = false ∧
    ((belled 0x1C 0).ureg 16 (lqOff 0 14 + 0x18)).toNat % 2 ^ 32 = 0 ∧ 4096 < 4097 ∧
    ((belled 0x1C 0xFFFFFFFF).ureg 16 (lqOff 0 14 + 0x18)).toNat % 2 ^ 32 = 0xFFFFFFFF ∧
    ((0 : Word).toNat + 2 ^ 32 - 0xFFFFFFFF) % 2 ^ 32 = 1 ∧
    (((belled 0x1C 0).setUreg 16 (lqOff 0 14 + 0x10) 1).mgmtRead 0 (((belled 0x1C 0).ureg 16 (lqOff 0 14)).toNat + 128 * 0) 0
      128).isSome = true := by decide +kernel

/-- The packet of a launch of `n` teams in x with fields changed: (offset, bytes, value). -/
def packet (n : Nat) (fs : List (Nat × Nat × Nat)) : List Byte :=
  fs.foldl (fun b f => b.take f.1 ++ leBytes f.2.1 f.2.2 ++ b.drop (f.1 + f.2.1))
    (leBytes 8 0 ++ leBytes 2 n ++ leBytes 2 1 ++ leBytes 2 1 ++ List.replicate 114 0)

/-- `mappedVa` with launch 2 in queue 15, and the homes of partition 0. -/
def launched (hs : BitVec 40) (f : Launch → Launch) (cl : Option Nat := none) : State :=
  let s := mappedVa.setLaunch (State.lkey 0 2) (f { Launch.absent with
    ex := true
    q := 15
    id := 2
    packet := packet 1 []
    header := leBytes 64 0
    checked := true
    seq := 1 })
  s.setPartition 0 { s.partition 0 with
    homes := [(0, hs)]
    closing := cl }

def head15 (s : State) : Bool :=
  decide (s.queueHead 0 15 = some (State.lkey 0 2)) && (List.range 15).all (fun r => (s.queueHead 0 r).isNone) &&
    !((s.launch (State.lkey 0 2)).timed && decide ((s.launch (State.lkey 0 2)).pk 24 8 ≤ s.tick.toNat)) &&
    (s.launch (State.lkey 0 2)).ex && decide ((s.launch (State.lkey 0 2)).st = .queued)

/-- The launch after its wait events have been evaluated, which can be read. -/
def evaluated (s : State) : Launch := (s.evalEvents (s.launch (State.lkey 0 2))).getD Launch.absent

/-- The launch waits for another reason than for room. -/
def waitsB (s : State) : Bool :=
  let l := evaluated s
  let s1 := s.setLaunch (State.lkey 0 2) l
  decide (l.pk 120 1 % 2 = 1 ∧ s1.prevOpen l = true) || !l.met.all id || decide (256 ≤ s1.running l.prt) || !s1.mayAdmit l

/-- A header whose TIMED flag is set. -/
def timedHeader : List Byte := leBytes 6 0 ++ leBytes 2 2 ++ leBytes 56 0

theorem witness_LaunchEvents_events :
    (head15 (launched 1 id) = true ∧ (evaluated (launched 1 id)).ex = true ∧ waitsB (launched 1 id) = false ∧
      (evaluated (launched 1 id)).timed = false) ∧
    (let s := launched 1 (fun l => { l with packet := packet 1 [(32, 8, 0x10000)] })
     head15 s = true ∧ (s.evalEvents (s.launch (State.lkey 0 2))).isNone = true) ∧
    (let s := launched 1 (fun l => { l with
        checked := false
        packet := packet 1 [(121, 1, 1)] })
     head15 s = true ∧ (s.checkLaunch (s.launch (State.lkey 0 2))).1 = 1) ∧
    (waitsB (launched 1 id (some 7)) = true ∧ (evaluated (launched 1 id (some 7))).ex = true) ∧
    (let s := launched 1 (fun l => { l with packet := packet 1 [(32, 8, 8), (40, 8, 1)] })
     waitsB s = true ∧ (evaluated s).ex = true) := by decide +kernel

theorem witness_LaunchEvents_room :
    (let s := (launched 1 id).setLaunch (State.lkey 0 2) (evaluated (launched 1 id))
     (s.bestStack (evaluated s)).isSome = true) ∧
    (let s := launched 0 id
     head15 s = true ∧ waitsB s = false ∧
       ((s.setLaunch (State.lkey 0 2) (evaluated s)).bestStack (evaluated s)).isNone = true) := by decide +kernel

/-- The state with launch 3, taken before launch 2 in its queue, that has a team to place. -/
def before (s : State) : State := s.setLaunch (State.lkey 0 3) { s.launch (State.lkey 0 2) with
  id := 3
  st := .admitted
  seq := 0
  next := 0 }

theorem witness_LaunchEvents_timed :
    (let s := launched 1 (fun l => { l with
        header := timedHeader
        packet := packet 2 [(24, 8, 5)] })
     head15 (atTick 4 s) = true ∧ head15 (atTick 5 s) = false ∧ waitsB s = false ∧ (evaluated s).timed = true ∧
       (evaluated s).pk 24 8 = 5 ∧ (evaluated s).teams = 2 ∧
       ((atTick 4 s).setLaunch (State.lkey 0 2) (evaluated s)).outranked (State.lkey 0 2) (evaluated s) = false ∧
       (((atTick 4 s).setLaunch (State.lkey 0 2) (evaluated s)).placeTimed (evaluated s) 0 [] 2).isSome = true ∧
       ((before (atTick 4 s)).setLaunch (State.lkey 0 2) (evaluated s)).outranked (State.lkey 0 2) (evaluated s) = true ∧
       let l := s.launch (State.lkey 0 2)
       l.ex = true ∧ l.st = .queued ∧ l.checked = true ∧ s.queueHead 0 15 = some (State.lkey 0 2) ∧ l.timed = true ∧
         l.pk 24 8 ≤ (atTick 5 s).tick.toNat ∧ (s.partition 0).replayNext ≠ 2) ∧
    (let s := launched 1 (fun l => { l with seq := 0 })
     let t := s.setPartition 0 { s.partition 0 with replayNext := 2 }
     t.earlierOpen (t.launch (State.lkey 0 2)) = false ∧ (t.launch (State.lkey 0 2)).st = .queued) ∧
    (let s := launched 0 (fun l => { l with
        header := timedHeader
        packet := packet 2 [(24, 8, 5)] })
     waitsB s = false ∧ (((atTick 4 s).setLaunch (State.lkey 0 2) (evaluated s)).placeTimed (evaluated s) 0 [] 2).isNone =
       true) := by decide +kernel

theorem witness_LaunchEvents_place :
    (let s := launched 1 (fun l => { l with
        st := .admitted
        packet := packet 3 []
        next := 2 })
     let l := s.launch (State.lkey 0 2)
     l.ex = true ∧ l.st = .admitted ∧ (s.partition l.prt).closing.isNone = true ∧ l.next = 2 ∧ 2 < l.teams ∧
       s.bestStack l = some 0 ∧
       (s.rivals (State.lkey 0 2) 0).all (fun x => !launchBefore x l) = true ∧ (s.freeEntry 0).isSome = true ∧
       let t := before s
       (t.rivals (State.lkey 0 2) 0).any (fun x => launchBefore x l && x.q == l.q) = true ∧
         t.launch (State.lkey 0 2) = l ∧ t.bestStack l = some 0 ∧ (t.partition l.prt).closing.isNone = true) ∧
    (launched 1 id).launchOver (State.lkey 0 2) = false ∧
    (let s := launched 1 (fun l => { l with st := .refused })
     s.launchOver (State.lkey 0 2) = true ∧
       ((s.captureEnd (State.lkey 0 2)).addDone (s.launch (State.lkey 0 2))).isSome = true) ∧
    (let s := launched 1 (fun l => { l with
        st := .refused
        packet := packet 1 [(96, 8, 0x10000)] })
     s.launchOver (State.lkey 0 2) = true ∧
       ((s.captureEnd (State.lkey 0 2)).addDone (s.launch (State.lkey 0 2))).isNone = true) := by decide +kernel

/-- `memory` with its team changed. -/
def teamed (f : Team → Team) (s : State := memory) : State := s.setTeam 0 (f (s.team 0))

/-- A saved image of team 0, number 4, laid back in an entry or not, and whether its partition has a stack. -/
def imaged (hs : BitVec 40) (laid : Option Nat := none) : State :=
  let s := (launched hs id).setLaunch (State.lkey 0 1) { placedLaunch with packet := packet 1 [] }
  { s with mg := { s.mg with images := [(4, some ⟨memory.team 0, 0, 0, laid, [], [], [], []⟩)] } }

def rests (s : State) : Bool :=
  (s.team 0).v && !s.ending 0 && !s.resuming 0 && !s.checkpointing 0 && !s.mg.relink.contains 0

theorem witness_TeamLossEvents :
    (rests memory = true ∧ (memory.team 0).frozen = false ∧ memory.xfNames 0 = false) ∧
    (rests parkedAt = true ∧ (parkedAt.team 0).frozen = false ∧ parkedAt.xfNames 0 = true) ∧
    (let s := teamed (fun t => { t with frozen := true }) (parted (.blocked (.phase 0 1 false) false) id)
     rests s = true ∧ (s.team 0).frozen = true ∧ s.imageReady 0 = true) ∧
    (let s := teamed (fun t => { t with frozen := true })
     rests s = true ∧ (s.team 0).frozen = true ∧ s.imageReady 0 = false) ∧
    (∀ k ∈ [true, false],
      let s := (teamed (fun t => { t with
        frozen := true
        deadline := 5 })).setPartition 0 { memory.partition 0 with pkill := k }
      rests s = true ∧ (s.team 0).frozen = true ∧ (atTick 4 s).tick.toNat < (s.team 0).deadline ∧
        (s.team 0).deadline ≤ (atTick 5 s).tick.toNat ∧ (s.partition 0).pkill = k) ∧
    (let s := teamed (fun t => { t with restarting := true })
     (s.team 0).v = true ∧ (s.team 0).killed = false ∧ (s.team 0).restarting = true ∧ (s.team 0).ents = [] ∧
       s.teamPosting 0 = false ∧ (s.partStacks 0).contains 0 = true) ∧
    (let s := teamed (fun t => { t with
        restarting := true
        ents := [copyEntry id] })
     (s.team 0).restarting = true ∧ (s.team 0).ents ≠ []) ∧
    (let s := (teamed (fun t => { t with
        restartable := true
        restarts := 2 })).setUreg 0 0x70010 3
     rests s = true ∧ (s.part 1).live = true ∧ (s.part 1).team = 0 ∧ (s.team 0).restartable = true ∧
       (s.team 0).restarts < (s.ureg 0 0x70010).toNat % 4) ∧
    (rests memory = true ∧ (memory.team 0).restartable = false) ∧
    (∀ x ∈ [teamed (fun t => { t with killed := true }), { memory with fab := { memory.fab with msgs := [(9, some (.kill 0 64 0))] } }],
      (x.team 0).v = true ∧ x.ending 0 = true ∧ (x.part 1).live = true ∧ (x.part 1).team = 0) ∧ (memory.part 0).live = false ∧
    ((imaged 1).mg.images.all (fun e => (e.2.bind Image.laid).isNone) = true ∧ ((imaged 1).partStacks 0).contains 0 = true ∧
      (imaged 1).stackFits ((imaged 1).launch (State.lkey 0 1)) 0 = true) ∧
    ((imaged 0).partStacks 0).contains 0 = false ∧
    (let s := imaged 1 (some 0)
     let im : Image := ⟨memory.team 0, 0, 0, some 0, [], [], [], []⟩
     let t := ({ s with mg := { s.mg with images := Store.set none s.mg.images 4 none } } : State).enterParts im 0
     Store.get none s.mg.images 4 = some im ∧ s.ending 0 = false ∧ (s.team 0).ents = [] ∧ (State.imageHosts im).length = 0 ∧
       s.parkRoom 0 0 0 = true ∧ ∀ c, c < 8 → t.usedGroups 0 c ≤ 2048) ∧
    ((teamed (fun t => { t with ents := [copyEntry id] }) (imaged 1 (some 0))).team 0).ents ≠ [] := by decide +kernel

/-- A request of part 1 for lane 3, number 6, sent `n` times, the last at tick 10. -/
def request (wr : Bool) (n : Nat) : Remote :=
  ⟨1, 0, 0, 0, 0, 16, 5, 2, wr, .v 6, ⟨.w32, false⟩, 1, 0, ⟨true, 1, 2, 3⟩, false, 4, [(3, 8, 7)], n, 0, 10, 100, 9⟩

/-- A machine with that request, its hub locked or not, a timeout of 1,000 ticks, and one rate entry allowed. -/
def requested (wr : Bool) (n t : Nat) (lock : Bool) : State :=
  let s := (((openSlots memory).setUreg 16 0x70008 1000).setUreg 16 0x80000 (if lock then 1 else 0)).setPartition 0
    { memory.partition 0 with desc := [0, 0, 2, 0, 1] }
  atTick t { s with net := { s.net with remotes := [(6, some (request wr n))] } }

/-- The rate entry of the request, and whether it may be sent. -/
def sendable (wr : Bool) (n t : Nat) (lock : Bool) : Option Bool :=
  let s := requested wr n t lock
  (s.rateFor (request wr n)).map (fun x =>
    s.locked 16 && decide (x.1.readyAt ≤ (s.tickAt 16).toNat) && (wr || !s.rerunning 0) && s.ownsSlot 16 16 0 && s.net.portAt.isEmpty)

theorem witness_RemoteEvents_send :
    (requested false 0 0 true).remote 6 = some (request false 0) ∧ sendable false 0 0 true = some true ∧
    sendable false 0 0 false = some false ∧ sendable false 1 110 true = some true ∧
    (let r := request false 1
     let s := requested false 1 110 true
     r.lastSend.toNat + r.rto = (s.tickAt r.hub).toNat ∧ (s.tickAt r.hub).toNat < r.first.toNat + (s.ureg r.hub 0x70008).toNat) ∧
    (let r := request false 1
     let s := requested false 1 109 true
     (s.tickAt r.hub).toNat < r.lastSend.toNat + r.rto) ∧
    (∀ wr ∈ [true, false],
      let r := request wr 1
      let s := requested wr 1 1000 true
      (s.tickAt r.hub).toNat = r.first.toNat + (s.ureg r.hub 0x70008).toNat ∧ (s.team r.team).frozen = false ∧ r.wr = wr ∧
        ((requested wr 1 999 true).tickAt 16).toNat < r.first.toNat + (s.ureg r.hub 0x70008).toNat) ∧
    ((teamed (fun t => { t with frozen := true }) (requested false 1 1000 true)).team 0).frozen = true := by decide +kernel

/-- A datagram for partition 0 of operation `op`, request `id`, formed at tick `t` with an age of 4 units, for lane 3 of
window 5. -/
def datagram (op id t : Nat) : Dgram :=
  ⟨9, 8, 0, 0, 0, 0, false, leBytes 1 1 ++ leBytes 1 op ++ leBytes 2 0 ++ leBytes 4 3 ++ leBytes 4 id ++ leBytes 2 5 ++
    leBytes 2 8 ++ leBytes 8 t ++ leBytes 5 0 ++ leBytes 3 4 ++ leBytes 16 0⟩

def repliesTo (op id : Nat) : Bool :=
  let f := fieldOf (datagram op id 0).payload
  decide (f 0 1 = 1 ∧ 3 ≤ f 1 1 ∧ f 1 1 ≤ 5)

/-- A request datagram is taken at tick `t`. -/
def taken (op t sent : Nat) (lock : Bool) : Bool :=
  let s := requested false 0 t lock
  let g := datagram op 0 sent
  let f := fieldOf g.payload
  let gap := ((s.tickAt 16).toNat : Int) - f 16 8
  decide (((List.range 8).filter (fun n =>
    (s.partition n).ex && s.partAddr n == g.toAddr && s.partPort n == g.toPort)) = [0]) && s.locked 16 &&
    decide (-128 ≤ gap ∧ gap < 256 * (f 29 3 : Int) - 128) && decide (f 0 1 = 1 ∧ (f 1 1 = 1 ∨ f 1 1 = 2))

theorem witness_RemoteEvents_receive :
    (repliesTo 3 0x2005 = true ∧ repliesTo 5 0x2005 = true ∧ repliesTo 2 0x2005 = false) ∧
    ((requested false 1 0 true).findRemote 16 (fieldOf (datagram 3 0x2005 0).payload 8 4) = some (6, request false 1) ∧
      (requested false 1 0 true).findRemote 16 (fieldOf (datagram 3 0x1005 0).payload 8 4) = none) ∧
    (taken 1 0 128 true = true ∧ taken 2 895 0 true = true ∧ taken 1 0 129 true = false ∧ taken 2 896 0 true = false ∧
      taken 3 0 0 true = false ∧ taken 1 0 0 false = false) := by decide +kernel

/-- A machine whose routes have failed, with a message of part 1 on its way to another package. -/
def parted2 (n : Nat) : State :=
  let s : State := { memory with mg := { memory.mg with
    boot := n
    formed := false } }
  s.setVia 9 (some ⟨0, 32, 0, 2⟩)

theorem witness_RemoteEvents_domain :
    isHub 16 = true ∧ isHub 17 = true ∧ (requested false 1 0 true).hubs.contains 16 = true ∧
    (let s := parted2 7
     7 ≤ s.mg.boot ∧ s.mg.bootCode = 0 ∧ 0 ∈ [0, 63] ∧ (∀ k ∈ [0, 63], k < 64) ∧ [0, 63].eraseDups = [0, 63] ∧
       s.mg.formed = false ∧ s.toFreeze = [0] ∧ s.xfNames 0 = false) ∧
    (let s : State := { memory with mg := { memory.mg with boot := 7 } }
     s.toFreeze = [] ∧ s.mg.relink = [] ∧ s.inLost [0, 63] { memory.current with unit := 32 } = true ∧
       ((s.setPart 1 { memory.current with unit := 32 }).team 0).v = true ∧ s.ending 0 = false) ∧
    (let s : State := { parkedAt with mg := { parkedAt.mg with
       boot := 7
       formed := false } }
     let t := s.setVia 9 (some ⟨0, 32, 0, 2⟩)
     t.mg.bootCode = 0 ∧ t.toFreeze = [0] ∧ t.xfNames 0 = true) ∧
    (let s : State := { teamed (fun t => { t with frozen := true }) with mg := { memory.mg with
       boot := 7
       relink := [0] } }
     s.mg.bootCode = 0 ∧ s.toFreeze = [] ∧ (s.team 0).v = true) ∧
    ¬ 7 ≤ memory.mg.boot := by decide +kernel

/-- The read of `request` is awaited by part 1 alone, or its write by the posted request 9. -/
def awaited (f : Part → Part) : State :=
  let s := requested false 1 0 true
  let t := s.setPart 1 (f { s.part 1 with
    st := .blocked (.remote (.v 6) ⟨.w32, false⟩) false
    umask := 8 })
  { t with fab := { t.fab with posted := [(9, some (posted .flight))] } }

theorem witness_RemoteEvents_settle :
    (let p := (awaited id).part 1
     p.live = true ∧ p.st = .blocked (.remote (.v 6) ⟨.w32, false⟩) false ∧ (request false 1).dst = .v (6 : Fin 32) ∧
       (⟨.w32, false⟩ : IType).w ≠ .w64 ∧ ((awaited id).team p.team).frozen = false ∧ p.mi.fails = [] ∧
       maskOf (fun l => p.umask.getLsbD l && !([3] : List Nat).contains l) = 0) ∧
    (let p := (awaited (fun p => { p with umask := 12 })).part 1
     maskOf (fun l => p.umask.getLsbD l && !([3] : List Nat).contains l) ≠ 0) ∧
    (∀ c ∈ [Cause.remoteFault, .remoteTimeout], c ≠ .misaligned ∧ c ≠ .protection) ∧
    ((awaited (fun p => { p with live := false })).part 1).live = false ∧
    ((awaited id).preq (request true 1).preq = some (posted .flight)) ∧ (memory.preq 9).isNone = true := by decide +kernel

/-- A booted machine whose PF0 mailbox holds request `op` with SEQ 7, and ARGBUF its arguments `ws` and the bytes `bs`. -/
def asking (op : Nat) (ws : List Nat := []) (s : State := memory) (bs : List Byte := []) : State :=
  let n := 8 * ws.length + bs.length
  let words := ws ++ (List.range ((bs.length + 7) / 8)).map (fun i => fieldOf bs (8 * i) 8)
  let t := (words.zipIdx).foldl (fun (s : State) w => s.setUreg 2048 (0x2000 + 8 * w.2) (BitVec.ofNat 64 w.1))
    ((s.setUreg 2048 0x1000 (BitVec.ofNat 64 (op + 7 * 2 ^ 32))).setUreg 2048 0x1008 (BitVec.ofNat 64 n))
  { t with mg := { t.mg with
    boot := 9
    mbox := Store.set Mbox.empty t.mg.mbox 0 { Mbox.empty with busy := true } } }

/-- A mailbox of function `fn` that is busy or not, with its header. -/
def mailed (fn : Nat) (busy : Bool) (h : Nat) (s : State := memory) : State :=
  let t := s.setUreg (2048 + fn) 0x1000 (BitVec.ofNat 64 h)
  { t with mg := { t.mg with
    boot := 9
    mbox := Store.set Mbox.empty t.mg.mbox fn { Mbox.empty with busy := busy } } }

/-- The fault of page 3 of unit 4 is forwarded to the host of partition 0, which answers it. -/
def answering (opened : Bool) : State :=
  let s := (mailed 1 true 2).setUreg 2049 0x1008 (BitVec.ofNat 64 (4 * 32 + 65536 * 3 + 2 ^ 32))
  { s with mg := { s.mg with service := if opened then [(0, 4, 3, 5)] else [] } }

/-- The control window of partition 0 is its first 64 KiB, mapped as `mappedVa` maps it. -/
def windowed (n : Nat) : State :=
  let s := mailed 1 false 0 mappedVa
  s.setPartition 0 { s.partition 0 with cwsize := n }

theorem witness_HostEvents :
    memory.fnPresent 9 = false ∧ memory.fnPresent 1 = false ∧ memory.fnPresent 0 = true ∧
    ((mailed 0 true 0x10F).mboxOf 0).busy = true ∧ ((mailed 0 false 0x10F).mboxOf 0).busy = false ∧
    (hostOpcode 0 ((mailed 0 false 0xF8010F).h2dHead 0 % 65536) = true ∧
      bitsOf ((mailed 0 false 0xF8010F).h2dHead 0) 31 16 = 248) ∧
    hostOpcode 0 ((mailed 0 false 0x110).h2dHead 0 % 65536) = false ∧
    (let s := memory.setMbox 0 { Mbox.empty with out := [[1]] }
     (s.mboxOf 0).out = [[1]] ∧ (s.mboxOf 0).full = false ∧ (memory.mboxOf 0).out = []) ∧
    (∀ o ∈ [true, false],
      let s := answering o
      s.fnPresent 1 = true ∧ (s.mboxOf 1).busy = true ∧ s.h2dHead 1 % 65536 = 2 ∧ s.h2dPay 1 % 65536 / 32 = 4 ∧
        bitsOf (s.h2dPay 1) 31 16 = 3 ∧ bitsOf (s.h2dPay 1) 39 32 = 1 ∧
        (s.mg.service.any (fun e => e.1 == 1 - 1 && e.2.1 == 4 && e.2.2.1 == 3)) = o) ∧
    ((atTick 4 (answering true)).tick.toNat < 5 ∧ 5 ≤ (atTick 5 (answering true)).tick.toNat ∧
      (answering true).mg.service = [] ++ (0, 4, 3, 5) :: []) ∧
    ((windowed 1).fnPresent 1 = true ∧ ((windowed 1).windowSpa 0 0 1 true).2 = some (0x50000, 1) ∧
      ((windowed 1).windowSpa 0 0 1 false).2 = some (0x50000, 1) ∧ ((windowed 1).windowSpa 0 1 1 true).2 = none ∧
      ((windowed 1).windowSpa 0 1 1 false).2 = none ∧
      Store.get false ((windowed 1).windowSpa 0 0 1 false).1.ecc (0x50000 / 32) = false) ∧
    (let s := fun b => ({ memory with mg := { memory.mg with
       linkUp := true
       boot := b } } : State)
     ((s 2).mg.linkUp = true ∧ (s 2).mg.boot < 3 ∧ 0xFFFFFFF + [(7 : Byte)].length ≤ 0x10000000) ∧ ¬ (s 3).mg.boot < 3 ∧
       0x10000000 < 0x10000000 + [(7 : Byte)].length) := by decide +kernel

/-- A descriptor of partition 1 with home 1, written in ARGBUF; without its fault limit it is refused. -/
def described (ok : Bool) : State := asking 0x101 [1, if ok then 1 + 100 * 2 ^ 32 else 0, 0, 0, 0, 0, 0, 0, 2]

def closing (op : Nat) (ws : List Nat := []) (s : State := memory) : State :=
  let t := asking op ws s
  t.setPartition 0 { t.partition 0 with closing := some 3 }

theorem witness_PartitionEvents_create :
    memory.request 0x101 [] [] = none ∧ (described true).request 0x101 [] [] = some 7 ∧
    (((described true).partition 1).closing = none ∧ (described true).createBad ((described true).argBytes 576) = false) ∧
    (described false).createBad ((described false).argBytes 576) = true ∧ (described false).request 0x101 [] [] = some 7 ∧
    fieldOf ((described true).argBytes 576) 0 1 = 1 ∧
    (let s := closing 0x101
     fieldOf (s.argBytes 576) 0 1 = 0 ∧ (s.partition 0).closing.isSome = true ∧ s.request 0x101 [] [] = some 7) := by
  decide +kernel

/-- R388, R389: three slots of partition 5 in a table whose first slot partition 2 owns, and their release. -/
theorem test_slots :
    State.ownSlots 5 3 [10, 0, 0, 0, 0] = [10, 13, 13, 13, 0] ∧ State.releaseSlots 5 [10, 13, 13, 13, 0] = [10, 0, 0, 0, 0] := by
  decide

theorem witness_PartitionEvents_teardown :
    (((closing 0x102 [0]).partition 0).closing = some 3 ∧ (closing 0x102 [0]).request 0x102 [0] [] = some 7) ∧
    ((closing 0x102 [1]).request 0x102 [0] [] = none ∧ ((closing 0x102 [1]).partition 0).closing = some 3 ∧
      (closing 0x102 [1]).drained 0 = false) ∧
    (closing 0x101 [] { memory with
      parts := []
      teams := [] }).drained 0 = true ∧
    ((asking 0x102 [7]).request 0x102 [7] [] = some 7 ∧ ((asking 0x102 [7]).partition 7).ex = false) ∧
    ((asking 0x102 [0]).request 0x102 [0] [] = some 7 ∧ ((asking 0x102 [0]).partition 0).ex = true ∧
      ((asking 0x102 [0]).partition 0).closing = none) ∧
    (asking 0x102 [0]).request 0x102 [1] [] = none := by decide +kernel

/-- Partition 0 has a transport key and slots 0 live at its controller. -/
def keyed (op : Nat) (ws : List Nat) (bs : List Byte := []) : State :=
  let s := asking op ws memory bs
  s.setPartition 0 { s.partition 0 with transport := 4 }

/-- `s` with a REVOKE of partition 0 in progress at its controller. -/
def revoking (s : State) : State := { s with revoking := Store.set 0 s.revoking (State.revIx 0 0 0) 1 }

theorem witness_PartitionEvents_keys :
    ((asking 0x103 [0] memory (leBytes 32 9)).request 0x103 [0] (leBytes 32 (leNat [9])) = some 7 ∧
      (asking 0x103 [0]).badPart 0 = none ∧ ((asking 0x103 [0]).partition 0).ex = true ∧
      ((asking 0x103 [0]).partition 0).closing = none) ∧
    (asking 0x103 [7]).badPart 7 = some 5 ∧ (asking 0x103 [7] memory (leBytes 32 9)).request 0x103 [7] (leBytes 32 9) = some 7 ∧
    (closing 0x103 [0]).badPart 0 = some 1 ∧
    (let wrapped := List.replicate 72 (5 : Byte)
     (keyed 0x104 [0, 15] wrapped).request 0x104 [0, 15] wrapped = some 7 ∧ wrapped.length = 72 ∧
       ((keyed 0x104 [0, 15] wrapped).partition 0).transport ≠ 0 ∧
       (keyed 0x104 [0, 15] wrapped).request 0x104 [0, 15] (5 :: wrapped) = none) ∧
    (∀ c ∈ (keyed 0x104 [0, 15]).partCtrls 0, (keyed 0x104 [0, 15]).keyLive c.1 c.2 0 15 = false ∧
      (keyed 0x104 [0, 15]).revokes c.1 c.2 0 = false) ∧
    (∃ c ∈ (keyed 0x104 [0, 0]).partCtrls 0, (keyed 0x104 [0, 0]).keyLive c.1 c.2 0 0 = true) ∧
    ((keyed 0x105 [0, 15]).request 0x105 [0, 15] [] = some 7 ∧
      ((keyed 0x105 [0, 15]).partStacks 0).any (keyed 0x105 [0, 15]).rsBusy = false ∧
      ((keyed 0x105 [0, 15]).partStacks 0).any ((keyed 0x105 [0, 15]).setUreg 0 0x80008 1).rsBusy = true ∧
      ((keyed 0x105 [0, 15]).partCtrls 0).all (fun c => !(keyed 0x105 [0, 15]).revokes c.1 c.2 0) = true ∧
      ((revoking (keyed 0x105 [0, 15])).partCtrls 0).any (fun c => (revoking (keyed 0x105 [0, 15])).revokes c.1 c.2 0) =
        true) ∧
    memory.keyLive 0 0 0 15 = false ∧ memory.keyLive 0 0 0 0 = true ∧ (memory.partition 0).ex = true ∧ 15 % 16 ≠ 0 ∧
    16 % 16 = 0 ∧ memory.revokes 0 0 0 = false ∧ (revoking memory).revokes 0 0 0 = true := by decide +kernel

/-- The squad of `asking` stands at a comparator, in a machine whose clocks stand or not. -/
def stopped (op : Nat) (ws : List Nat) (halted : Bool) : State :=
  let s := asking op ws
  (s.setPart 1 { s.part 1 with stop := .hwBreak 0 }).setDbgctl 0 (if halted then 4 else 0)

/-- The request of event `e` waits, with no more arguments than it has. -/
def asked (e : Instr) : Bool :=
  let s := stopped (asks e).1 (asks e).2 false
  decide (s.request (asks e).1 (asks e).2 [] = some 7) && decide (s.badPart 0 = none)

theorem witness_DebugEvents_asked :
    asked (.hold 0 [5, 6]) = true ∧ asked (.breakset 0 3 1 9 true) = true ∧ asked (.breakset 0 4 1 9 true) = true ∧
    asked (.tickset 0 5 1 true) = true ∧ asked (.profring 0 0x1000 64) = true ∧ asked (.stoplist 0 1) = true ∧
    asked (.dbgContinue 0 1 none) = true ∧ asked (.dbgContinue 0 1 (some (0, 0, 0))) = true ∧
    asked (.dbgStep 0 1 0 0 0) = true ∧ asked (.stopctlArm 9) = true ∧ asked .stopctlStopnow = true ∧
    asked .stopctlRelease = true ∧ asked (.stopctlSteprel true) = true ∧
    memory.request 0x108 [] [] = none ∧ (asking 0x10D [8, 1]).badPart 8 = some 5 ∧
    (asking 0x10D [8, 1]).request 0x10D [8, 1] [] = some 7 := by decide +kernel

theorem witness_DebugEvents :
    ((stopped 0x10F [0, 1, 0, 0, 0, 1] false).findStopped 0 1 0 0 1).isNone = true ∧
    ((stopped 0x10F [0, 1, 0, 0, 0, 0] false).findStopped 0 1 0 0 0).map Prod.fst = some 1 ∧
    ((∀ e ∈ (asking 0x10F [0, 1, 1]).stoppedParts 0, e.2.launch ≠ 1) ∧
      ∃ e ∈ (stopped 0x10F [0, 1, 1] false).stoppedParts 0, e.2.launch = 1) ∧
    ((stopped 0x10E [] true).pkgStopped 0 = true ∧ ((stopped 0x10E [] true).dbgctl 0).getLsbD 4 = false ∧
      (stopped 0x10E [] false).pkgStopped 0 = false) ∧
    (let s := (memory.setDbgctl 0 1).setUreg 16 0xA2008 5
     (atTick 5 s).stopDue 0 = true ∧ (atTick 4 s).stopDue 0 = false) ∧
    (State.reset.anyPartition = false ∧ State.reset.zeroised = true ∧ memory.anyPartition = true ∧
      (State.reset.poke 0 1 1).zeroised = false) ∧
    (let s := (memory.setUreg 0 (dbgOff 0 0x308) 1).setUreg 0 (dbgOff 0 0x300) 5
     (atTick 5 s).matchDue 0 = true ∧ (atTick 4 s).matchDue 0 = false) ∧
    (let s : State := { memory with dbg := { memory.dbg with smp := Store.set [] [] 0 [leBytes 64 1] } }
     Store.get [] s.dbg.smp 0 = leBytes 64 1 :: [] ∧ (s.partition (fieldOf (leBytes 64 1) 23 1 % 8)).ring = none) := by
  decide +kernel

/-- `s` with the replay state of partition 0. -/
def replaying (x : Replay) (s : State := memory) : State := s.setReplayOf 0 x

/-- A machine whose partition 0 has no team and no part. -/
def emptied (s : State := memory) : State :=
  { s with
    parts := []
    teams := [] }

def goneB (s : State) : Bool := (s.partTeams 0).isEmpty && s.parts.all (fun e => e.2.prt != 0 || !e.2.live)

def ckpt : Ckpt := ⟨0, true, [], [], [], [], [], [], []⟩

/-- Partition 0 with a mode in effect and the mode set next. -/
def moded (now next : Nat) (s : State := memory) : State :=
  s.setPartition 0 { s.partition 0 with
    replay := now
    replayNext := next }

theorem witness_ReplayEvents_mode :
    asked (.replay 0 0 0) = true ∧ asked (.replay 0 1 1) = true ∧ asked (.replay 0 1 1001) = true ∧
    asked (.replay 0 2 0) = true ∧ asked (.replay 0 3 0) = true ∧ memory.request 0x107 [0, 0, 0] [] = none ∧
    (asking 0x107).badPart 8 = some 5 ∧ (3 : Nat) ≤ 3 ∧ ¬ (3 : Nat) ≤ 2 ∧ (1000 : Nat) < 1001 ∧ (1 : Nat) ≤ 1000 := by
  decide +kernel

theorem witness_ReplayEvents_run :
    ((replaying { Replay.none with ckpts := [ckpt] }).replayOf 0).ckpts[1]? = none ∧
    ((replaying { Replay.none with ckpts := [ckpt] }).replayOf 0).ckpts[0]? = some ckpt ∧
    ((replaying { Replay.none with ckpts := [ckpt] }).replayOf 0).freezing = none ∧ (memory.partition 0).closing = none ∧
    goneB (replaying { Replay.none with ckpts := [ckpt] }) = false ∧
    goneB (emptied (replaying { Replay.none with ckpts := [ckpt] })) = true ∧
    (let s := moded 0 2 ((memory.setLaunch (State.lkey 0 1) Launch.absent))
     (s.partition 0).replayNext = 2 ∧ (s.replayOf 0).capturing = false ∧ s.running 0 = 0) ∧
    (memory.partition 0).replayNext ≠ 2 := by decide +kernel

theorem witness_ReplayEvents_checkpoint :
    (let s := moded 1 1 (replaying { Replay.none with due := 5 })
     (s.replayOf 0).freezing = none ∧ (s.partition 0).replay = 1 ∧ (s.partition 0).closing = none ∧ s.dbg.olog = [] ∧
       (s.replayOf 0).due ≤ (atTick 5 s).tick.toNat ∧ (atTick 4 s).tick.toNat < (s.replayOf 0).due) ∧
    (let x : Replay := { Replay.none with freezing := some 5 }
     let s := replaying x (parted (.blocked (.phase 0 1 false) false) id)
     (s.replayOf 0).freezing = some 5 ∧ ((s.freezeTeams 0).partTeams 0).length = 1 ∧
       ((s.freezeTeams 0).partTeams 0).all (fun e => (s.freezeTeams 0).imageReady e.1) = true) ∧
    (let s := replaying { Replay.none with freezing := some 5 }
     (s.replayOf 0).freezing = some 5 ∧ ((s.freezeTeams 0).partTeams 0).any (fun e => !(s.freezeTeams 0).imageReady e.1) =
       true ∧ (atTick 4 s).tick.toNat < 5 ∧ 5 ≤ (atTick 5 s).tick.toNat) ∧
    memory.stalled 0 = [] ∧
    (let s : State := { memory with dbg := { memory.dbg with follow := [(8, List.replicate 24 1)] } }
     (atTick (2 ^ 24) s).stalled 0 = [8] ∧ (atTick (2 ^ 24 - 1) s).stalled 0 = []) := by decide +kernel

theorem witness_ReplayEvents_rerun :
    (memory.replayOf 0).capturing = false ∧
    (let x : Replay := { Replay.none with capturing := true }
     ((replaying x).replayOf 0).capturing = true ∧ ((replaying x).replayOf 0).rerun = 0 ∧ goneB (replaying x) = false ∧
       goneB (emptied (replaying x)) = true) ∧
    (let x : Replay := { Replay.none with
       capturing := true
       rerun := 4
       clog := [.checksum 0 1 2, .window 0 0 [7], .packet 3 0 (List.replicate 128 0)] }
     let s := replaying x
     (s.replayOf 0).rerun ≠ 0 ∧ x.clog[4 - 1]? = none ∧ x.clog[2 - 1]? = some (.window 0 0 [7]) ∧
       x.clog[1 - 1]? = some (.checksum 0 1 2) ∧ (s.applyCap 0 (.checksum 0 1 2)).isNone = true ∧
       x.clog[3 - 1]? = some (.packet 3 0 (List.replicate 128 0)) ∧ (s.applyCap 0 (.window 0 0 [7])).isSome = true ∧
       (s.applyCap 0 (.packet 3 0 (List.replicate 128 0))).isSome = true ∧ (s.partition 0).closing = none) := by decide +kernel

theorem witness_PlatformEvents_power :
    (∀ u ∈ [17, 18], (asking 0x109 [u, 3400, 4]).request 0x109 [u, 3400, 4] [] = some 7) ∧
    18 ∉ (asking 0x109).allUnits ∧ 17 ∈ (asking 0x109).allUnits ∧
    (let s := asking 0x109 [] ((List.range 18).foldl (fun (s : State) u => s.setUreg u 0x90000 0) memory)
     s.capSum 17 3400 = 3400 ∧ 3400 < s.capSum 17 3401) ∧
    (17 ∈ memory.allUnits ∧ memory.pkgStopped (unitPkg 17) = false ∧
      Store.get 0 memory.mg.powered 17 < ((atTick 4096 memory).cyc - Store.get 0 memory.held (unitPkg 17)) / 4096 ∧
      ¬ Store.get 0 memory.mg.powered 17 < ((atTick 4095 memory).cyc - Store.get 0 memory.held (unitPkg 17)) / 4096) ∧
    (let s := (memory.setUreg 0 0x90028 (85 + 256 * 105) : State)
     let trip := min 115 (bitsOf (s.ureg 0 0x90028).toNat 15 8)
     trip ≤ 105 ∧ ¬ trip ≤ 104 ∧ (s.ureg 0 0x90028).toNat % 256 ≤ 85) := by decide +kernel

/-- The machine at a boot step. -/
def booting (n : Nat) (up : Bool) (code : Nat) : State :=
  { State.reset with mg := { State.reset.mg with
    boot := n
    linkUp := up
    bootCode := code
    formed := up } }

theorem witness_PlatformEvents_boot :
    ((booting 2 true 0).mg.boot = 2 ∧ (booting 2 true 0).mg.linkUp = true ∧ (booting 2 true 0).mg.bootCode = 0) ∧
    (booting 2 false 0).mg.linkUp = false ∧ (booting 2 true 1).mg.bootCode ≠ 0 ∧
    ([0, 1, 2, 3, 4, 5, 6, 7, 8, 9].all (fun n => decide ((booting n true 0).mg.boot = n))) = true ∧
    (booting 7 true 0).mg.formed = true ∧ (booting 7 false 0).mg.formed = false ∧ (booting 7 true 0).locked 16 = false ∧
    ((booting 7 true 0).setUreg 16 0x80000 1).locked 16 = true ∧
    (booting 7 true 0).cyc < (booting 7 true 0).mg.bootAt + 19000000000 ∧
    (booting 7 true 0).mg.bootAt + 19000000000 ≤ (atTick 19000000000 (booting 7 true 0)).cyc ∧ 0x1FFFF % 2 ^ 40 % 65536 = 65535 ∧
    0xFFFE % 2 ^ 40 % 65536 ≠ 65535 := by decide +kernel

/-- The offset of a unit's registers. -/
def isRegB (spa : Nat) : Bool :=
  decide (spaUnit spa % 32 < 18 ∧ spaUnit spa / 32 ∈ memory.mg.pkgs ∧ 0x1000F0000000 ≤ spaOff spa ∧
    spaOff spa < 0x1000F0200000)

theorem witness_PlatformEvents_bridge :
    isRegB (17 * 2 ^ 45 + 0x1000F01FFFF8) = true ∧ isRegB (17 * 2 ^ 45 + 0x1000F0200000) = false ∧
    State.bridgeSpa (17 * 2 ^ 45 + 0x1000F0200000) 8 = none ∧ spaUnit (40 * 2 ^ 45) / 32 ∉ memory.mg.pkgs ∧
    (isRegB (15 * 2 ^ 45 + 0xFFFFFFFF8) = false ∧ spaUnit (15 * 2 ^ 45 + 0xFFFFFFFF8) / 32 ∈ memory.mg.pkgs ∧
      State.bridgeSpa (15 * 2 ^ 45 + 0xFFFFFFFF8) 8 = some (15 * 2 ^ 45 + 0xFFFFFFFF8) ∧ isStack 15 = true) ∧
    (17 ∈ memory.allUnits ∧ (17 < 2048 ∧ 0x1FFFF8 < 0x200000) ∧ (8 = 4 ∨ 8 = 8) ∧ 0x1FFFF8 % 8 = 0 ∧ 0x1FFFFC % 8 ≠ 0) ∧
    18 ∉ memory.allUnits ∧ memory.linked (State.shootVia 17 0) = false ∧
    (openSlots memory).linked (State.shootVia 17 0) = true ∧ memory.linked ⟨16, 15, 0, 5⟩ = true := by decide +kernel

end Sys2Proof.Tests
end

section
/-! PROOF of O13: the results of the integer, logic, shift, count and bit-field instructions.  The values the model computes
over Nat and Int are shown equal to the claims' values over words; `issueReg_run` then gives completion and frame. -/

namespace Sys2Proof.Claims

open Sys2Proof.Machine

/-! ### Numbers of a width (R187, R188, R197, R205) -/

/-- The model's `num` reads the low bits as the two's complement of `BitVec` does (R205). -/
theorem num_eq_int (v n : Nat) (sg : Bool) : num v n sg = int n sg v := by
  cases sg with
  | false => simp [num, int]
  | true =>
    have half : 2 * (v % 2 ^ n) < 2 ^ n ↔ ¬ 2 ^ (n - 1) ≤ v % 2 ^ n := by
      cases n with
      | zero => simp [Nat.mod_one]
      | succ n => rw [Nat.pow_succ, Nat.add_sub_cancel]; omega
    simp only [num, int, BitVec.toInt_eq_toNat_cond, BitVec.toNat_ofNat, half, Bool.true_and, if_true]
    by_cases h : 2 ^ (n - 1) ≤ v % 2 ^ n <;> simp [h]

/-- Wrapping the number a field stands for is extending the field under its sign (R187). -/
theorem ofInt_int (n k : Nat) (sg : Bool) (v : Nat) :
    BitVec.ofInt k (int n sg v) =
      if sg then (BitVec.ofNat n v).signExtend k else (BitVec.ofNat n v).setWidth k := by
  cases sg with
  | false => simp only [int, Bool.false_eq_true, if_false, BitVec.ofInt_natCast, BitVec.ofNat_toNat]
  | true => rfl

theorem toNat_ofInt_pow (n : Nat) (x : Int) : (BitVec.ofInt n x).toNat = (x % 2 ^ n).toNat := by
  rw [BitVec.toNat_ofInt, Nat.cast_pow]; rfl

theorem ofNat_emod_toNat (n : Nat) (x : Int) : BitVec.ofNat n (x % 2 ^ n).toNat = BitVec.ofInt n x := by
  rw [← toNat_ofInt_pow, BitVec.ofNat_toNat, BitVec.setWidth_eq]

/-- Saturation is a comparison with each end of the type's range, whose ends are in order (R197). -/
theorem satInt_eq_clamp (n : Nat) (sg : Bool) (x : Int) :
    satInt n sg x = if x < intMin n sg then intMin n sg else if intMax n sg < x then intMax n sg else x := by
  have h : intMin n sg ≤ intMax n sg := by
    have h1 : (1 : Int) ≤ 2 ^ n := one_le_pow₀ (by decide)
    have h2 : (1 : Int) ≤ 2 ^ (n - 1) := one_le_pow₀ (by decide)
    cases sg <;> simp only [intMin, intMax, Bool.false_eq_true, if_false, if_true] <;> omega
  unfold satInt
  split
  · omega
  · split <;> omega

/-- The model's result of a type is the claims' (R187, R197, R205). -/
theorem intResult_eq_narrowed (t : IType) (sat : Bool) (x : Int) : intResult t sat x = narrowed t sat x := by
  have hk : (if bitsW t.w = 64 then 64 else 32) = if t.w.is64 then 64 else 32 := by cases t.w <;> rfl
  simp only [intResult, hk, num_eq_int, satInt_eq_clamp]
  rw [← toNat_ofInt_pow, ofInt_int, ofNat_emod_toNat]
  rfl

/-- Without SAT only the low bits of the exact result count (R205). -/
theorem narrowed_congr (t : IType) {x y : Int} (h : x % 2 ^ bitsW t.w = y % 2 ^ bitsW t.w) :
    narrowed t false x = narrowed t false y := by
  simp only [← intResult_eq_narrowed, intResult, Bool.false_eq_true, if_false, h]

theorem two_pow_bitsW (w : Width) : (2 : Int) ^ bitsW w = 2 * 2 ^ (bitsW w - 1) := by cases w <;> rfl

/-- R188's two special quotients come from wrapping: by zero, an unsigned quotient is all ones, and the one signed quotient
that does not fit is the dividend again. -/
theorem narrowed_divQ (t : IType) (a b : Int) :
    narrowed t false (divQ (bitsW t.w) t.sg a b) = narrowed t false (if b = 0 then -1 else a.tdiv b) := by
  apply narrowed_congr
  unfold divQ
  by_cases hb : b = 0
  · cases t.sg with
    | true => simp [hb]
    | false =>
      simp only [hb, if_true, Bool.false_eq_true, if_false]
      exact Int.emod_eq_emod_iff_emod_sub_eq_zero.mpr (by simp)
  · simp only [hb, if_false]
    split
    · next hov =>
      simp only [Bool.and_eq_true, decide_eq_true_eq] at hov
      obtain ⟨⟨-, rfl⟩, rfl⟩ := hov
      apply Int.emod_eq_emod_iff_emod_sub_eq_zero.mpr
      rw [Int.tdiv_neg, Int.tdiv_one, two_pow_bitsW]
      exact Int.emod_eq_zero_of_dvd ⟨-1, by ring⟩
    · rfl

/-- R188's remainder at the quotient that does not fit is zero, as the exact remainder is. -/
theorem narrowed_divR (t : IType) (a b : Int) :
    narrowed t false (divR (bitsW t.w) t.sg a b) = narrowed t false (if b = 0 then a else a.tmod b) := by
  congr 1
  unfold divR
  split
  · rfl
  · split
    · next hov =>
      simp only [Bool.and_eq_true, decide_eq_true_eq] at hov
      obtain ⟨-, rfl⟩ := hov
      simp
    · rfl

/-! ### Shifts (R216) -/

theorem shlN_eq_shiftLeft (n a k : Nat) : shlN n a k = (BitVec.ofNat n a <<< k).toNat := by
  rw [shlN, BitVec.toNat_shiftLeft, BitVec.toNat_ofNat, Nat.shiftLeft_eq, Nat.mod_mul_mod]
  split
  · next h => rw [Nat.mod_eq_zero_of_dvd (Dvd.dvd.mul_left (Nat.pow_dvd_pow 2 h) a)]
  · rfl

theorem shrN_eq_ushiftRight (n a k : Nat) : shrN n a k = (BitVec.ofNat n a >>> k).toNat := by
  rw [shrN, BitVec.toNat_ushiftRight, BitVec.toNat_ofNat, Nat.shiftRight_eq_div_pow]
  split
  · next h =>
    rw [Nat.div_eq_of_lt ((Nat.mod_lt a (Nat.two_pow_pos n)).trans_le (Nat.pow_le_pow_right (by decide) h))]
  · rfl

/-- A shift by the width or more leaves copies of the sign only, as the shift by the width does. -/
theorem toInt_div_two_pow_min {n : Nat} (x : BitVec n) (k : Nat) : x.toInt / 2 ^ min k n = x.toInt / 2 ^ k := by
  rcases Nat.le_total k n with h | h
  · rw [min_eq_left h]
  · have hw : (2 : Int) ^ n ≤ 2 ^ k := pow_le_pow_right₀ (by decide) h
    have hlo := x.le_two_mul_toInt
    have hhi := x.two_mul_toInt_lt
    rw [min_eq_right h]
    rcases Int.lt_or_le x.toInt 0 with hneg | hpos
    · rw [Int.ediv_eq_neg_one_of_neg_of_le hneg (by omega), Int.ediv_eq_neg_one_of_neg_of_le hneg (by omega)]
    · rw [Int.ediv_eq_zero_of_lt hpos (by omega), Int.ediv_eq_zero_of_lt hpos (by omega)]

theorem sarN_eq_sshiftRight (n a k : Nat) : sarN n a k = ((BitVec.ofNat n a).sshiftRight k).toNat := by
  rw [sarN, num_eq_int, BitVec.sshiftRight_eq, toNat_ofInt_pow, Int.shiftRight_eq_div_pow, Nat.cast_pow]
  exact congrArg (fun x : Int => (x % 2 ^ n).toNat) (toInt_div_two_pow_min _ k)

/-- The two pieces of a rotation by `r` do not overlap. -/
theorem rotate_pieces (x r : Nat) (hx : x < 2 ^ 32) (hr : r ≤ 32) :
    x * 2 ^ r % 2 ^ 32 + x / 2 ^ (32 - r) = (x <<< r % 2 ^ 32) ||| (x >>> (32 - r)) := by
  have hd : 2 ^ 32 = 2 ^ r * 2 ^ (32 - r) := by rw [← Nat.pow_add]; congr 1; omega
  have hlow : x / 2 ^ (32 - r) < 2 ^ r := Nat.div_lt_of_lt_mul (by rw [Nat.mul_comm, ← hd]; exact hx)
  rw [Nat.shiftLeft_eq, Nat.shiftRight_eq_div_pow, hd, Nat.mul_comm x, Nat.mul_mod_mul_left]
  exact Nat.two_pow_add_eq_or_of_lt hlow _

theorem rotl32_eq_rotateLeft (a k : Nat) : rotl32 a k = ((BitVec.ofNat 32 a).rotateLeft k).toNat := by
  rw [rotl32, BitVec.toNat_rotateLeft, BitVec.toNat_ofNat, ← rotate_pieces _ _ (Nat.mod_lt _ (by decide)) (by omega),
    Nat.mod_mul_mod]

/-- A rotation right is one left by what is left of the word; by 0 it is a case of its own, where one piece is the whole
word. -/
theorem rotl32_sub_eq_rotateRight (a k : Nat) :
    rotl32 a (32 - k % 32) = ((BitVec.ofNat 32 a).rotateRight k).toNat := by
  have hx : a % 2 ^ 32 < 2 ^ 32 := Nat.mod_lt _ (by decide)
  rw [BitVec.toNat_rotateRight, BitVec.toNat_ofNat, Nat.or_comm]
  rcases Nat.eq_zero_or_pos (k % 32) with h0 | hpos
  · rw [h0]
    simp only [rotl32, Nat.sub_zero, Nat.mod_self, Nat.pow_zero, Nat.mul_one, Nat.shiftRight_zero,
      Nat.div_eq_of_lt hx, Nat.shiftLeft_eq, Nat.mul_mod_left, Nat.zero_or, Nat.add_zero]
  · have hr : 32 - (32 - k % 32) = k % 32 := by omega
    have hp := rotate_pieces (a % 2 ^ 32) (32 - k % 32) hx (by omega)
    rw [hr, Nat.mod_mul_mod] at hp
    rw [rotl32, Nat.mod_eq_of_lt (show 32 - k % 32 < 32 by omega), hr, hp]

/-! ### Loops over bits (R212, R215, R217) -/

/-- The model's loops over bits and elements are sums, which the library's laws of sums then split. -/
theorem foldl_range_eq_sum {α : Type} [AddCommMonoid α] (g : Nat → α) (n : Nat) :
    (List.range n).foldl (fun x i => x + g i) 0 = ∑ i ∈ Finset.range n, g i := by
  induction n with
  | zero => rfl
  | succ n ih => simp only [List.range_succ, List.foldl_append, ih, List.foldl_cons, List.foldl_nil, Finset.sum_range_succ]

theorem popN_eq_countP (n a : Nat) : popN n a = (List.range n).countP a.testBit := by
  rw [popN, foldl_range_eq_sum]
  induction n with
  | zero => rfl
  | succ n ih =>
    rw [Finset.sum_range_succ, ih, List.range_succ, List.countP_append, List.countP_singleton, ← Nat.toNat_testBit]
    cases a.testBit n <;> rfl

/-- One more bit to reverse moves the others up by one place. -/
theorem revN_succ (n a : Nat) : revN (n + 1) a = 2 * revN n a + a / 2 ^ n % 2 := by
  simp only [revN, foldl_range_eq_sum, Finset.sum_range_succ, Finset.mul_sum]
  congr 1
  · refine Finset.sum_congr rfl fun i hi => ?_
    have hlt := Finset.mem_range.mp hi
    rw [show n + 1 - 1 - i = (n - 1 - i) + 1 by omega, Nat.pow_succ]
    ring
  · simp

theorem testBit_revN (n a j : Nat) : (revN n a).testBit j = (decide (j < n) && a.testBit (n - 1 - j)) := by
  induction n generalizing j with
  | zero => simp [revN]
  | succ n ih =>
    rw [revN_succ]
    cases j with
    | zero => simp [Nat.testBit_eq_decide_div_mod_eq]
    | succ j =>
      rw [Nat.testBit_succ, Nat.mul_add_div (by decide), Nat.div_eq_of_lt (Nat.mod_lt _ (by decide)), Nat.add_zero, ih,
        show n + 1 - 1 - (j + 1) = n - 1 - j by omega]
      simp

theorem revN_eq_reverse (n a : Nat) : revN n a = (BitVec.ofNat n a).reverse.toNat := by
  refine Nat.eq_of_testBit_eq fun j => ?_
  rw [testBit_revN, BitVec.testBit_toNat, BitVec.getLsbD_reverse, BitVec.getMsbD, BitVec.getLsbD_ofNat]
  by_cases hj : j < n
  · simp [hj, show n - 1 - j < n by omega]
  · simp [hj]

/-- Leading zeros from the place of the top bit (R217). -/
theorem clzN_eq_log2 {n a : Nat} (h : a < 2 ^ n) : clzN n a = if a = 0 then n else n - 1 - Nat.log2 a := by
  rw [clzN, nlen, Nat.mod_eq_of_lt h]
  split <;> omega

/-- Trailing zeros are the place of the lowest bit set, and the width when there is none (R217). -/
theorem ctzN_eq_findIdx (n a : Nat) : ctzN n a = (List.range n).findIdx a.testBit := by
  have hp : (fun i => a / 2 ^ i % 2 == 1) = a.testBit := by
    funext i
    rw [Nat.testBit_eq_decide_div_mod_eq]; rfl
  rw [ctzN, hp]
  cases hf : (List.range n).find? a.testBit with
  | none =>
    rw [List.findIdx_eq_length_of_false (by simpa using hf), List.length_range]
    rfl
  | some i =>
    obtain ⟨hi, hmem, hlt⟩ := List.find?_range_eq_some.mp hf
    have hn : i < (List.range n).length := by simpa using hmem
    exact ((List.findIdx_eq hn).mpr (by simpa [hi] using hlt)).symm

/-- Adding up the places of the bits that are set. -/
theorem sum_places_eq_ofBits (f : Nat → Bool) (n : Nat) :
    ∑ i ∈ Finset.range n, (if f i then 2 ^ i else 0) = Nat.ofBits (fun i : Fin n => f i) := by
  induction n generalizing f with
  | zero => rfl
  | succ n ih =>
    rw [Nat.ofBits_succ, Finset.sum_range_succ']
    congr 1
    · rw [show (fun i : Fin (n + 1) => f i) ∘ Fin.succ = fun i : Fin n => f (i.val + 1) from rfl,
        ← ih (fun i => f (i + 1)), Finset.mul_sum]
      exact Finset.sum_congr rfl fun i _ => by rw [mul_ite, Nat.pow_succ', Nat.mul_zero]
    · show (if f 0 then 1 else 0) = (f 0).toNat
      cases f 0 <;> rfl

theorem bit_getLsbD_ofNat {n i : Nat} (h : i < n) (a : Nat) : bit ((BitVec.ofNat n a).getLsbD i) = a / 2 ^ i % 2 := by
  rw [BitVec.getLsbD_ofNat, ← Nat.toNat_testBit]
  simp only [h, decide_true, Bool.true_and, bit]
  cases a.testBit i <;> rfl

/-- `bfn3` bit by bit (R215). -/
theorem bfn3_eq_ofBits (fn : Byte) (a b c : Nat) :
    bfn3 fn a b c = Nat.ofBits (fun i : Fin 32 => fn.getLsbD (bit ((BitVec.ofNat 32 a).getLsbD i.val) +
      2 * bit ((BitVec.ofNat 32 b).getLsbD i.val) + 4 * bit ((BitVec.ofNat 32 c).getLsbD i.val))) := by
  simp only [bit_getLsbD_ofNat (Fin.isLt _)]
  rw [bfn3, foldl_range_eq_sum]
  exact sum_places_eq_ofBits (fun i => fn.getLsbD (a / 2 ^ i % 2 + 2 * (b / 2 ^ i % 2) + 4 * (c / 2 ^ i % 2))) 32

/-! ### Bit fields (R218) -/

/-- A field that lies within the word does not see the word's width. -/
theorem extractLsb'_ofNat {w pos len : Nat} (h : len ≤ w - pos) (a : Nat) :
    (BitVec.ofNat w a).extractLsb' pos len = BitVec.ofNat len (a / 2 ^ pos) := by
  refine BitVec.eq_of_getLsbD_eq fun i hi => ?_
  simp only [BitVec.getLsbD_extractLsb', BitVec.getLsbD_ofNat, hi, show pos + i < w by omega, decide_true, Bool.true_and,
    Nat.testBit_div_two_pow, Nat.add_comm]

/-- POS of a bit-field instruction's control word (R218). -/
theorem toNat_fieldPos (ctl : Nat) : ((BitVec.ofNat 32 ctl).extractLsb' 0 8).toNat = ctl % 256 := by
  simp only [extractLsb'_ofNat (show 8 ≤ 32 - 0 by decide), BitVec.toNat_ofNat, Nat.pow_zero, Nat.div_one, Nat.reducePow]

/-- LEN of a bit-field instruction's control word (R218). -/
theorem toNat_fieldLen (ctl : Nat) : ((BitVec.ofNat 32 ctl).extractLsb' 8 8).toNat = ctl / 256 % 256 := by
  simp only [extractLsb'_ofNat (show 8 ≤ 32 - 8 by decide), BitVec.toNat_ofNat, Nat.reducePow]

/-- The claims' field of `bfx` as a number of the model. -/
theorem field_eq_num (sg : Bool) (a ctl : Nat) :
    field sg (BitVec.ofNat 32 a) (BitVec.ofNat 32 ctl) =
      (num (a / 2 ^ (ctl % 256)) (min (ctl / 256 % 256) (32 - ctl % 256)) sg % 2 ^ 32).toNat := by
  have key (pos len : Nat) (h : len ≤ 32 - pos) :
      (if sg then ((BitVec.ofNat 32 a).extractLsb' pos len).signExtend 32
        else ((BitVec.ofNat 32 a).extractLsb' pos len).setWidth 32).toNat = (num (a / 2 ^ pos) len sg % 2 ^ 32).toNat := by
    rw [extractLsb'_ofNat h, ← ofInt_int, toNat_ofInt_pow, num_eq_int]
  rw [← toNat_fieldPos, ← toNat_fieldLen]
  exact key _ _ (Nat.min_le_right ..)

theorem num_zero_width (v : Nat) (sg : Bool) : num v 0 sg = 0 := by
  simp [num, Nat.mod_one]

/-- `bfx` (R218); the model's own case for an empty field agrees, since no bits make zero. -/
theorem bfx_eq_field (sg : Bool) (a ctl : Nat) : bfx sg a ctl = field sg (BitVec.ofNat 32 a) (BitVec.ofNat 32 ctl) := by
  rw [field_eq_num]
  simp only [bfx]
  split
  · next h => rw [show min (ctl / 256 % 256) (32 - ctl % 256) = 0 by omega, num_zero_width]; rfl
  · rfl

/-- `b` with `len` bits from `pos` on replaced by the low bits of `a`, as the model computes it, in three pieces. -/
theorem replace_eq_pieces (a b pos len : Nat) :
    b - b / 2 ^ pos % 2 ^ len * 2 ^ pos + a % 2 ^ len * 2 ^ pos =
      2 ^ pos * (2 ^ len * (b / 2 ^ pos / 2 ^ len) + a % 2 ^ len) + b % 2 ^ pos := by
  have hb := Nat.div_add_mod b (2 ^ pos)
  have hq := congrArg (2 ^ pos * ·) (Nat.div_add_mod (b / 2 ^ pos) (2 ^ len))
  simp only [Nat.mul_add] at hq ⊢
  rw [Nat.mul_comm (b / 2 ^ pos % 2 ^ len), Nat.mul_comm (a % 2 ^ len)]
  omega

/-- The three pieces read bit by bit. -/
theorem testBit_replace (a b pos len j : Nat) :
    (b - b / 2 ^ pos % 2 ^ len * 2 ^ pos + a % 2 ^ len * 2 ^ pos).testBit j =
      if pos ≤ j ∧ j < pos + len then a.testBit (j - pos) else b.testBit j := by
  rw [replace_eq_pieces, Nat.testBit_two_pow_mul_add _ (Nat.mod_lt _ (Nat.two_pow_pos _)),
    Nat.testBit_two_pow_mul_add _ (Nat.mod_lt _ (Nat.two_pow_pos _))]
  simp only [Nat.testBit_mod_two_pow, Nat.testBit_div_two_pow]
  by_cases h1 : j < pos
  · simp [h1, Nat.not_le.mpr h1]
  · by_cases h2 : j - pos < len
    · simp [h1, h2, Nat.not_lt.mp h1, show j < pos + len by omega]
    · simp [h1, h2, show ¬ j < pos + len by omega, show j - pos - len + len + pos = j by omega]

/-- An empty field is no case of its own: the general rule leaves B there. -/
theorem bfi_eq_replace (a b ctl : Nat) :
    bfi a b ctl = b - b / 2 ^ (ctl % 256) % 2 ^ (min (ctl / 256 % 256) (32 - ctl % 256)) * 2 ^ (ctl % 256) +
      a % 2 ^ (min (ctl / 256 % 256) (32 - ctl % 256)) * 2 ^ (ctl % 256) := by
  simp only [bfi]
  split
  · next h =>
    rw [show min (ctl / 256 % 256) (32 - ctl % 256) = 0 by omega]
    simp [Nat.mod_one]
  · rfl

/-- `bfi` (R218): above the word nothing is set, because B is a 32-bit value. -/
theorem bfi_eq_insert (a ctl : Nat) {b : Nat} (hb : b < 2 ^ 32) :
    bfi a b ctl = insert (BitVec.ofNat 32 a) (BitVec.ofNat 32 b) (BitVec.ofNat 32 ctl) := by
  refine Nat.eq_of_testBit_eq fun j => ?_
  simp only [insert, toNat_fieldPos, toNat_fieldLen]
  rw [bfi_eq_replace, testBit_replace, Nat.testBit_ofBits]
  by_cases hj : j < 32
  · simp only [BitVec.getLsbD_ofNat, hj, show j - ctl % 256 < 32 by omega, decide_true, Bool.true_and, dite_true]
  · have hbj : b.testBit j = false :=
      Nat.testBit_lt_two_pow (hb.trans_le (Nat.pow_le_pow_right (by decide) (Nat.not_lt.mp hj)))
    rw [dif_neg hj, if_neg (by omega), hbj]

/-! ### From values to completion -/

/-- An operand's value fits the width it is read at (R169 to R171). -/
theorem val_lt (p : Part) (c : Word) (w64 : Bool) (o : Opnd) (l : Nat) :
    p.val c w64 o l < 2 ^ (if w64 then 64 else 32) := by
  have pair (x y : Word) : (if w64 then x.toNat + 2 ^ 32 * y.toNat else x.toNat) < 2 ^ (if w64 then 64 else 32) := by
    cases w64 <;> simp only [Bool.false_eq_true, if_false, if_true] <;> omega
  have small {n : Nat} (h : n < 2 ^ 32) : n < 2 ^ (if w64 then 64 else 32) :=
    h.trans_le (by cases w64 <;> decide)
  cases o with
  | v n => exact pair ..
  | s n => exact pair ..
  | i sx =>
    cases w64 with
    | false => exact c.isLt
    | true =>
      cases sx with
      | false => exact small c.isLt
      | true =>
        show (num c.toNat 32 true % 2 ^ 64).toNat < 2 ^ 64
        rw [← toNat_ofInt_pow]; exact BitVec.isLt _
  | p n => exact small ((p.pred n.val).isLt.trans (by decide))
  | k n => exact small (n.isLt.trans (by decide))
  | acc n => exact small (n.isLt.trans (by decide))
  | x n => exact small (Nat.two_pow_pos 32)

/-- A destination holds the low bits of a result, so results that agree there are written alike. -/
theorem wrote_congr {p q : Part} {act : Mask} {d : Opnd} {w64 : Bool} {f g : Nat → Nat}
    (h : ∀ l, f l ≡ g l [MOD 2 ^ (if w64 then 64 else 32)]) (w : Wrote p q act d w64 f) : Wrote p q act d w64 g := by
  have lo (l : Nat) : BitVec.ofNat 32 (f l) = BitVec.ofNat 32 (g l) := by
    have hl : f l % 2 ^ 32 = g l % 2 ^ 32 := (h l).of_dvd (Nat.pow_dvd_pow 2 (by cases w64 <;> decide))
    apply BitVec.eq_of_toNat_eq
    simpa using hl
  have hi (l : Nat) : w64 = true → BitVec.ofNat 32 (f l / 2 ^ 32) = BitVec.ofNat 32 (g l / 2 ^ 32) := by
    rintro rfl
    have hl : f l % 2 ^ 64 = g l % 2 ^ 64 := h l
    apply BitVec.eq_of_toNat_eq
    simp only [BitVec.toNat_ofNat]
    omega
  cases d with
  | v n =>
    obtain ⟨hw, hs⟩ := w
    refine ⟨fun r l hl => ?_, hs⟩
    rw [hw r l hl, lo l]
    exact ite_congr rfl (fun ⟨_, h64, _⟩ => hi l h64) fun _ => rfl
  | s n =>
    obtain ⟨hw, hv⟩ := w
    refine ⟨fun k => ?_, hv⟩
    rw [hw k, lo 0]
    exact ite_congr rfl (fun ⟨h64, _⟩ => hi 0 h64) fun _ => rfl
  | _ => exact w

section
variable {i : Instr} {s : State} {e : Out} {h : Hdr} {srcs dsts : List (Opnd × Bool)} {d : Opnd} {w64 : Bool}
  {f g : Part → Mask → Nat → Nat}

/-- An instruction whose meaning `e` runs `f` over its lanes meets a table entry whose values agree with `f` at the
destination's width. -/
theorem completesShort_of_modEq
    (he : exec i s = e) (hx : e = issueReg h srcs dsts (fun p act => p.run act d w64 (fun l => (f p act l, 0))) s)
    (hfg : ∀ p act l, f p act l ≡ g p act l [MOD 2 ^ (if w64 then 64 else 32)]) :
    CompletesShort i s ⟨h, srcs, dsts, d, w64, g, fun _ _ _ => 0⟩ := by
  intro w
  obtain ⟨q, hq, short⟩ := issueReg_run (d := d) (w64 := w64) (f := fun p act l => (f p act l, 0)) w
  obtain ⟨retires, wrote, preds, flags, dead, pend⟩ := short
  exact ⟨q, (he.trans hx).trans hq, retires, wrote_congr (hfg _ _) wrote, preds, flags, dead, pend⟩

/-- The same with equal values. -/
theorem completesShort_of_eq
    (he : exec i s = e) (hx : e = issueReg h srcs dsts (fun p act => p.run act d w64 (fun l => (f p act l, 0))) s)
    (hfg : ∀ p act l, f p act l = g p act l) : CompletesShort i s ⟨h, srcs, dsts, d, w64, g, fun _ _ _ => 0⟩ :=
  completesShort_of_modEq he hx (fun p act l => by rw [hfg])

end

theorem opnum_eq_int (m : IMod) (p : Part) (c : Word) (o : Opnd) (l : Nat) :
    opnum m p c o l = int (bitsW m.t.w) m.t.sg (p.val c m.t.w.is64 o l) := num_eq_int ..

section
variable {i : Instr} {s : State} {e : Out} {h : Hdr} {m : IMod}

/-- One source of the instruction's type (R205). -/
theorem completes_int1 {o : F2} {f g : Int → Int} (he : exec i s = e) (hx : e = intF2 h m o f s)
    (hfg : ∀ a, f a = g a) :
    CompletesShort i s (int1 h m o g) := by
  refine completesShort_of_eq he hx (fun p _ l => ?_)
  simp only [opnum_eq_int, intResult_eq_narrowed, hfg]

/-- Two sources of the instruction's type (R205).  The results need to agree only after narrowing, which R188's quotients
use. -/
theorem completes_int2 {o : F3} {f g : Int → Int → Int} (he : exec i s = e) (hx : e = intF3 h m o f s)
    (hfg : ∀ a b, narrowed m.t m.sat (f a b) = narrowed m.t m.sat (g a b)) :
    CompletesShort i s (int2 h m o g) := by
  refine completesShort_of_eq he hx (fun p _ l => ?_)
  simp only [opnum_eq_int, intResult_eq_narrowed, hfg]

/-- Three sources of the instruction's type (R205). -/
theorem completes_int3 {o : F4} {f g : Int → Int → Int → Int} (he : exec i s = e) (hx : e = intF4 h m o f s)
    (hfg : ∀ a b c, f a b c = g a b c) :
    CompletesShort i s (int3 h m o g) := by
  refine completesShort_of_eq he hx (fun p _ l => ?_)
  simp only [opnum_eq_int, intResult_eq_narrowed, hfg]

end

/-! ### Integer instructions -/

/-- `lea` (R209): the scaled sum in exact numbers wraps to the sum of words. -/
theorem lea_eq (a b sh : Nat) (sx : Bool) :
    (((a : Int) + num b 32 sx * 2 ^ sh) % 2 ^ 64).toNat =
      (BitVec.ofNat 64 a +
        (if sx then (BitVec.ofNat 32 b).signExtend 64 else (BitVec.ofNat 32 b).setWidth 64) <<< sh).toNat := by
  have place : BitVec.ofInt 64 (2 ^ sh) = BitVec.twoPow 64 sh := by
    apply BitVec.eq_of_toNat_eq
    rw [BitVec.toNat_twoPow, ← BitVec.toNat_ofNat, ← BitVec.ofInt_natCast, Nat.cast_pow]
    rfl
  rw [← toNat_ofInt_pow, ← ofInt_int, num_eq_int, BitVec.ofInt_add, BitVec.ofInt_mul, BitVec.ofInt_natCast,
    BitVec.shiftLeft_eq_mul_twoPow, place]

/-- `movw` (R210): one half of D is kept, the other replaced. -/
theorem movw_modEq (hi : Bool) (a d : Nat) :
    (if hi then d % 2 ^ 16 + a % 2 ^ 16 * 2 ^ 16 else d / 2 ^ 16 * 2 ^ 16 + a % 2 ^ 16) ≡
      (if hi then ((BitVec.ofNat 32 a).extractLsb' 0 16 ++ (BitVec.ofNat 32 d).extractLsb' 0 16).toNat
        else ((BitVec.ofNat 32 d).extractLsb' 16 16 ++ (BitVec.ofNat 32 a).extractLsb' 0 16).toNat) [MOD 2 ^ 32] := by
  rw [extractLsb'_ofNat (by decide), extractLsb'_ofNat (by decide), extractLsb'_ofNat (by decide)]
  have append (x y : BitVec 16) : (x ++ y).toNat = x.toNat * 2 ^ 16 + y.toNat := by
    rw [BitVec.toNat_append, ← Nat.shiftLeft_add_eq_or_of_lt y.isLt, Nat.shiftLeft_eq]
  cases hi <;> simp only [append, BitVec.toNat_ofNat, Bool.false_eq_true, if_false, if_true, Nat.ModEq] <;> omega

theorem dotSum_dot4 (sa sb : Bool) (a b : Nat) : dotSum 8 4 sa sb a b =
    part 8 sa a 0 * part 8 sb b 0 + part 8 sa a 1 * part 8 sb b 1 + part 8 sa a 2 * part 8 sb b 2 +
      part 8 sa a 3 * part 8 sb b 3 := by
  simp only [dotSum, foldl_range_eq_sum, num_eq_int, Finset.sum_range_succ, Finset.sum_range_zero, zero_add]
  rfl

theorem dotSum_dot2 (sa sb : Bool) (a b : Nat) : dotSum 16 2 sa sb a b =
    part 16 sa a 0 * part 16 sb b 0 + part 16 sa a 1 * part 16 sb b 1 := by
  simp only [dotSum, foldl_range_eq_sum, num_eq_int, Finset.sum_range_succ, Finset.sum_range_zero, zero_add]
  rfl

/-- The integer dot products (R212). -/
theorem completes_dot {i : Instr} {s : State} {e : Out} {h : Hdr} {o : F4} {w n : Nat} {sa sb sat : Bool}
    {g : Part → Mask → Nat → Int} (he : exec i s = e) (hx : e = dotOp h w n sa sb sat o s)
    (hfg : ∀ p act l,
      int 32 true (p.val 0 false o.cc l) + dotSum w n sa sb (p.val 0 false o.a l) (p.val 0 false o.b l) = g p act l) :
    CompletesShort i s ⟨h, [(o.a, false), (o.b, false), (o.cc, false)], [(o.d, false)], o.d, false,
      fun p act l => narrowed ⟨.w32, true⟩ sat (g p act l), fun _ _ _ => 0⟩ :=
  completesShort_of_eq he hx (fun p act l => by simp only [← hfg p act l, intResult_eq_narrowed, num_eq_int])

/-- SAT is reserved in `div` and `rem`, whose words pass the same checks (R205). -/
theorem sat_of_div_wf {h : Hdr} {m : IMod} {o : F3} (hwf : (Instr.div h m o).wf = true) : m.sat = false := by
  have checks : (h.wf false && !m.sat && o.wf m.t.w.is64 m.t.w.is64 m.t.w.is64) = true := hwf
  simp only [Bool.and_eq_true, Bool.not_eq_true'] at checks
  obtain ⟨⟨-, hsat⟩, -⟩ := checks
  exact hsat

/-- Each integer instruction of the table, by its rule (R205, R206, R208 to R213). -/
theorem intSpec_completes {i : Instr} {r : RegSpec} (s : State) (hwf : i.wf = true) (hr : intSpec i = some r) :
    CompletesShort i s r := by
  cases i with
  | nop h =>
    cases hr
    exact completesShort_of_eq (e := execNop h s) (f := fun _ _ _ => 0) rfl rfl (fun _ _ _ => rfl)
  | add h m o => cases hr; exact completes_int2 (e := execAdd h m o s) rfl rfl (fun _ _ => rfl)
  | sub h m o => cases hr; exact completes_int2 (e := execSub h m o s) rfl rfl (fun _ _ => rfl)
  | mul h m o => cases hr; exact completes_int2 (e := execMul h m o s) rfl rfl (fun _ _ => rfl)
  | mulh h m o => cases hr; exact completes_int2 (e := execMulh h m o s) rfl rfl (fun _ _ => rfl)
  | mad h m o => cases hr; exact completes_int3 (e := execMad h m o s) rfl rfl (fun _ _ _ => rfl)
  | madw h sg o =>
    cases hr
    exact completesShort_of_eq (e := execMadw h sg o s) rfl rfl
      (fun p _ l => by simp only [num_eq_int, toNat_ofInt_pow])
  | div h m o =>
    cases hr
    exact completes_int2 (e := execDiv h m o s) rfl rfl (fun a b => by rw [sat_of_div_wf hwf, narrowed_divQ])
  | rem h m o =>
    cases hr
    have hsat : m.sat = false := sat_of_div_wf (h := h) (o := o) hwf
    exact completes_int2 (e := execRem h m o s) rfl rfl (fun a b => by rw [hsat, narrowed_divR])
  | neg h m o => cases hr; exact completes_int1 (e := execNeg h m o s) rfl rfl (fun _ => rfl)
  | abs h m o => cases hr; exact completes_int1 (e := execAbs h m o s) rfl rfl (fun a => by split <;> omega)
  | min h m o =>
    cases hr
    exact completes_int2 (e := execMin h m o s) rfl rfl (fun a b => congrArg _ (by split <;> omega))
  | max h m o =>
    cases hr
    exact completes_int2 (e := execMax h m o s) rfl rfl (fun a b => congrArg _ (by split <;> omega))
  | sad h m o => cases hr; exact completes_int3 (e := execSad h m o s) rfl rfl (fun a b c => by split <;> omega)
  | lea h shift sx o =>
    cases hr
    exact completesShort_of_eq (e := execLea h shift sx o s) rfl rfl (fun _ _ _ => lea_eq ..)
  | add64 h m o => cases hr; exact completes_int2 (e := execAdd64 h m o s) rfl rfl (fun _ _ => rfl)
  | sub64 h m o => cases hr; exact completes_int2 (e := execSub64 h m o s) rfl rfl (fun _ _ => rfl)
  | mov h w o => cases hr; exact completesShort_of_eq (e := execMov h w o s) rfl rfl (fun _ _ _ => rfl)
  | movi h o =>
    cases hr
    exact completesShort_of_modEq (e := execMovi h o s) rfl rfl (fun _ _ _ => Nat.mod_modEq ..)
  | movw h hi o =>
    cases hr
    exact completesShort_of_modEq (e := execMovw h hi o s) rfl rfl (fun _ _ _ => movw_modEq ..)
  | sel h w o => cases hr; exact completesShort_of_eq (e := execSel h w o s) rfl rfl (fun _ _ _ => rfl)
  | iclamp h m o =>
    cases hr
    exact completes_int3 (e := execIclamp h m o s) rfl rfl (fun a b c => by split <;> [rfl; omega])
  | dot4 h sa sb sat o =>
    cases hr
    exact completes_dot (e := execDot4 h sa sb sat o s) rfl rfl (fun p _ l => by simp only [dotSum_dot4, ← add_assoc])
  | dot2 h sa sb sat o =>
    cases hr
    exact completes_dot (e := execDot2 h sa sb sat o s) rfl rfl (fun p _ l => by simp only [dotSum_dot2, ← add_assoc])
  | _ => cases hr

/-! ### Logic and bit instructions -/

section
variable {i : Instr} {s : State} {e : Out} {h : Hdr}

/-- Two sources, one bit operation (R214). -/
theorem completes_bits2 {w64 : Bool} {o : F3} {f : DWord → DWord → DWord} (he : exec i s = e)
    (hx : e = bitF3 h w64 o f s) : CompletesShort i s (bits2 h w64 o f) :=
  completesShort_of_eq he hx (fun _ _ _ => rfl)

/-- A source of either width and a 32-bit one (R216, R218). -/
theorem completes_shiftOp {w64 : Bool} {o : F3} {f : Nat → Nat → Nat} {g : Part → Mask → Nat → Nat}
    (he : exec i s = e) (hx : e = shiftOp h w64 o f s)
    (hfg : ∀ p act l, f (p.val o.c w64 o.a l) (p.val o.c false o.b l) = g p act l) :
    CompletesShort i s ⟨h, [(o.a, w64), (o.b, false)], [(o.d, w64)], o.d, w64, g, fun _ _ _ => 0⟩ :=
  completesShort_of_eq he hx (fun _ _ _ => hfg ..)

/-- One source (R214, R217). -/
theorem completes_bitF2 {w64 dw : Bool} {o : F2} {f : Nat → Nat} {g : Part → Mask → Nat → Nat} (he : exec i s = e)
    (hx : e = bitF2 h w64 dw o f s) (hfg : ∀ p act l, f (p.val o.c w64 o.a l) = g p act l) :
    CompletesShort i s ⟨h, [(o.a, w64)], [(o.d, dw)], o.d, dw, g, fun _ _ _ => 0⟩ :=
  completesShort_of_eq he hx (fun _ _ _ => hfg ..)

/-- A count over the bits of a value that fits its width (R217). -/
theorem completes_count {w64 : Bool} {o : F2} {f : Nat → Nat} {g : Nat → Nat → Nat} (he : exec i s = e)
    (hx : e = bitF2 h w64 false o f s)
    (hfg : ∀ a, a < 2 ^ (if w64 then 64 else 32) → f a = g (if w64 then 64 else 32) a) :
    CompletesShort i s (count h w64 o g) :=
  completes_bitF2 he hx (fun _ _ _ => hfg _ (val_lt ..))

end

/-- `brev` at both widths (R217). -/
theorem brev_eq_reverse (w64 : Bool) (a : Nat) : revN (if w64 then 64 else 32) a =
    if w64 then (BitVec.ofNat 64 a).reverse.toNat else (BitVec.ofNat 32 a).reverse.toNat := by
  cases w64 <;> exact revN_eq_reverse ..

/-- Each logic, shift, count and bit-field instruction of the table, by its rule (R214 to R218). -/
theorem logicSpec_completes {i : Instr} {r : RegSpec} (s : State) (hr : logicSpec i = some r) :
    CompletesShort i s r := by
  cases i with
  | andB h w o => cases hr; exact completes_bits2 (e := execAndB h w o s) rfl rfl
  | orB h w o => cases hr; exact completes_bits2 (e := execOrB h w o s) rfl rfl
  | xorB h w o => cases hr; exact completes_bits2 (e := execXorB h w o s) rfl rfl
  | andn h w o => cases hr; exact completes_bits2 (e := execAndn h w o s) rfl rfl
  | orn h w o => cases hr; exact completes_bits2 (e := execOrn h w o s) rfl rfl
  | notB h w o => cases hr; exact completes_bitF2 (e := execNotB h w o s) rfl rfl (fun _ _ _ => rfl)
  | bfn3 h fn o =>
    cases hr
    exact completesShort_of_eq (e := execBfn3 h fn o s) rfl rfl (fun _ _ _ => bfn3_eq_ofBits ..)
  | shl h o => cases hr; exact completes_shiftOp (e := execShl h o s) rfl rfl (fun _ _ _ => shlN_eq_shiftLeft ..)
  | shr h o => cases hr; exact completes_shiftOp (e := execShr h o s) rfl rfl (fun _ _ _ => shrN_eq_ushiftRight ..)
  | sar h o => cases hr; exact completes_shiftOp (e := execSar h o s) rfl rfl (fun _ _ _ => sarN_eq_sshiftRight ..)
  | rotl h o => cases hr; exact completes_shiftOp (e := execRotl h o s) rfl rfl (fun _ _ _ => rotl32_eq_rotateLeft ..)
  | rotr h o => cases hr; exact completes_shiftOp (e := execRotr h o s) rfl rfl (fun _ _ _ => rotl32_sub_eq_rotateRight ..)
  | shl64 h o => cases hr; exact completes_shiftOp (e := execShl64 h o s) rfl rfl (fun _ _ _ => shlN_eq_shiftLeft ..)
  | shr64 h o => cases hr; exact completes_shiftOp (e := execShr64 h o s) rfl rfl (fun _ _ _ => shrN_eq_ushiftRight ..)
  | sar64 h o => cases hr; exact completes_shiftOp (e := execSar64 h o s) rfl rfl (fun _ _ _ => sarN_eq_sshiftRight ..)
  | clz h w o => cases hr; exact completes_count (e := execClz h w o s) rfl rfl (fun _ ha => clzN_eq_log2 ha)
  | ctz h w o => cases hr; exact completes_count (e := execCtz h w o s) rfl rfl (fun _ _ => ctzN_eq_findIdx ..)
  | popc h w o => cases hr; exact completes_count (e := execPopc h w o s) rfl rfl (fun _ _ => popN_eq_countP ..)
  | brev h w o =>
    cases hr
    exact completes_bitF2 (e := execBrev h w o s) rfl rfl (fun _ _ _ => brev_eq_reverse ..)
  | bfx h sg o => cases hr; exact completes_shiftOp (e := execBfx h sg o s) rfl rfl (fun _ _ _ => bfx_eq_field ..)
  | bfi h o =>
    cases hr
    exact completesShort_of_eq (e := execBfi h o s) rfl rfl (fun _ _ _ => bfi_eq_insert _ _ (val_lt ..))
  | bsel h w o => cases hr; exact completesShort_of_eq (e := execBsel h w o s) rfl rfl (fun _ _ _ => rfl)
  | _ => cases hr

/-- Settles O13: every row of both tables completes, each by its own value lemma. -/
theorem integerResults : Obligations.IntegerResults := by
  intro i r s hwf hr
  rcases hr with hr | hr
  · exact intSpec_completes s hwf hr
  · exact logicSpec_completes s hr

end Sys2Proof.Claims
end

section
/-! PROOF of O14: the carry chain.  The sum and the carry out over exact integers are those of words and naturals, and the
fields of a word that decodes are the fields its instruction encodes to. -/

namespace Sys2Proof.Claims

open Sys2Proof.Machine

/-! ### Writes of a predicate (R169, R229) -/

/-- A mask holds its bits (R176). -/
theorem getLsbD_maskOf (f : Nat → Bool) {l : Nat} (hl : l < 16) : (maskOf f).getLsbD l = f l := by
  have fold (ls : List Nat) (a : Mask) :
      (ls.foldl (fun (a : Mask) l => if f l then a ||| BitVec.ofNat 16 (2 ^ l) else a) a).getLsbD l =
        (a.getLsbD l || (ls.contains l && f l)) := by
    induction ls generalizing a with
    | nil => simp
    | cons k ls ih =>
      rw [List.foldl_cons, ih, List.contains_cons]
      have place : (BitVec.ofNat 16 (2 ^ k)).getLsbD l = decide (k = l) := by
        simp only [BitVec.getLsbD_ofNat, hl, decide_true, Bool.true_and, Nat.testBit_two_pow]
      have bit : (if f k then a ||| BitVec.ofNat 16 (2 ^ k) else a).getLsbD l =
          (a.getLsbD l || (f k && decide (k = l))) := by
        cases f k with
        | false => rw [if_neg (by decide), Bool.false_and, Bool.or_false]
        | true => rw [if_pos rfl, BitVec.getLsbD_or, place, Bool.true_and]
      rw [bit]
      by_cases h : k = l
      · subst h
        cases f k <;> simp
      · have h' : (l == k) = false := beq_false_of_ne (Ne.symm h)
        simp [h, h']
  have listed : lanes16.contains l = true := by
    simp only [lanes16, List.contains_eq_mem, List.mem_cons, List.not_mem_nil, or_false, decide_eq_true_eq]
    omega
  rw [maskOf, fold, listed, Bool.true_and]
  exact (congrArg (· || f l) BitVec.getLsbD_zero).trans (Bool.false_or _)

/-- A write of a predicate changes no other field of the part. -/
theorem putPred_eq (p : Part) (n : Nat) (act : Mask) (f : Nat → Bool) :
    p.putPred n act f = { p with preds := (p.putPred n act f).preds } := by
  unfold Part.putPred Part.setPred
  split <;> rfl

/-- A write to p0 is discarded (R169). -/
theorem preds_putPred_zero (p : Part) {n : Fin 8} (act : Mask) (f : Nat → Bool) (hn : n = 0) :
    (p.putPred n.val act f).preds = p.preds := by
  subst hn; rfl

theorem pred_putPred (p : Part) (n : Nat) (act : Mask) (f : Nat → Bool) (k : Nat) :
    (p.putPred n act f).pred k =
      if k ≠ 0 ∧ n = k then (p.pred n &&& ~~~act) ||| (maskOf f &&& act) else p.pred k := by
  unfold Part.putPred Part.setPred
  by_cases hn : n = 0
  · rw [if_pos hn, if_neg (by omega)]
  · rw [if_neg hn]
    simp only [Part.pred, Store.get_set]
    grind

/-- `putPred` writes the bits of the lanes of `act`, and no other (R229). -/
theorem predWrote_putPred {p p0 : Part} (hp : p0.preds = p.preds) (act : Mask) (n : Fin 8) (f : Nat → Bool) :
    PredWrote p (p0.putPred n.val act f) act (.p n) f := by
  intro k l hl
  have same (j : Nat) : p0.pred j = p.pred j := by simp only [Part.pred, hp]
  rw [pred_putPred, same, same]
  by_cases hk : k ≠ 0 ∧ n.val = k
  · obtain ⟨h0, rfl⟩ := hk
    rw [if_pos ⟨h0, rfl⟩]
    simp only [BitVec.getLsbD_or, BitVec.getLsbD_and, BitVec.getLsbD_not, hl, decide_true, Bool.true_and,
      getLsbD_maskOf f hl, isPred, beq_self_eq_true, ne_eq, h0, not_false_eq_true, true_and]
    cases act.getLsbD l <;> simp
  · rw [if_neg hk, if_neg]
    rintro ⟨h0, hn, -⟩
    exact hk ⟨h0, by simpa [isPred] using hn⟩

/-! ### Completion -/

/-- An instruction none of whose operations raises a flag raises none (R199). -/
theorem flagsOf_zero (d : Opnd) (act : Mask) : flagsOf d act (fun _ => 0) = 0 := by
  cases d with
  | v n =>
    show (lanesOf act).foldl (fun (a : Fl) _ => a ||| 0) 0 = 0
    exact List.foldl_fixed' (fun a => BitVec.or_zero) _
  | _ => rfl

/-- An instruction that writes a destination and then a predicate, and raises no flag, completes with both written. -/
theorem issueReg_runPred {s : State} {h : Hdr} {srcs : List (Opnd × Bool)} {d : Opnd} {w64 : Bool} (n : Fin 8)
    (f : Part → Mask → Nat → Nat) (g : Part → Mask → Nat → Bool) (w : Issues s h srcs [(d, w64)] false) :
    ∃ q, issueReg h srcs [(d, w64)]
        (fun p act => (p.run act d w64 (fun l => (f p act l, 0))).putPred n.val act (g p act)) s =
          .next (s.setPart s.cur q) ∧
      Retires s.current s.cyc h (s.current.pc + 1) q ∧
      Wrote s.current q (s.current.act h) d w64 (f s.current (s.current.act h)) ∧
      PredWrote s.current q (s.current.act h) (.p n) (g s.current (s.current.act h)) ∧
      (n = 0 → q.preds = s.current.preds) ∧
      q.fpstat = s.current.fpstat ∧
      Revived s.current q [(d, w64)] ∧
      q.pend.map Pend.result = s.current.pend.map Pend.result := by
  unfold issueReg
  rw [issueW_next w rfl]
  beta_reduce
  obtain ⟨⟨same, pend⟩, wrote, flags⟩ := run_wrote s.current (s.current.act h) d w64
    (fun l => (f s.current (s.current.act h) l, 0))
  generalize s.current.run (s.current.act h) d w64 (fun l => (f s.current (s.current.act h) l, 0)) = p0
    at same pend wrote flags ⊢
  have flags : p0.fpstat = s.current.fpstat := by
    rw [flagsOf_zero] at flags
    simpa using flags
  have preds : p0.preds = s.current.preds := by rw [same]
  have predWrote := predWrote_putPred preds (s.current.act h) n (g s.current (s.current.act h))
  have discarded := preds_putPred_zero p0 (n := n) (s.current.act h) (g s.current (s.current.act h))
  have put := putPred_eq p0 n.val (s.current.act h) (g s.current (s.current.act h))
  generalize p0.putPred n.val (s.current.act h) (g s.current (s.current.act h)) = p1 at predWrote discarded put ⊢
  have regs : p1 = { s.current with
      vregs := p1.vregs, sregs := p1.sregs, preds := p1.preds, fpstat := p1.fpstat, pend := p1.pend } := by
    rw [put, same]
  have live : p1.live = true := by rw [regs]; exact w.live
  have pc : p1.pc = s.current.pc := by rw [regs]
  refine ⟨_, congrArg _ (close_done live), ?_, ?_, predWrote, fun e => (discarded e).trans preds, ?_, ?_, ?_⟩
  · rw [pc]; exact retires_of w.ready regs
  · rw [put]; exact wrote
  · rw [put]; exact flags
  · intro r hr
    show (p1.undead _).dead.getLsbD r = _
    rw [undead_getLsbD _ _ _ hr, regs]
  · rw [put]; exact pend

/-- The exact result of lane `l` from A, B and the carry in (R207). -/
def carryExact (o : F4) (x : Int → Int → Int → Int) (p : Part) (l : Nat) : Int :=
  x (p.val 0 false o.a l) (p.val 0 false o.b l) (if (p.pmask o.cc).getLsbD l then 1 else 0)

/-- `carryOp` into a predicate writes the low word of each lane's exact result, and then its carry out. -/
theorem carryOp_eq (h : Hdr) (d a b : Opnd) (n : Fin 8) (x : Int → Int → Int → Int) (co : Int → Bool) (s : State) :
    carryOp h ⟨d, a, b, .p n⟩ x co s = issueReg h [(a, false), (b, false)] [(d, false)]
      (fun p act => (p.run act d false
        (fun l => ((carryExact ⟨d, a, b, .p n⟩ x p l % 2 ^ 32).toNat, 0))).putPred n.val act
          (fun l => co (carryExact ⟨d, a, b, .p n⟩ x p l))) s := rfl

section
variable {h : Hdr} {o : F4} {s : State}

/-- The carry chain with an exact result `x` and a carry out `co` of it completes as `CarryDone` says, when `x` wraps to
the word sum or difference and `co` is the carry or borrow of the naturals. -/
theorem carryOp_done {sub : Bool} {x : Int → Int → Int → Int} {co : Int → Bool} (hc : o.cc.isP = true)
    (w : Issues s h [(o.a, false), (o.b, false)] [(o.d, false)] false)
    (sum : ∀ (a b : Nat) (ci : Bool), BitVec.ofInt 32 (x a b (if ci then 1 else 0)) =
      if sub then BitVec.ofNat 32 a - BitVec.ofNat 32 b - (if ci then 1 else 0)
        else BitVec.ofNat 32 a + BitVec.ofNat 32 b + (if ci then 1 else 0))
    (carry : ∀ (a b : Nat) (ci : Bool), co (x a b (if ci then 1 else 0)) =
      if sub then decide (a < b + (if ci then 1 else 0)) else decide (2 ^ 32 ≤ a + b + (if ci then 1 else 0))) :
    ∃ q, carryOp h o x co s = .next (s.setPart s.cur q) ∧ CarryDone h o sub s.current s.cyc q ∧
      (o.cc = .p 0 → q.preds = s.current.preds) := by
  obtain ⟨d, a, b, cc⟩ := o
  cases cc with
  | p n =>
    obtain ⟨q, next, retires, wrote, preds, discarded, fpstat, dead, pend⟩ :=
      issueReg_runPred n (fun p _ l => (carryExact ⟨d, a, b, .p n⟩ x p l % 2 ^ 32).toNat)
        (fun p _ l => co (carryExact ⟨d, a, b, .p n⟩ x p l)) w
    simp only [carryExact, ← toNat_ofInt_pow, sum, carry] at wrote preds
    exact ⟨q, (carryOp_eq ..).trans next, ⟨retires, wrote, preds, fpstat, dead, pend⟩,
      fun e => discarded (Opnd.p.inj e)⟩
  | _ => cases hc

/-- Wrapping a carry in. -/
theorem ofInt_carry (ci : Bool) : BitVec.ofInt 32 (if ci then 1 else 0) = if ci then 1 else 0 := by cases ci <;> rfl

/-- `addc` (R207): a carry out is a sum of 2³² or more. -/
theorem addc_done (hc : o.cc.isP = true) (w : Issues s h [(o.a, false), (o.b, false)] [(o.d, false)] false) :
    ∃ q, exec (.addc h o) s = .next (s.setPart s.cur q) ∧ CarryDone h o false s.current s.cyc q ∧
      (o.cc = .p 0 → q.preds = s.current.preds) := by
  show ∃ q, execAddc h o s = _ ∧ _
  refine carryOp_done hc w (fun a b ci => ?_) (fun a b ci => ?_)
  · simp only [BitVec.ofInt_add, BitVec.ofInt_natCast, ofInt_carry, Bool.false_eq_true, if_false]
  · cases ci <;> simp only [Bool.false_eq_true, if_false, if_true, decide_eq_decide] <;> omega

/-- `subb` (R207): a borrow out is a difference below zero. -/
theorem subb_done (hc : o.cc.isP = true) (w : Issues s h [(o.a, false), (o.b, false)] [(o.d, false)] false) :
    ∃ q, exec (.subb h o) s = .next (s.setPart s.cur q) ∧ CarryDone h o true s.current s.cyc q ∧
      (o.cc = .p 0 → q.preds = s.current.preds) := by
  show ∃ q, execSubb h o s = _ ∧ _
  refine carryOp_done hc w (fun a b ci => ?_) (fun a b ci => ?_)
  · simp only [Int.sub_eq_add_neg, BitVec.sub_eq_add_neg, BitVec.ofInt_add, BitVec.ofInt_neg, BitVec.ofInt_natCast,
      ofInt_carry, if_true]
  · cases ci <;> simp only [Bool.false_eq_true, if_false, if_true, decide_eq_decide] <;> omega

end

/-! ### The words of the carry chain (R165, R169, R174) -/

/-- A word that decodes is encodable, and its fields are those its instruction spells (R174). -/
theorem decode_ok {w : Nat} {i : Instr} (hd : decode w = .ok i) : i.wf = true ∧ i.raw = unpack w := by
  unfold decode Raw.fate at hd
  split at hd
  · cases hb : (unpack w).build with
    | none => simp [hb] at hd
    | some j =>
      simp only [hb] at hd
      split at hd
      next checks =>
        obtain rfl := Fate.ok.inj hd
        simpa using checks
      next => cases hd
  · cases hd

theorem isV_iff {o : Opnd} : o.isV = true ↔ ∃ n, o = .v n := by cases o <;> simp [Opnd.isV]
theorem isP_iff {o : Opnd} : o.isP = true ↔ ∃ n, o = .p n := by cases o <;> simp [Opnd.isP]
theorem vsk_iff {o : Opnd} : o.vsk = true ↔ (∃ n, o = .v n) ∨ (∃ n, o = .s n) ∨ (∃ n, o = .k n) := by
  cases o <;> simp [Opnd.vsk, Opnd.isV, Opnd.isS, Opnd.isK]

/-- The operand kinds of `addc` and `subb`, whose words pass the same checks (R207). -/
structure CarryKinds (o : F4) : Prop where
  d : o.d.isV = true
  a : o.a.vsk = true
  b : o.b.vsk = true
  cc : o.cc.isP = true

theorem carryKinds_of_wf {h : Hdr} {o : F4} (hwf : (Instr.addc h o).wf = true ∨ (Instr.subb h o).wf = true) :
    CarryKinds o := by
  have checks : (h.wf false && o.d.isV && o.a.vsk && o.b.vsk && o.cc.isP) = true := hwf.elim id id
  simp only [Bool.and_eq_true] at checks
  obtain ⟨⟨⟨⟨-, hd⟩, ha⟩, hb⟩, hc⟩ := checks
  exact ⟨hd, ha, hb, hc⟩

/-- The opcode and MOD of a word whose fields are those of an instruction without modifiers. -/
theorem f4_raw_fields {h : Hdr} {o : F4} {op w : Nat} (hr : o.raw h op = unpack w) :
    bitsOf w 95 86 = op ∧ bitsOf w 73 64 = 0 :=
  ⟨(congrArg Raw.op hr).symm, (congrArg Raw.md hr).symm⟩

/-- Settles O14: both instructions are `carryOp`, and the decoder checks a word's fields and operand kinds. -/
theorem carryResults : Obligations.CarryResults := by
  refine ⟨fun h o s hwf w => ?_, fun w h o _ hd => ?_, fun _ => rfl⟩
  · have kinds := carryKinds_of_wf (.inl hwf)
    exact ⟨addc_done kinds.cc w, subb_done kinds.cc w⟩
  · have addcFields (e : decode w = .ok (.addc h o)) := f4_raw_fields (op := 0x003) (decode_ok e).2
    have subbFields (e : decode w = .ok (.subb h o)) := f4_raw_fields (op := 0x004) (decode_ok e).2
    have kinds : CarryKinds o := carryKinds_of_wf (hd.imp (fun e => (decode_ok e).1) (fun e => (decode_ok e).1))
    refine ⟨hd.elim (fun e => (addcFields e).2) (fun e => (subbFields e).2), isV_iff.1 kinds.d, isP_iff.1 kinds.cc, ?_,
      fun e => (addcFields e).1, fun e => (subbFields e).1⟩
    rintro x (rfl | rfl)
    · exact vsk_iff.1 kinds.a
    · exact vsk_iff.1 kinds.b

end Sys2Proof.Claims
end

section
/-! PROOF of O20: the outcomes of `br`, `jmp`, `jmpi` and `loop`.  Each is `issueW` around a body that jumps, goes
on or traps, so one lemma for each of these effects gives the next state, and the rest says which effect the operands lead
to. -/

namespace Sys2Proof.Claims

open Sys2Proof.Machine

/-! ### Effects of an instruction that writes no register -/

/-- A part that retires with nothing else changed moves to the PC (R146). -/
theorem moves_retire {p : Part} {h : Hdr} {cyc : Nat} {pc : Word} (ready : p.st = .ready) :
    Moves p cyc h pc (p.retire h cyc pc) :=
  ⟨retires_of (dsts := []) ready rfl, rfl, rfl, rfl, rfl, rfl, rfl⟩

section
variable {i : Instr} {h : Hdr} {s : State} {e : Out} {srcs : List (Opnd × Bool)} {sp : Bool}
  {body : State → Part → Mask → Eff} {pc : Word}

/-- An instruction whose body jumps goes to the target. -/
theorem goesTo_of_jump (he : exec i s = e) (hx : e = issueW h srcs [] sp (fun _ => false) body s)
    (w : Issues s h srcs [] sp) (hb : body s s.current (s.current.act h) = .jump s pc) : GoesTo i h s pc := by
  refine ⟨_, ?_, moves_retire w.ready⟩
  rw [he, hx, issueW_next w rfl, hb, closed_jump pc w.live]
  rfl

/-- An instruction whose body is done goes on at the next PC. -/
theorem goesTo_of_done (he : exec i s = e) (hx : e = issueW h srcs [] sp (fun _ => false) body s)
    (w : Issues s h srcs [] sp) (hb : body s s.current (s.current.act h) = .done s) :
    GoesTo i h s (s.current.pc + 1) := by
  refine ⟨_, ?_, moves_retire w.ready⟩
  rw [he, hx, issueW_next w rfl, hb, closed_done w.live]
  rfl

/-- An instruction whose body traps takes that trap. -/
theorem traps_of_trap {c : Cause} {m : Mask} (he : exec i s = e)
    (hx : e = issueW h srcs [] sp (fun _ => false) body s) (w : Issues s h srcs [] sp)
    (hb : body s s.current (s.current.act h) = .trap s c m []) : Traps i s c m := by
  rw [Traps, he, hx, issueW_next w rfl, hb]
  rfl

end

/-! ### `br` and `jmp` -/

/-- p0 reads as ones, so every acting lane takes a branch on it (R167, R221). -/
theorem taking_p0 (p : Part) (act : Mask) : taking p act false 0 = act := by
  show BitVec.allOnes 16 &&& act = act
  exact BitVec.allOnes_and

/-- `br p0` is `jmp` (R221). -/
theorem exec_br_p0 (h : Hdr) (off : Word) (s : State) : exec (.br h false 0 off) s = exec (.jmp h off) s := by
  show execBr h false 0 off s = execJmp h off s
  have all (p : Part) (act : Mask) : brMask p false 0 act = act := taking_p0 p act
  simp only [execBr, execJmp, all, if_true]

/-- The three outcomes of `br` (R221). -/
theorem br_outcomes {h : Hdr} {neg : Bool} {n : Fin 8} {off : Word} {s : State} (w : Issues s h [] [] false) :
    let c := taking s.current (s.current.act h) neg n
    (c = s.current.act h → GoesTo (.br h neg n off) h s (s.current.pc + off)) ∧
    (c = 0 → GoesTo (.br h neg n off) h s (s.current.pc + 1)) ∧
    (c ≠ s.current.act h → c ≠ 0 → Traps (.br h neg n off) s .branchNonuniform (s.current.act h)) := by
  refine ⟨fun all => ?_, fun empty => ?_, fun notAll notEmpty => ?_⟩
  · exact goesTo_of_jump (e := execBr h neg n off s) rfl rfl w (if_pos all)
  · have notAll : taking s.current (s.current.act h) neg n ≠ s.current.act h := empty ▸ w.lanes.symm
    exact goesTo_of_done (e := execBr h neg n off s) rfl rfl w ((if_neg notAll).trans (if_pos empty))
  · exact traps_of_trap (e := execBr h neg n off s) rfl rfl w ((if_neg notAll).trans (if_neg notEmpty))

/-! ### `jmpi` -/

theorem lanesOf_ne_nil {m : Mask} (hm : m ≠ 0) : lanesOf m ≠ [] := by
  intro empty
  refine hm (BitVec.eq_of_getLsbD_eq fun l hl => ?_)
  have out : l ∉ lanesOf m := empty ▸ List.not_mem_nil
  rw [mem_lanesOf, not_and, Bool.not_eq_true] at out
  exact (out hl).trans BitVec.getLsbD_zero.symm

theorem headD_mem_lanesOf {m : Mask} (hm : m ≠ 0) : (lanesOf m).headD 0 ∈ lanesOf m := by
  rw [List.headD_eq_head?_getD, List.head?_eq_some_head (lanesOf_ne_nil hm)]
  exact List.head_mem _

/-- Some lane of a mask is its first; a value the lanes agree on is that lane's. -/
theorem uniform_head {p : Part} {c x : Word} {a : Opnd} {m : Mask} (hm : m ≠ 0) (hu : Uniform p c a m x) :
    BitVec.ofNat 32 (p.val c false a ((lanesOf m).headD 0)) = x := by
  obtain ⟨hl, bit⟩ := (mem_lanesOf m _).1 (headD_mem_lanesOf hm)
  exact hu _ hl bit

theorem uniformVal_of_not_v {p : Part} {c : Word} {a : Opnd} {m : Mask} (ha : ∀ r, a ≠ .v r) :
    uniformVal p c a m = some (BitVec.ofNat 32 (p.val c false a ((lanesOf m).headD 0))) := by
  cases a with
  | v r => exact absurd rfl (ha r)
  | _ => rfl

/-- A 32-bit operand's value is its word's. -/
theorem val_eq_val_iff (p : Part) (c : Word) (a : Opnd) (l k : Nat) : p.val c false a l = p.val c false a k ↔
    BitVec.ofNat 32 (p.val c false a l) = BitVec.ofNat 32 (p.val c false a k) := by
  have lt (l : Nat) : p.val c false a l < 2 ^ 32 := val_lt p c false a l
  rw [← BitVec.toNat_inj, BitVec.toNat_ofNat, BitVec.toNat_ofNat, Nat.mod_eq_of_lt (lt l), Nat.mod_eq_of_lt (lt k)]

theorem all_eq_head_iff {p : Part} {c : Word} {a : Opnd} {m : Mask} :
    (lanesOf m).all (fun l => p.val c false a l == p.val c false a ((lanesOf m).headD 0)) = true ↔
      Uniform p c a m (BitVec.ofNat 32 (p.val c false a ((lanesOf m).headD 0))) := by
  simp only [List.all_eq_true, beq_iff_eq, mem_lanesOf, val_eq_val_iff, Uniform, and_imp]

theorem uniformVal_of_uniform {p : Part} {c x : Word} {a : Opnd} {m : Mask} (hm : m ≠ 0) (hu : Uniform p c a m x) :
    uniformVal p c a m = some x := by
  obtain rfl := uniform_head hm hu
  cases a with
  | v r => exact if_pos (all_eq_head_iff.2 hu)
  | _ => rfl

theorem uniformVal_of_not_uniform {p : Part} {c : Word} {r : Fin 32} {m : Mask} (hu : ∀ x, ¬ Uniform p c (.v r) m x) :
    uniformVal p c (.v r) m = none :=
  if_neg (fun all => hu _ (all_eq_head_iff.1 all))

section
variable {h : Hdr} {a : Opnd} {c x : Word} {s : State}

/-- `jmpi` goes to the value its operand has for the acting lanes. -/
theorem jmpi_goesTo (w : Issues s h [(a, false)] [] false) (hv : uniformVal s.current c a (s.current.act h) = some x) :
    GoesTo (.jmpi h a c) h s x :=
  goesTo_of_jump (e := execJmpi h a c s) rfl rfl w (by simp only [hv])

theorem jmpi_traps (w : Issues s h [(a, false)] [] false) (hv : uniformVal s.current c a (s.current.act h) = none) :
    Traps (.jmpi h a c) s .branchNonuniform (s.current.act h) :=
  traps_of_trap (e := execJmpi h a c s) rfl rfl w (by simp only [hv])

end

/-! ### `loop` -/

/-- The part once `loop` has decremented its copy of the register (R225). -/
def countedDown (p : Part) (n : Fin 16) : Part := p.writeS n.val (p.readS n.val - 1)

theorem uni_countedDown (p : Part) (n : Fin 16) (k : Nat) :
    (countedDown p n).uni k = if k = n.val then p.readS n.val - 1 else p.uni k :=
  (uni_writeS ..).trans (by simp only [eq_comm])

theorem pend_countedDown (p : Part) (n : Fin 16) : (countedDown p n).pend.map Pend.result = p.pend.map Pend.result :=
  pend_writeS ..

section
variable {h : Hdr} {n : Fin 16} {off : Word} {s : State}

/-- With no lane to act `loop` goes on, and its register keeps its value (R225). -/
theorem loop_noLanes (live : s.current.live = true) (ready : s.current.st = .ready) (noLane : s.current.act h = 0) :
    GoesTo (.loop h n off) h s (s.current.pc + 1) := by
  refine ⟨_, ?_, moves_retire ready⟩
  show execLoop h n off s = _
  rw [execLoop, issueW_noLanes live ready rfl rfl noLane]
  rfl

/-- With a lane to act the part retires with its register counted down, past the loop when that gives zero (R225). -/
theorem exec_loop_lanes (w : Issues s h [] [] false) :
    exec (.loop h n off) s = .next (s.setPart s.cur ((countedDown s.current n).retire h s.cyc
      (s.current.pc + (if s.current.readS n.val = 1 then 1 else off)))) := by
  show execLoop h n off s = _
  rw [execLoop, issueW_next w rfl]
  have live : (countedDown s.current n).live = true := w.live
  by_cases last : s.current.readS n.val = 1
  · simp only [if_pos (sub_eq_zero.2 last), if_pos last]
    exact congrArg _ (close_done live)
  · simp only [if_neg (mt sub_eq_zero.1 last), if_neg last]
    exact congrArg _ (close_jump _ live)

/-- `loop` with a lane to act writes its register and nothing else (R225). -/
theorem loop_lanes (w : Issues s h [] [] false) :
    ∃ q, exec (.loop h n off) s = .next (s.setPart s.cur q) ∧
      Retires s.current s.cyc h (s.current.pc + (if s.current.readS n.val = 1 then 1 else off)) q ∧
      (∀ k, q.uni k = if k = n.val then s.current.readS n.val - 1 else s.current.uni k) ∧
      q.vregs = s.current.vregs ∧ q.preds = s.current.preds ∧ q.fpstat = s.current.fpstat ∧ q.dead = s.current.dead ∧
      q.pend.map Pend.result = s.current.pend.map Pend.result := by
  have ran := exec_loop_lanes (n := n) (off := off) w
  have ready := w.ready
  generalize s.current = p at ran ready ⊢
  generalize p.pc + (if p.readS n.val = 1 then 1 else off) = pc at ran ⊢
  have retires : Retires p s.cyc h pc ((countedDown p n).retire h s.cyc pc) :=
    retires_of (dsts := []) (q := countedDown p n) ready rfl
  obtain ⟨-, vregs, sregs, preds, fpstat, dead, pend⟩ :=
    moves_retire (p := countedDown p n) (h := h) (cyc := s.cyc) (pc := pc) ready
  refine ⟨_, ran, retires, fun k => ?_, vregs, preds, fpstat, dead, ?_⟩
  · rw [Part.uni, sregs]
    exact uni_countedDown p n k
  · rw [pend, pend_countedDown]

end

/-- Settles O20: each instruction's body jumps, goes on or traps as its acting lanes say. -/
theorem branchResults : Obligations.BranchResults :=
  ⟨fun _ _ _ _ _ w => br_outcomes w,
    fun h off s w => goesTo_of_jump (e := execJmp h off s) rfl rfl w rfl,
    fun _ _ _ _ _ w agree => jmpi_goesTo w (uniformVal_of_uniform w.lanes agree),
    fun _ _ _ _ w differ => jmpi_traps w (uniformVal_of_not_uniform differ),
    fun _ _ _ _ notV w => jmpi_goesTo w (uniformVal_of_not_v notV),
    exec_br_p0,
    fun _ _ _ _ live ready noLane => loop_noLanes live ready noLane,
    fun _ _ _ _ w => loop_lanes w⟩

end Sys2Proof.Claims
end
